-- ==== Sys2Proof/Word.lean ====
section
/-! DEFINITION. Bytes and the little-endian words that the formats of the programme link and the clip store are made of
(spec/11, "Layouts": all multi-byte fields are little-endian, signed fields are two's complement). -/

namespace Sys2Proof

/-- One byte of a frame, a message or a flash page. -/
abbrev Byte := BitVec 8

/-- The number that a run of bytes spells, lowest byte first. -/
def leNat : List Byte → Nat
  | [] => 0
  | b :: bs => b.toNat + 256 * leNat bs

/-- `n` bytes from offset `off` on (fewer where the text ends). -/
def slice (bs : List Byte) (off n : Nat) : List Byte := (bs.drop off).take n

/-- The little-endian number of `n` bytes at offset `off`. -/
def leAt (bs : List Byte) (off n : Nat) : Nat := leNat (slice bs off n)

/-- The lowest `n` bytes of `v`, lowest first. -/
def toLE : Nat → Nat → List Byte
  | 0, _ => []
  | n + 1, v => BitVec.ofNat 8 v :: toLE n (v / 256)

/-- A number below `2 ^ n` read as `n`-bit two's complement. -/
def asSigned (n v : Nat) : Int := if v < 2 ^ (n - 1) then (v : Int) else (v : Int) - (2 ^ n : Nat)

/-- The `n`-bit two's complement pattern of a value in range, as a number. -/
def fromSigned (n : Nat) (v : Int) : Nat := (v % ((2 ^ n : Nat) : Int)).toNat

/-- The sum of the little-endian 32-bit words of a byte text, the last word completed with zero bytes. -/
def wordSum : List Byte → Nat
  | a :: b :: c :: d :: rest => leNat [a, b, c, d] + wordSum rest
  | bs => leNat bs

/-- The check figure of the frames and of clip audio: the word sum modulo 2^32 (R138, R155). -/
def sum32 (bs : List Byte) : Nat := wordSum bs % 2 ^ 32

end Sys2Proof
end

