-- ==== Sys2Proof/Syntax.lean ====
section
/-! DEFINITION. The commands of the block: one constructor of `Instr` per row of spec/opcode_table.json, with the row's
operands. A request's fields are the reading of its message body: spec/00_scope.md gives management messages as named
fields without a byte layout, so the command carries the fields, and `none` says that the body has not the length its
kind requires (R170; log 4). -/

namespace Sys2Proof

/-- A region number 0..23. -/
abbrev Region := Fin 24

/-- A voice number 0..31: 0..23 home voices, 24..31 pool voices. -/
abbrev VoiceNo := Fin 32

/-- A link group 1..7, counted from 0 here: group `g` of the manual is index `g - 1`. -/
abbrev LinkGroup := Fin 7

/-- A gain group 0..7. -/
abbrev GainGroup := Fin 8

/-- One attempt of a page read: the positions of the data bits (0..32,767, bit `n` is bit `n mod 8` of byte `n / 8`)
that read flipped. The ECC outcome of the attempt is computed from them (R135). -/
abbrev Attempt := List Nat

/-- The holder of a ramp whose completion is taken (R86). -/
inductive RampHolder where
  | bed (r : Region)
  | voice (v : VoiceNo)
  | group (g : GainGroup)
deriving DecidableEq, Repr

/-- A fill policy code: the two that R42 defines, or any other code. -/
inductive FillCode where
  | filler
  | earlyNetwork
  | undefined (code : Nat)
deriving DecidableEq, Repr

/-- A length choice code of Append Item: the two that R43 defines, or any other code. -/
inductive LengthCode where
  | full
  | short
  | undefined (code : Nat)
deriving DecidableEq, Repr

/-- A transition code of Append Item: the two that R43 defines, or any other code. -/
inductive TransitionCode where
  | cut
  | mix
  | undefined (code : Nat)
deriving DecidableEq, Repr

/-- The fields of Configure Region (R36). -/
structure ConfigureRegionFields where
  region : Nat
  enabled : Bool
  fillerClip : Nat
  fillerLevel : Nat
  duckLevel : Nat
  overrunMs : Nat
  maxBreakMs : Nat
  armTimeoutS : Nat
deriving DecidableEq, Repr

/-- The fields of Open Plan (R42). -/
structure OpenPlanFields where
  region : Nat
  slot : Nat
  breakId : Nat
  leadInMs : Nat
  leadOutMs : Nat
  fillPolicy : FillCode
  singleUse : Bool
deriving DecidableEq, Repr

/-- The fields of Append Item (R43): the nine item fields and the level-given flag. -/
structure AppendItemFields where
  region : Nat
  slot : Nat
  clip : Nat
  substitute : Nat
  length : LengthCode
  transition : TransitionCode
  transitionMs : Nat
  levelGiven : Bool
  level : Nat
  group : Nat
  droppable : Bool
  link : Nat
deriving DecidableEq, Repr

/-- A region and a slot, the fields of Close Plan, Clear Plan and Read Plan (R44 to R46). -/
structure SlotFields where
  region : Nat
  slot : Nat
deriving DecidableEq, Repr

/-- The fields of Set Group Level (R90). -/
structure GroupLevelFields where
  group : Nat
  target : Nat
  durationMs : Nat
deriving DecidableEq, Repr

/-- The fields of Configure Link Group (R92). -/
structure LinkGroupFields where
  group : Nat
  mask : BitVec 24
  waitMs : Nat
deriving DecidableEq, Repr

/-- The fields of Load Page Data (R122). -/
structure LoadFields where
  offset : Nat
  count : Nat
  data : List Byte
deriving DecidableEq, Repr

/-- The fields of Read Page (R141). -/
structure ReadPageFields where
  page : Nat
  offset : Nat
  count : Nat
  single : Bool
deriving DecidableEq, Repr

/-- The commands: the steps of spec/95_what_each_step_holds.md, one constructor per row of spec/opcode_table.json. -/
inductive Instr where
  /-- POWER_ON with the value on the eight address pins (R166). -/
  | powerOn (pins : BitVec 8)
  /-- PROGRAMME_FRAME_ARRIVAL with the bytes received (R155). -/
  | programmeFrameArrival (bytes : List Byte)
  /-- FRAME_PERIOD_EVENT. -/
  | framePeriodEvent
  /-- GATE_DEADLINE of a link group's gate. -/
  | gateDeadline (g : LinkGroup)
  /-- JOIN_DEADLINE of a link group's gate. -/
  | joinDeadline (g : LinkGroup)
  /-- GATE_OPENING: the starts that a gate has given. -/
  | gateOpening (g : LinkGroup)
  /-- CUE_DISPATCH of the first entry due to a region. -/
  | cueDispatch (r : Region)
  /-- LEAD_IN_START of a region that waited for its voice. -/
  | leadInStart (r : Region)
  /-- ARM_TIMER_EXPIRY of a region. -/
  | armTimerExpiry (r : Region)
  /-- BREAK_TIMER_EXPIRY of a region. -/
  | breakTimerExpiry (r : Region)
  /-- RAMP_COMPLETION of a bed, voice or group ramp. -/
  | rampCompletion (h : RampHolder)
  /-- ITEM_END of a voice. -/
  | itemEnd (v : VoiceNo)
  /-- LOOP_WRAP of a looping voice. -/
  | loopWrap (v : VoiceNo)
  /-- PRIMED_ENTRY_START of a region after a GATE skip. -/
  | primedEntryStart (r : Region)
  /-- FILLER_START_AFTER_SKIP of a region. -/
  | fillerStartAfterSkip (r : Region)
  /-- POOL_REQUEST of a region at its request point. -/
  | poolRequest (r : Region)
  /-- DECISION_POINT of a region's waiting entry. -/
  | decisionPoint (r : Region)
  /-- MIX_START of a region. -/
  | mixStart (r : Region)
  /-- LATE_CROSSFADE_START of a region. -/
  | lateCrossfadeStart (r : Region)
  /-- READ_START: the Read Scheduler serves its first pending request. -/
  | readStart
  /-- READ_DELIVERY with what the array read at each of up to three attempts. -/
  | readDelivery (first second third : Attempt)
  /-- VERIFY_TAKE. -/
  | verifyTake
  /-- STORE_OPERATION_START. -/
  | storeOperationStart
  /-- PAGE_PROGRAM_COMPLETE with the array's report. -/
  | pageProgramComplete (pass : Bool)
  /-- BLOCK_ERASE_COMPLETE with the array's report. -/
  | blockEraseComplete (pass : Bool)
  /-- ERASE_SUSPENDED. -/
  | eraseSuspended
  /-- SETTINGS_WRITE_COMPLETE. -/
  | settingsWriteComplete
  /-- SOFT_RESET taking effect. -/
  | softReset
  /-- UNKNOWN_KIND: a taken request of no catalogue kind. -/
  | unknownKind
  /-- IDENTIFY. -/
  | identify
  /-- RESET_ENABLE. -/
  | resetEnable
  /-- RESET. -/
  | reset
  /-- CONFIGURE_REGION. -/
  | configureRegion (f : Option ConfigureRegionFields)
  /-- REGION_STATUS of a region number. -/
  | regionStatus (f : Option Nat)
  /-- FORCE_NETWORK of a region number. -/
  | forceNetwork (f : Option Nat)
  /-- RELEASE_BYPASS of a region number. -/
  | releaseBypass (f : Option Nat)
  /-- OPEN_PLAN. -/
  | openPlan (f : Option OpenPlanFields)
  /-- APPEND_ITEM. -/
  | appendItem (f : Option AppendItemFields)
  /-- CLOSE_PLAN. -/
  | closePlan (f : Option SlotFields)
  /-- CLEAR_PLAN. -/
  | clearPlan (f : Option SlotFields)
  /-- READ_PLAN. -/
  | readPlan (f : Option SlotFields)
  /-- VOICE_STATUS of a voice number. -/
  | voiceStatus (f : Option Nat)
  /-- SET_GROUP_LEVEL. -/
  | setGroupLevel (f : Option GroupLevelFields)
  /-- READ_LEVELS. -/
  | readLevels
  /-- CONFIGURE_LINK_GROUP. -/
  | configureLinkGroup (f : Option LinkGroupFields)
  /-- GATE_STATUS of a group number. -/
  | gateStatus (f : Option Nat)
  /-- DIRECTORY_QUERY from a clip number. -/
  | directoryQuery (f : Option Nat)
  /-- CLIP_STATUS of a clip number. -/
  | clipStatus (f : Option Nat)
  /-- STORE_UNLOCK. -/
  | storeUnlock
  /-- LOAD_PAGE_DATA. -/
  | loadPageData (f : Option LoadFields)
  /-- COMMIT_PAGE of a logical page. -/
  | commitPage (f : Option Nat)
  /-- ERASE_BLOCK of a logical block. -/
  | eraseBlock (f : Option Nat)
  /-- SET_PROTECT_BOUNDARY with a boundary. -/
  | setProtectBoundary (f : Option Nat)
  /-- RAISE_LOCK_FLOOR with a floor. -/
  | raiseLockFloor (f : Option Nat)
  /-- VERIFY_CLIP of a clip number. -/
  | verifyClip (f : Option Nat)
  /-- READ_PAGE. -/
  | readPage (f : Option ReadPageFields)
  /-- REMAP_STATUS from an entry position. -/
  | remapStatus (f : Option Nat)
  /-- FETCH_AS_RUN with a count. -/
  | fetchAsRun (f : Option Nat)
  /-- AS_RUN_STATUS. -/
  | asRunStatus
  /-- LINK_STATUS. -/
  | linkStatus
deriving DecidableEq, Repr

end Sys2Proof
end

