-- ==== Sys2Proof/Decode.lean ====
section
/-! DEFINITION. The opcode table of this block gives no row any bits (spec/98_reader.md: 60 rows, none with fixed bits
or fields), so no word spells a command. The byte formats that do cross the programme link are read in
Sys2Proof/Machine/Formats.lean. -/

namespace Sys2Proof

/-- The command that a word spells by the table's bits: none, since the table gives no bits (log 38). -/
def decodeTableWord (_nbits _w : Nat) : Option Instr := none

end Sys2Proof
end

