-- ==== Sys2Proof/Config.lean ====
section
/-! DEFINITION. What one part of this hardware fixes, and the free values: constants without a body, which stand for what
the manual leaves open. No proof can see their value, so a claim that mentions one holds for every value. -/

namespace Sys2Proof.Config

/-- R173: the identity figures. -/
def vendorCode : Nat := 0x3A71
def partCode : Nat := 2432
def revision : Nat := 1

/-- R119, R142: the geometry of the store. -/
def logicalBlocks : Nat := 32768
def spareBlocks : Nat := 256
def pagesPerBlock : Nat := 64
def logicalPages : Nat := 2097152
def pageBytes : Nat := 4096

/-- R127, R142, R150, R169, R171, R172: the capacities of the queues and tables. -/
def storeQueueMax : Nat := 8
def wornMax : Nat := 64
def logMax : Nat := 4096
def inputMax : Nat := 16
def returnMax : Nat := 32
def noticeMax : Nat := 24

/-- R164: the payload of a return frame. -/
def payloadMax : Nat := 496

/-- FREE VALUE (log 10): byte `off` of a flash page whose contents the manual calls indeterminate, by the occasion. -/
opaque freeByte : Nat → Nat → Byte

/-- FREE VALUE (log 10): the programmed tag of such a page, by the occasion. -/
opaque freeTag : Nat → Bool

/-- FREE VALUE (log 25): whether a settings write that a loss of power cuts off had taken effect, by the occasion. -/
opaque writeSurvives : Nat → Bool

/-- FREE VALUE (log 15): the station sample count after the 48-bit limit of R162. -/
opaque countAtLimit : BitVec 48

/-- DESIGN CHOICE (log 8): what the address pins carry in State.reset. -/
def resetPins : BitVec 8 := 0

end Sys2Proof.Config
end

