-- ==== Sys2Proof/Machine/State.lean ====
section
/-! DEFINITION. The state of the NR2432, block by block (spec/00_scope.md, "Functional blocks"), as plain data, and the
state after power-on. Fields that the manual does not name and the model needs say MODEL in their docstring. -/

namespace Sys2Proof.Machine

/-! ## Time -/

/-- Air time: a day 0..65,535 and a millisecond of day 0..86,399,999. -/
structure AirTime where
  day : Nat
  ms : Nat
deriving DecidableEq, Repr

/-- A position on the programme: a frame sequence and a sample 0..47 of that frame. -/
structure Position where
  seq : Nat
  sample : Nat
deriving DecidableEq, Repr

/-! ## Cues (spec/01) -/

/-- The four kinds of cue. -/
inductive CueKind where
  | prepare
  | split
  | rejoin
  | cancel
deriving DecidableEq, Repr

/-- A cue record as received: the kind is still a code. -/
structure CueRecord where
  kind : Nat
  breakId : Nat
  target : Position
  mask : BitVec 24
  nominal : Nat
deriving DecidableEq, Repr

/-- An entry of the pending cue table, with the regions it has been dispatched to. -/
structure PendingCue where
  kind : CueKind
  breakId : Nat
  target : Position
  mask : BitVec 24
  nominal : Nat
  dispatched : BitVec 24
deriving DecidableEq, Repr

/-- An entry of the executed-cue history (R9). -/
structure ExecutedCue where
  kind : CueKind
  breakId : Nat
  target : Position
deriving DecidableEq, Repr

/-- The Cue Unit: pending table in table order, history oldest first, intake holding, dropped count. -/
structure CueUnit where
  table : List PendingCue
  history : List ExecutedCue
  intake : List CueRecord
  dropped : Nat
deriving DecidableEq, Repr

/-! ## Levels (spec/05) -/

/-- A ramp in progress: target Rt, step interval k, increments remaining n, counter (R85). A ramp with no increment
remaining has completed, and its completion has not been taken. -/
structure Ramp where
  target : Nat
  interval : Nat
  left : Nat
  counter : Nat
deriving DecidableEq, Repr

/-- A level with the ramp it carries, if any: the bed of a region, the R of a voice, the F of a group. -/
structure Fader where
  level : Nat
  ramp : Option Ramp
deriving DecidableEq, Repr

/-- A group of the Level Unit: its fader, the request waiting for the next boundary (target, duration in ms), and the
level F at the last frame boundary passed, which Read Levels returns (R90, R91). -/
structure GroupRec where
  fader : Fader
  waiting : Option (Nat × Nat)
  shown : Nat
deriving DecidableEq, Repr

/-! ## Plans and run lists (spec/03) -/

/-- What the region airs when its run list is exhausted. -/
inductive FillPolicy where
  | filler
  | earlyNetwork
deriving DecidableEq, Repr

/-- Whether an item plays whole or to its short end. -/
inductive LengthChoice where
  | full
  | short
deriving DecidableEq, Repr

/-- How an item joins the item before it. -/
inductive Transition where
  | cut
  | mix
deriving DecidableEq, Repr

/-- A plan item with its nine fields, as held after the clamps of R43. -/
structure PlanItem where
  clip : Nat
  substitute : Nat
  length : LengthChoice
  transition : Transition
  transitionMs : Nat
  level : Nat
  group : GainGroup
  droppable : Bool
  link : Option LinkGroup
deriving DecidableEq, Repr

/-- A plan: its header and its items. -/
structure Plan where
  breakId : Nat
  leadInMs : Nat
  leadOutMs : Nat
  fill : FillPolicy
  singleUse : Bool
  items : List PlanItem
deriving DecidableEq, Repr

/-- The state of a plan slot. -/
inductive SlotState where
  | empty
  | loading
  | ready
  | inUse
  | retiring
deriving DecidableEq, Repr

/-- A plan slot; an EMPTY slot holds no plan. -/
structure Slot where
  state : SlotState
  plan : Option Plan
deriving DecidableEq, Repr

/-- Why an entry is skipped. -/
inductive SkipReason where
  | absent
  | window
  | faulty
  | dropped
  | gate
deriving DecidableEq, Repr

/-- The status of a run entry. -/
inductive EntryStatus where
  | pending
  | playing
  | done
  | trimmed
  | skipped (why : SkipReason)
deriving DecidableEq, Repr

/-- The flags of a run entry. -/
structure RunFlags where
  substituted : Bool
  shortAbsent : Bool
  lateStart : Bool
  degradedMix : Bool
  lateMix : Bool
  dropout : Bool
  underrun : Bool
  joinedLate : Bool
deriving DecidableEq, Repr

/-- A run entry. `startAir` is MODEL: the air time at the start position, which the ITEM record carries (R147). -/
structure RunEntry where
  index : Nat
  clip : Nat
  length : LengthChoice
  effective : Option Nat
  transition : Transition
  transitionSamples : Nat
  overlap : Nat
  level : Nat
  group : GainGroup
  link : Option LinkGroup
  status : EntryStatus
  flags : RunFlags
  start : Option Position
  startAir : Option AirTime
  played : Nat
deriving DecidableEq, Repr

/-! ## Regions (spec/02) -/

/-- The nine states of a region. -/
inductive RegionState where
  | network
  | primed
  | leadin
  | localPlay
  | gated
  | fill
  | leadout
  | returned
  | bypass
deriving DecidableEq, Repr

/-- Why a break ended. -/
inductive EndCause where
  | rejoinCue
  | timeout
  | cancel
  | bypass
deriving DecidableEq, Repr

/-- The region configuration of R15. -/
structure RegionConfig where
  enabled : Bool
  fillerClip : Nat
  fillerLevel : Nat
  duckLevel : Nat
  overrunMs : Nat
  maxBreakMs : Nat
  armTimeoutS : Nat
deriving DecidableEq, Repr

/-- The split point with its station sample count and the split air time. -/
structure SplitPoint where
  pos : Position
  count : Nat
  air : AirTime
deriving DecidableEq, Repr

/-- MODEL: what has been done so far towards the next kept entry, or the filler after a skip. -/
inductive Prep where
  /-- nothing yet -/
  | none
  /-- staged as the successor on the lead voice (R65) -/
  | staged
  /-- a pool request stands on the waiting list (R67) -/
  | waiting
  /-- the named voice is still playing the outgoing entry and will be primed at its item end (R66, R67) -/
  | awaiting (v : VoiceNo)
  /-- the named voice is primed, or is being primed, for the incoming entry (R66) -/
  | incoming (v : VoiceNo)
  /-- the lead voice is primed with the entry that follows a GATE skip (R75) -/
  | afterSkip
  /-- the lead voice is primed with the filler after a GATE skip (R29) -/
  | fillerAfterSkip
deriving DecidableEq, Repr

/-- MODEL: what stood before the starts of entries made at one sample, for the break end that undoes them (R32, log 60): the
station sample count, the bed, the lead voice, and the outgoing voice of a crossfade with its fader. -/
structure StartNote where
  count : Nat
  bed : Fader
  lead : Option VoiceNo
  out : Option (VoiceNo × Fader)
deriving DecidableEq, Repr

/-- MODEL: the last sample at which the region appended an ITEM record of its open break: its station sample count, and the
appended count before the first of those records (R149, log 59). -/
structure AppendNote where
  count : Nat
  first : BitVec 48
deriving DecidableEq, Repr

/-- The open break of a region. MODEL fields: `timerRuns` (R22: a break end stops the timer, and the deadline is kept),
`endedAt` (the station sample count at which the end cause was set, for the same-sample test of R31), `prep`, `mixLate`
(the mix start passed with the incoming voice not READY, R70), `fillerTested` (R29's test has been made), `before` (R32) and
`logged` (R149). -/
structure OpenBreak where
  breakId : Nat
  slot : Fin 16
  run : List RunEntry
  split : Option SplitPoint
  deadline : Option Nat
  timerRuns : Bool
  leadInStart : Option Position
  lateStart : Nat
  fillSamples : Nat
  itemsAired : Nat
  endCause : Option EndCause
  closing : Bool
  endedAt : Option Nat
  prep : Prep
  mixLate : Bool
  fillerTested : Bool
  before : Option StartNote
  logged : Option AppendNote
deriving DecidableEq, Repr

/-- The region record. MODEL fields: `out` (the samples formed so far in this period, oldest first), `arriving` (the gate
the region has arrived at in the sample now being worked, before the Gate Unit settles the sample's arrivals, R95),
`opening` (the gate that has given this region a start at the next sample 0, R97). -/
structure RegionRec where
  state : RegionState
  config : RegionConfig
  bed : Fader
  armDeadline : Option Nat
  brk : Option OpenBreak
  lead : Option VoiceNo
  pool : Option VoiceNo
  clampCount : Nat
  peakL : Nat
  peakR : Nat
  out : List (Int × Int)
  arriving : Option LinkGroup
  opening : Option LinkGroup
deriving DecidableEq, Repr

/-! ## The flash array -/

/-- The bytes of a page that no cell lists: 0xFF, or indeterminate ones of some occasion (R119, R134). -/
inductive Fill where
  | erased
  | free (occasion : Nat)
deriving DecidableEq, Repr

/-- A flash page: its bytes (the listed ones, and `fill` elsewhere), its programmed tag, and whether it is the half
written page of an abandoned program, whose header checks fail (R134). -/
structure PageImage where
  fill : Fill
  cells : List Host.Cell
  tag : Bool
  halfWritten : Bool
deriving DecidableEq, Repr

/-- An erased page: 0xFF in every byte and a clear tag (R119). -/
def PageImage.blank : PageImage := ⟨.erased, [], false, false⟩

/-! ## Voices (spec/04) -/

/-- The three clip formats. -/
inductive Format where
  | m16
  | s16
  | s24
deriving DecidableEq, Repr

/-- The state of a voice. -/
inductive VoiceState where
  | idle
  | priming
  | ready
  | playing
  | releasing
deriving DecidableEq, Repr

/-- Whose page a ring page is: the clip's, or the staged successor's. -/
inductive Owner where
  | current
  | successor
deriving DecidableEq, Repr

/-- A page of a voice's play order: its owner, its audio page index, and its logical page. -/
structure PageRef where
  owner : Owner
  index : Nat
  page : Nat
deriving DecidableEq, Repr

/-- A page in a ring: a failed page plays zeros (R72). -/
structure RingPage where
  ref : PageRef
  image : PageImage
  failed : Bool
deriving DecidableEq, Repr

/-- A voice's pending read: the page requested and whether the read is in flight. -/
structure PendingRead where
  ref : PageRef
  inFlight : Bool
deriving DecidableEq, Repr

/-- A clip given to a voice: positions, level, group, loop flag, the clip's audio base page, format and trim, and the run
entry it belongs to (none for the filler). -/
structure Prime where
  clip : Nat
  format : Format
  trim : Int
  audioPage : Nat
  startPos : Nat
  endPos : Nat
  level : Nat
  group : GainGroup
  loop : Bool
  run : Option Nat
deriving DecidableEq, Repr

/-- A staged successor: the clip with its figures, and whether it is held for a gate. -/
structure Successor where
  prime : Prime
  held : Bool
deriving DecidableEq, Repr

/-- The voice record. MODEL fields: `audioPage` (the logical page of audio page 0 of the clip), `run` (the index of the run
entry that the voice plays), `startedAt` (the station sample count at which the clip's play began), `reported` (this play
has reported its first failed page, R72), `waiting` (a priming request waiting on a RELEASING voice, R60). -/
structure Voice where
  state : VoiceState
  holder : Option Region
  clip : Option Nat
  format : Format
  trim : Int
  audioPage : Nat
  pos : Nat
  endPos : Nat
  loop : Bool
  successor : Option Successor
  fader : Fader
  group : GainGroup
  releaseAtRampEnd : Bool
  ring : List RingPage
  pending : Option PendingRead
  dropout : Bool
  underrun : Bool
  run : Option Nat
  startedAt : Option Nat
  reported : Bool
  waiting : Option Prime
deriving DecidableEq, Repr

/-- An entry of the Pool Arbiter's waiting list: the region, the run entry and the decision point. -/
structure Waiter where
  region : Region
  run : Nat
  decision : Nat
deriving DecidableEq, Repr

/-! ## Gates (spec/06) -/

/-- The state of a gate. -/
inductive GateState where
  | closed
  | waiting
  | opened
deriving DecidableEq, Repr

/-- A link group's configuration and gate record (R92, R93). The expected set is a region mask; the arrived set lists each
region with its join offset, the missed set each region with the break ID of its wait. -/
structure Gate where
  mask : BitVec 24
  waitMs : Nat
  state : GateState
  breakId : Option Nat
  expected : BitVec 24
  arrived : List (Region × Nat)
  deadline : Option Nat
  openPoint : Option Nat
  joinDeadline : Option Nat
  missed : List (Region × Nat)
deriving DecidableEq, Repr

/-! ## The Clip Directory and the Verify Unit (spec/07, spec/09) -/

/-- The header fields that an entry holds. -/
structure ClipHeader where
  format : Format
  length : Nat
  shortEnd : Option Nat
  trim : Int
  notBefore : Option AirTime
  notAfter : Option AirTime
  audioSum : Nat
deriving DecidableEq, Repr

/-- The state of a registered entry. An EMPTY entry is one that the directory does not list. -/
inductive ClipState where
  | unverified
  | ready
  | suspect
  | bad
  | retiring
deriving DecidableEq, Repr

/-- The figures of a verify. -/
structure VerifyResult where
  verified : Nat
  notVerified : Nat
  lastGood : Option Nat
  sum : Nat
deriving DecidableEq, Repr

/-- A registered directory entry. Its holders are counted from the voices and run lists that reference it (R109, log 29). -/
structure DirEntry where
  clip : Nat
  state : ClipState
  firstBlock : Nat
  extent : Nat
  header : ClipHeader
  faults : Nat
  weak : Nat
  lastVerify : Option VerifyResult
deriving DecidableEq, Repr

/-- SCANNING or COMPLETE. -/
inductive DirState where
  | scanning
  | complete
deriving DecidableEq, Repr

/-- The scan state, and whether the scan's class 5 read is pending or in flight. -/
structure ScanState where
  next : Nat
  registered : Nat
  duplicates : Nat
  unreadable : Nat
  reading : Bool
deriving DecidableEq, Repr

/-- The Clip Directory: the registered entries in ascending clip number, and the verify queue, each clip number with the
tag of the request that added it. -/
structure Directory where
  state : DirState
  entries : List DirEntry
  scan : ScanState
  queue : List (Nat × Option Nat)
deriving DecidableEq, Repr

/-- The current verify job. -/
structure VerifyJob where
  clip : Nat
  tag : Option Nat
  next : Nat
  verified : Nat
  notVerified : Nat
  lastGood : Option Nat
  sum : Nat
  reading : Bool
deriving DecidableEq, Repr

/-! ## The Read Scheduler, the Store Controller and the Settings Area (spec/04, spec/08, spec/09) -/

/-- Who made the read in flight. `cancelledVerify` is the read of a cancelled verify job (R139), `discarded` one that a
soft reset left without a requester (R77). -/
inductive Requester where
  | voice (v : VoiceNo)
  | relocation
  | readPage
  | verify
  | cancelledVerify
  | scan
  | discarded
deriving DecidableEq, Repr

/-- The read in flight: requester, logical page, and the physical block it reads, taken at its start (R142). -/
structure InFlight where
  who : Requester
  page : Nat
  block : Nat
deriving DecidableEq, Repr

/-- A store operation as queued. `head` notes the clip number and extent that a head commit will register. -/
inductive StoreOp where
  | commit (page tag : Nat) (head : Option (Nat × Nat))
  | erase (block tag : Nat)
  | boundary (value tag : Nat)
  | floor (floor boundary tag : Nat)
deriving DecidableEq, Repr

/-- The figures of a relocation or erase remap: the spare in hand, the spares spent so far and not yet recorded, the
pages copied and lost (R143 to R145). -/
structure Spares where
  spare : Nat
  spent : List Nat
  copied : Nat
  lost : Nat
deriving DecidableEq, Repr

/-- The step that the current array operation is at. -/
inductive Stage where
  | program
  | erase
  | settings
  | relocErase (m : Spares)
  | relocRead (m : Spares) (index : Nat)
  | relocProgram (m : Spares) (index : Nat) (image : PageImage)
  | relocStaged (m : Spares)
  | relocInstall (m : Spares)
  | relocWorn (spent : List Nat)
  | remapInstall (m : Spares)
  | remapErase (m : Spares)
  | remapWorn (spent : List Nat)
deriving DecidableEq, Repr

/-- The phase of the current operation. -/
inductive Phase where
  | running
  | suspending
  | suspended
deriving DecidableEq, Repr

/-- The current array operation: the store operation, its step, whether the step has started (MODEL: between two steps the
array is free), its phase and its suspension count. -/
structure Current where
  op : StoreOp
  stage : Stage
  started : Bool
  phase : Phase
  suspensions : Nat
deriving DecidableEq, Repr

/-- The Store Controller. The staging buffer lists the bytes that differ from 0xFF; `holds` is its held flag with the page of
the commit that holds it. -/
structure Store where
  unlocked : Bool
  staging : List Host.Cell
  holds : Option Nat
  queue : List StoreOp
  current : Option Current
  pStar : Nat
  lStar : Nat
deriving DecidableEq, Repr

/-- The Settings Area: protect boundary, lock floor, remap entries in ascending logical block, spent spares, worn set. -/
structure Settings where
  boundary : Nat
  floor : Nat
  remap : List (Nat × Nat)
  spent : List Nat
  worn : List Nat
deriving DecidableEq, Repr

/-! ## The As-Run Log (spec/10) -/

/-- The outcome of an ITEM record. -/
inductive ItemOutcome where
  | airedFull
  | airedTrimmed
  | substitutedAired
  | skipped (why : SkipReason)
deriving DecidableEq, Repr

/-- The fields of an ITEM record after its log sequence. -/
structure ItemRecord where
  region : Region
  breakId : Nat
  run : Nat
  clip : Nat
  start : AirTime
  played : Nat
  outcome : ItemOutcome
  flags : RunFlags
deriving DecidableEq, Repr

/-- The fields of a BREAK record after its log sequence. -/
structure BreakRecord where
  region : Region
  breakId : Nat
  split : AirTime
  close : AirTime
  cause : EndCause
  lateStart : Nat
  fillSamples : Nat
  itemsAired : Nat
deriving DecidableEq, Repr

/-- The body of an as-run record. -/
inductive AsRunBody where
  | item (r : ItemRecord)
  | brk (r : BreakRecord)
deriving DecidableEq, Repr

/-- An as-run record: its log sequence (the appended count before it, modulo 2^32) and its body. -/
structure AsRunRecord where
  seq : Nat
  body : AsRunBody
deriving DecidableEq, Repr

/-- The As-Run Log, records oldest first, the three 48-bit counts, and whether the high-water state is RAISED. -/
structure AsRunLog where
  records : List AsRunRecord
  appended : BitVec 48
  fetched : BitVec 48
  overwritten : BitVec 48
  raised : Bool
deriving DecidableEq, Repr

/-! ## Management (spec/12) -/

/-- The completion codes. -/
inductive Code where
  | ok
  | accepted
  | badArgument
  | unknownKind
  | refusedState
  | notUnlocked
  | stagingBusy
  | storeFull
  | protectedBlock
  | worn
  | clipPresent
  | clipInUse
  | duplicateClip
  | overlap
  | badHeader
  | pageNotErased
  | duplicateBreak
  | tableFull
  | notFound
deriving DecidableEq, Repr

/-- A management message as received: target address, tag, kind code, flags, body. -/
structure Message where
  target : Nat
  tag : Nat
  kind : Nat
  flags : Nat
  body : List Byte
deriving DecidableEq, Repr

/-- Why a cue was dropped (R10). -/
inductive DropReason where
  | malformed
  | stale
  | full
deriving DecidableEq, Repr

/-- The result of a store operation (R133). -/
inductive StoreResult where
  | done
  | pageNotErased
  | remapped
  | worn
deriving DecidableEq, Repr

/-- What a STORE_DONE notice concerns: its kind with the page or block. -/
inductive StoreTarget where
  | commit (page : Nat)
  | erase (block : Nat)
  | boundary
  | floor
deriving DecidableEq, Repr

/-- The cause of a REMAP_DONE. -/
inductive RemapCause where
  | program
  | erase
deriving DecidableEq, Repr

/-- The notices of R172, each with the fields its raising rule lays down. -/
inductive Notice where
  | cueDropped (why : DropReason) (cue : CueRecord) (seq : Nat)
  | cueSequence (region : Region) (kind : CueKind) (breakId : Nat) (target : Position) (state : RegionState) (openId : Nat) (pos : Position)
  | armExpired (region : Region) (breakId : Nat) (slot : Fin 16)
  | gateUnexpected (group : LinkGroup) (region : Region) (breakId : Nat) (state : GateState) (gateBreak : Option Nat)
  | gateDeadline (group : LinkGroup) (breakId : Option Nat) (expected : BitVec 24) (arrived : List (Region × Nat))
  | duplicateClip (clip first later : Nat)
  | scanDone (registered duplicates unreadable : Nat)
  | clipSuspect (clip first faults weak : Nat)
  | verifyDone (clip : Nat) (good : Bool) (result : VerifyResult) (headerSum : Nat)
  | storeDone (target : StoreTarget) (result : StoreResult) (boundary floor : Nat)
  | remapDone (block spare : Nat) (cause : RemapCause) (copied lost left : Nat)
  | asRunHigh (held : Nat) (appended overwritten : BitVec 48)
deriving DecidableEq, Repr

/-- The outcome of a page read (R135). -/
inductive ReadOutcome where
  | clean
  | corrected (count : Nat)
  | uncorrectable
deriving DecidableEq, Repr

/-- The seven frame counts (spec/11). -/
structure FrameCounts where
  valid : Nat
  invalid : Nat
  late : Nat
  outOfSequence : Nat
  holdover : Nat
  relocks : Nat
  steps : Nat
deriving DecidableEq, Repr

/-- The link states. -/
inductive LinkState where
  | acquiring
  | locked
  | holdover
  | free
deriving DecidableEq, Repr

/-- The Identify record of R173. -/
structure IdentifyRecord where
  vendor : Nat
  part : Nat
  revision : Nat
  address : Nat
  regions : Nat
  voices : Nat
  blocks : Nat
  spares : Nat
  sparesUsed : Nat
  boundary : Nat
  floor : Nat
  directory : DirState
deriving DecidableEq, Repr

/-- The open-break part of a Region Status reply (R37). -/
structure BreakStatus where
  breakId : Nat
  slot : Fin 16
  split : Option Position
  leadInStart : Option Position
  timerLeft : Option Nat
  lateStart : Nat
  fillSamples : Nat
  itemsAired : Nat
  endCause : Option EndCause
  lead : Option VoiceNo
  pool : Option VoiceNo
  run : List RunEntry
deriving DecidableEq, Repr

/-- A Region Status reply (R37). -/
structure RegionStatusRecord where
  state : RegionState
  config : RegionConfig
  bed : Nat
  clampCount : Nat
  peakL : Nat
  peakR : Nat
  armLeft : Option Nat
  brk : Option BreakStatus
deriving DecidableEq, Repr

/-- A Voice Status reply (R76). -/
structure VoiceStatusRecord where
  state : VoiceState
  holder : Option Region
  clip : Option Nat
  format : Format
  pos : Nat
  endPos : Nat
  loop : Bool
  successor : Option Successor
  fader : Fader
  group : GainGroup
  releaseAtRampEnd : Bool
  ring : List RingPage
  pending : Option PendingRead
  readClass : Option Nat
  dropout : Bool
  underrun : Bool
  poolFree : Nat
  waiting : List Waiter
deriving DecidableEq, Repr

/-- A Clip Status reply (R118). -/
structure ClipStatusRecord where
  entry : Option DirEntry
  holders : Nat
  queuePlace : Option Nat
  verifying : Bool
  usable : Bool
deriving DecidableEq, Repr

/-- A group in a Read Levels reply (R91). The step interval is absent where the group carries no ramp. -/
structure LevelRecord where
  level : Nat
  target : Nat
  interval : Option Nat
  left : Nat
  waiting : Option (Nat × Nat)
deriving DecidableEq, Repr

/-- An entry in a Directory Query reply (R117). -/
structure DirectoryLine where
  clip : Nat
  state : ClipState
  firstBlock : Nat
  extent : Nat
  format : Format
  length : Nat
  faults : Nat
  holders : Nat
deriving DecidableEq, Repr

/-- The kinds of the current array operation in a Remap Status reply (R146). -/
inductive OperationKind where
  | commit
  | erase
  | boundary
  | floor
  | relocation
  | remap
deriving DecidableEq, Repr

/-- The current array operation in a Remap Status reply (R146). The target is the logical page or block concerned; a settings write
concerns none. -/
structure OperationRecord where
  kind : OperationKind
  target : Option Nat
  tag : Nat
  phase : Phase
  suspensions : Nat
deriving DecidableEq, Repr

/-- The bodies of the replies, as named fields. -/
inductive Body where
  | none
  | identify (r : IdentifyRecord)
  | regionStatus (r : RegionStatusRecord)
  | itemIndex (i : Nat)
  | plan (state : SlotState) (plan : Option Plan)
  | voiceStatus (r : VoiceStatusRecord)
  | levels (groups : List LevelRecord)
  | gate (g : Gate) (now : Nat)
  | directory (entries : List DirectoryLine) (state : DirState) (next : Nat)
  | clipStatus (r : ClipStatusRecord)
  | boundary (effective : Nat)
  | lockFloor (floor boundary : Nat)
  | page (bytes : List Byte) (outcome : ReadOutcome) (attempts : Nat) (tag : Bool) (block : Nat)
  | remap (count spent left : Nat) (entries : List (Nat × Nat)) (worn : List Nat) (boundary floor : Nat)
      (current : Option OperationRecord)
  | records (records : List AsRunRecord) (held : Nat)
  | asRun (held : Nat) (appended fetched overwritten : BitVec 48) (oldest next : Nat) (raised : Bool)
  | link (state : LinkState) (expected consecutive lockRun : Nat) (air : AirTime) (count : Nat) (counts : FrameCounts)
      (cuesDropped cuesHeld : Nat)
deriving DecidableEq, Repr

/-- What an entry of the return queue holds. -/
inductive Payload where
  | reply (kind : Nat) (code : Code) (body : Body)
  | notice (n : Notice)
deriving DecidableEq, Repr

/-- An entry of the return queue. `stamp` is MODEL: the station sample count at which it was placed, for the order of the
notices of one sample (R172). -/
structure QueueEntry where
  address : Nat
  tag : Nat
  payload : Payload
  stamp : Nat
deriving DecidableEq, Repr

/-- A Read Page request in hand, waiting for the delivery of its read (R141). -/
structure ReadJob where
  broadcast : Bool
  tag : Nat
  fields : ReadPageFields
deriving DecidableEq, Repr

/-- What a pending soft reset waits on (R174): the Reset reply still in the return queue, or nothing but the next frame
boundary (the reply has been sent, or the Reset was a broadcast). -/
inductive ResetPending where
  | onReply
  | nextBoundary
deriving DecidableEq, Repr

/-- The Management Agent. -/
structure Agent where
  input : List Message
  inHand : Option ReadJob
  returns : List QueueEntry
  resetEnable : Bool
  resetPending : Option ResetPending
  noticesDropped : Bool
  inputDiscarded : Bool
deriving DecidableEq, Repr

/-! ## The link (spec/11) -/

/-- A valid programme frame, read into its fields. -/
structure ProgFrame where
  seq : Nat
  air : AirTime
  bed : List (Int × Int)
  cues : List CueRecord
  management : List Byte
deriving DecidableEq, Repr

/-- The Link Receiver with the Frame Clock. MODEL fields: `arrived` (a valid frame has arrived since the last frame period
event, R159), `airHistory` (the air times of the last three periods before the present one, newest first, for the split
air time of a late SPLIT, log 17), `retest` (a relock whose re-test the Cue Unit has not made yet, R11). -/
structure Link where
  state : LinkState
  expected : Nat
  holding : List ProgFrame
  lockRun : Nat
  lockLast : Nat
  arrived : Bool
  consecutive : Nat
  air : AirTime
  airHistory : List AirTime
  retest : Bool
  count : Nat
  address : Nat
  counts : FrameCounts
deriving DecidableEq, Repr

/-- The frame of the period being assembled: its sequence, the link state at its frame period event, its air time and its
bed samples. -/
structure Period where
  seq : Nat
  link : LinkState
  air : AirTime
  bed : List (Int × Int)
deriving DecidableEq, Repr

/-- The egress frame being sent (R163). -/
structure EgressFrame where
  link : LinkState
  seq : Nat
  air : AirTime
  states : List RegionState
  blocks : List (List (Int × Int))
deriving DecidableEq, Repr

/-- The return frame being sent (R164). -/
structure ReturnFrame where
  noticesDropped : Bool
  inputDiscarded : Bool
  scanning : Bool
  address : Nat
  seq : Nat
  entries : List QueueEntry
deriving DecidableEq, Repr

/-- The blocks that a break on air works with: Region Splicers, Plan Store, Voice Pool, Pool Arbiter, Gate Unit, Clip
Directory, As-Run Log and Management Agent. They stand together because a region event reaches them and no others. -/
structure Play where
  regions : Vector RegionRec 24
  plans : Vector (Vector Slot 16) 24
  voices : Vector Voice 32
  waiters : List Waiter
  gates : Vector Gate 7
  dir : Directory
  log : AsRunLog
  agent : Agent
deriving DecidableEq, Repr

/-- Why a step stops with a fault. No rule of the manual stops the part, so no step faults and there is no reason. -/
inductive Fault where
deriving DecidableEq, Repr

/-- Why a step is refused. -/
inductive Refusal where
  /-- Raised by exec's arm of a command that has no meaning yet. Safe: nothing is claimed of it. -/
  | notModelled (mnemonic : String)
deriving DecidableEq, Repr

/-- The whole part. `sample` is the number of samples of the period formed so far, 48 from the end of the assembly to the next
frame period event. MODEL fields: `midSample` (a region event of the present sample has been taken by command, and requests wait
until that sample is formed, R16, log 58), `settled` (the arrivals and pool requests of the present sample have been settled, log 23),
`returnFormed` (the return frame of the coming boundary has been formed by SOFT_RESET,
log 14), `occasion` (counts the free values drawn so far), `pending` (the commands waiting, first in first out). -/
structure State where
  link : Link
  period : Option Period
  sample : Nat
  midSample : Bool
  settled : Bool
  cues : CueUnit
  play : Play
  levels : Vector GroupRec 8
  verify : Option VerifyJob
  inFlight : Option InFlight
  store : Store
  settings : Settings
  flash : List (Nat × PageImage)
  egress : Option EgressFrame
  returnFrame : Option ReturnFrame
  returnFormed : Bool
  occasion : Nat
  pending : List Instr
deriving DecidableEq, Repr

/-! ## The state after power-on -/

/-- Air time 0, at power-on (R161). -/
def AirTime.zero : AirTime := ⟨0, 0⟩

/-- R13. -/
def CueUnit.reset : CueUnit := ⟨[], [], [], 0⟩

/-- A level with no ramp. -/
def Fader.still (level : Nat) : Fader := ⟨level, none⟩

/-- R88: a group at unity with no ramp and no request waiting. -/
def GroupRec.reset : GroupRec := ⟨.still 231, none, 231⟩

/-- R15: the defaults of a region's configuration. -/
def RegionConfig.reset : RegionConfig := ⟨true, 0, 231, 151, 2000, 360000, 30⟩

/-- R15. -/
def RegionRec.reset : RegionRec :=
  ⟨.network, .reset, .still 231, none, none, none, none, 0, 0, 0, [], none, none⟩

/-- R40. -/
def Slot.reset : Slot := ⟨.empty, none⟩

/-- An IDLE voice with the holder given (R77). -/
def Voice.idle (holder : Option Region) : Voice :=
  ⟨.idle, holder, none, .s16, 0, 0, 0, 0, false, none, .still 0, 0, false, [], none, false, false, none, none, false, none⟩

/-- The regions in ascending number. -/
def allRegions : List Region := [0, 1, 2, 3, 4, 5, 6, 7, 8, 9, 10, 11, 12, 13, 14, 15, 16, 17, 18, 19, 20, 21, 22, 23]

/-- The voices in ascending number. -/
def allVoices : List VoiceNo :=
  [0, 1, 2, 3, 4, 5, 6, 7, 8, 9, 10, 11, 12, 13, 14, 15, 16, 17, 18, 19, 20, 21, 22, 23, 24, 25, 26, 27, 28, 29, 30, 31]

/-- The link groups in ascending number. -/
def allLinkGroups : List LinkGroup := [0, 1, 2, 3, 4, 5, 6]

/-- The gain groups in ascending number. -/
def allGainGroups : List GainGroup := [0, 1, 2, 3, 4, 5, 6, 7]

/-- The region whose home voice a voice is, if it is one (R59). -/
def homeOf (v : VoiceNo) : Option Region := if h : v.val < 24 then some ⟨v.val, h⟩ else none

/-- R77: home voice `n` held by region `n`, pool voices with no holder. -/
def resetVoices : Vector Voice 32 :=
  ⟨(allVoices.map fun v => Voice.idle (homeOf v)).toArray, by simp [allVoices]⟩

/-- R92, R93. -/
def Gate.reset : Gate := ⟨0, 2000, .closed, none, 0, [], none, none, none, []⟩

/-- R104: the directory as the scan begins it, with the read of `next` made (R114). -/
def Directory.reset (next : Nat) : Directory := ⟨.scanning, [], ⟨next, 0, 0, 0, true⟩, []⟩

/-- R154. -/
def AsRunLog.reset : AsRunLog := ⟨[], 0, 0, 0, false⟩

/-- R175. -/
def Agent.reset : Agent := ⟨[], none, [], false, none, false, false⟩

/-- R166: 255 is taken as 254. -/
def deviceAddress (pins : BitVec 8) : Nat := if pins.toNat = 255 then 254 else pins.toNat

/-- R168. -/
def Link.reset (pins : BitVec 8) : Link :=
  ⟨.acquiring, 0, [], 0, 0, false, 0, .zero, [], false, 0, deviceAddress pins, ⟨0, 0, 0, 0, 0, 0, 0⟩⟩

/-- R130, R142: a Settings Area that has never been written. -/
def Settings.new : Settings := ⟨0, 0, [], [], []⟩

/-- R134: the Store Controller over a Settings Area. -/
def Store.reset (p l : Nat) : Store := ⟨false, [], none, [], none, p, l⟩

/-- The on-air blocks at power-on, the scan about to read block `next`. -/
def Play.reset (next : Nat) : Play where
  regions := Vector.replicate 24 RegionRec.reset
  plans := Vector.replicate 24 (Vector.replicate 16 Slot.reset)
  voices := resetVoices
  waiters := []
  gates := Vector.replicate 7 Gate.reset
  dir := Directory.reset next
  log := AsRunLog.reset
  agent := Agent.reset

/-- The part right after the first power-on: the flash array erased (log 9), the address pins at 0 (log 8), and no period
begun (R168: the station sample count is 0 at sample 0 of the first period). -/
def State.reset : State where
  link := Link.reset Config.resetPins
  period := none
  sample := 48
  midSample := false
  settled := false
  cues := CueUnit.reset
  play := Play.reset 0
  levels := Vector.replicate 8 GroupRec.reset
  verify := none
  inFlight := none
  store := Store.reset 0 0
  settings := Settings.new
  flash := []
  egress := none
  returnFrame := none
  returnFormed := false
  occasion := 0
  pending := []

end Sys2Proof.Machine
end

