-- ==== Sys2Proof/Machine/Formats.lean ====
section
/-! DEFINITION. The formats whose layout the manual gives (spec/11, "Layouts"): the programme frame, the cue record, the
management message header, the clip header and clip audio, read from bytes; and the egress frame and the return frame,
written as bytes. -/

namespace Sys2Proof.Machine

/-! ## Air times -/

/-- "Air times are ordered by day number, and within one day by millisecond of day" (R103). -/
def AirTime.le (a b : AirTime) : Bool := a.day < b.day || (a.day == b.day && a.ms ≤ b.ms)

/-- The air time one millisecond later (R161). -/
def AirTime.next (a : AirTime) : AirTime :=
  if a.ms + 1 < 86400000 then ⟨a.day, a.ms + 1⟩ else ⟨if a.day + 1 < 65536 then a.day + 1 else 0, 0⟩

/-! ## The programme frame -/

/-- A cue record of 12 bytes. -/
def readCue (bs : List Byte) : CueRecord :=
  { kind := leAt bs 0 1, breakId := leAt bs 2 2, target := ⟨leAt bs 4 2, leAt bs 1 1⟩,
    mask := BitVec.ofNat 24 (leAt bs 6 3), nominal := leAt bs 9 3 }

/-- One stereo sample of a bed: left then right, 3 signed bytes each. -/
def readBedSample (bs : List Byte) (i : Nat) : Int × Int :=
  (asSigned 24 (leAt bs (14 + 6 * i) 3), asSigned 24 (leAt bs (17 + 6 * i) 3))

/-- R155: the tests of a frame's validity, in one Boolean. -/
def frameValid (bs : List Byte) : Bool :=
  let n := leAt bs 4 2
  slice bs 0 3 == [0xB4, 0x2D, 0x71] && 330 ≤ n && n ≤ 842 && n == bs.length && leAt bs 3 1 ≤ 2 &&
    leAt bs 8 4 ≤ 86399999 && leAt bs (n - 4) 4 == sum32 (bs.take (n - 4))

/-- The fields of a valid frame. A cue record beyond the cue count is not taken in. -/
def readFrame (bs : List Byte) : ProgFrame :=
  { seq := leAt bs 6 2, air := ⟨leAt bs 12 2, leAt bs 8 4⟩, bed := (List.range 48).map (readBedSample bs),
    cues := [readCue (slice bs 302 12), readCue (slice bs 314 12)].take (leAt bs 3 1),
    management := slice bs 326 (leAt bs 4 2 - 330) }

/-- R165: the messages of a management field, in order. `fuel` bounds their number; the field's length is enough. -/
def readMessages : Nat → List Byte → List Message
  | 0, _ => []
  | fuel + 1, bs =>
    let len := leAt bs 5 2
    if bs.length < 7 then []
    else if leAt bs 0 1 == 0xFF && leAt bs 3 1 == 0xFF then []
    else if bs.length < 7 + len then []
    else { target := leAt bs 0 1, tag := leAt bs 1 2, kind := leAt bs 3 1, flags := leAt bs 4 1, body := slice bs 7 len }
      :: readMessages fuel (bs.drop (7 + len))

/-! ## Flash pages -/

/-- The byte at an offset of a page. -/
def PageImage.byte (p : PageImage) (off : Nat) : Byte :=
  match p.cells.find? (fun c => c.1 == off) with
  | some c => c.2
  | none => match p.fill with
    | .erased => 0xFF
    | .free n => Config.freeByte n off

/-- `n` bytes of a page from an offset on. -/
def PageImage.bytes (p : PageImage) (off n : Nat) : List Byte := (List.range n).map fun i => p.byte (off + i)

/-! ## The clip header -/

/-- What the first 64 bytes of a page carry (R103): no magic, a malformed header, or a header that is well-formed in every
respect but its extent, with its clip number. -/
inductive HeaderRead where
  | noMagic
  | malformed
  | header (clip : Nat) (h : ClipHeader)
deriving DecidableEq, Repr

/-- The format codes of the clip header. -/
def formatOf : Nat → Option Format
  | 1 => some .m16
  | 2 => some .s16
  | 3 => some .s24
  | _ => none

/-- The header checksum: the word sum of the header but for its own word (spec/11, "Clip header"). -/
def headerSum (bs : List Byte) : Nat := (wordSum (slice bs 0 4) + wordSum (slice bs 8 56)) % 2 ^ 32

/-- A presence bit of the clip header. -/
def present (bs : List Byte) (bit : Nat) : Bool := leAt bs 11 1 / 2 ^ bit % 2 == 1

/-- The fields of a header whose format is given. -/
def headerFields (bs : List Byte) (f : Format) : ClipHeader :=
  { format := f, length := leAt bs 12 4,
    shortEnd := if present bs 0 then some (leAt bs 16 4) else none,
    trim := asSigned 8 (leAt bs 20 1),
    notBefore := if present bs 1 then some ⟨leAt bs 24 2, leAt bs 26 4⟩ else none,
    notAfter := if present bs 2 then some ⟨leAt bs 30 2, leAt bs 32 4⟩ else none,
    audioSum := leAt bs 36 4 }

/-- The field tests of R103 other than magic, checksum, clip number, format and extent. -/
def ClipHeader.fieldsOk (h : ClipHeader) : Bool :=
  1 ≤ h.length && h.length ≤ 33554431 &&
  (match h.shortEnd with | none => true | some e => 1 ≤ e && e ≤ h.length - 1) &&
  (-64 ≤ h.trim && h.trim ≤ 24) &&
  (match h.notBefore, h.notAfter with | some b, some a => b.le a | _, _ => true)

/-- R103 over 64 bytes, but for the extent. -/
def readHeader (bs : List Byte) : HeaderRead :=
  if slice bs 0 4 != [0x6C, 0xE7, 0x1A, 0x93] then .noMagic
  else
    let clip := leAt bs 8 2
    match formatOf (leAt bs 10 1) with
    | none => .malformed
    | some f =>
      let h := headerFields bs f
      if leAt bs 4 4 == headerSum bs && 1 ≤ clip && clip ≤ 1023 && h.fieldsOk then .header clip h else .malformed

/-- The header of a flash page. A half written head page fails its header checks (R134). -/
def PageImage.header (p : PageImage) : HeaderRead := if p.halfWritten then .malformed else readHeader (p.bytes 0 64)

/-! ## Clip layout -/

/-- R61: samples per page. -/
def Format.samplesPerPage : Format → Nat
  | .m16 => 2048
  | .s16 => 1024
  | .s24 => 512

/-- R61: bytes per sample. -/
def Format.sampleBytes : Format → Nat
  | .m16 => 2
  | .s16 => 4
  | .s24 => 8

/-- R102: the audio page count, ceil(length / P). -/
def ClipHeader.audioPages (h : ClipHeader) : Nat := (h.length + h.format.samplesPerPage - 1) / h.format.samplesPerPage

/-- R102: the extent in blocks, ceil((1 + audio pages) / 64). -/
def ClipHeader.extent (h : ClipHeader) : Nat := (1 + h.audioPages + 63) / 64

/-- R103: an extent counted from a block ends at or before block 32,767. -/
def extentFits (block extent : Nat) : Bool := block + extent ≤ Config.logicalBlocks

/-- R79: the left and right value of the sample at index `s` of a clip page. -/
def PageImage.sample (p : PageImage) (f : Format) (s : Nat) : Int × Int :=
  let off := s % f.samplesPerPage * f.sampleBytes
  match f with
  | .m16 =>
    let v := asSigned 16 (leNat (p.bytes off 2)) * 256
    (v, v)
  | .s16 => (asSigned 16 (leNat (p.bytes off 2)) * 256, asSigned 16 (leNat (p.bytes (off + 2) 2)) * 256)
  | .s24 => (asSigned 24 (leNat (p.bytes off 3)), asSigned 24 (leNat (p.bytes (off + 4) 3)))

/-! ## Frames sent -/

/-- R163: the link state codes. -/
def LinkState.code : LinkState → Nat
  | .acquiring => 0
  | .locked => 1
  | .holdover => 2
  | .free => 3

/-- R163: the region state codes. -/
def RegionState.code : RegionState → Nat
  | .network => 0
  | .primed => 1
  | .leadin => 2
  | .localPlay => 3
  | .gated => 4
  | .fill => 5
  | .leadout => 6
  | .returned => 7
  | .bypass => 8

/-- One stereo sample as the bed lays it out. -/
def sampleBytes (x : Int × Int) : List Byte := toLE 3 (fromSigned 24 x.1) ++ toLE 3 (fromSigned 24 x.2)

/-- A frame with its check appended (R155, R163). -/
def withCheck (bs : List Byte) : List Byte := bs ++ toLE 4 (sum32 bs)

/-- The egress frame on the link. -/
def EgressFrame.bytes (f : EgressFrame) : List Byte :=
  withCheck ([0xB4, 0x2D, 0x72] ++ toLE 1 f.link.code ++ toLE 2 f.seq ++ toLE 4 f.air.ms ++ toLE 2 f.air.day ++
    f.states.map (fun st => BitVec.ofNat 8 st.code) ++ f.blocks.flatMap (fun b => b.flatMap sampleBytes))

/-- FREE VALUE (log 7): the bytes of a reply body of a kind. The manual gives bodies as named fields without a layout; R171
bounds the whole entry by 496 bytes, which `Body.bytes` applies. -/
opaque replyText : Nat → Body → List Byte

/-- FREE VALUE (log 7): the bytes of a notice body. -/
opaque noticeText : Notice → List Byte

/-- R171: the bytes of a reply body, at most 488 with the 8 bytes of the header before them. A refusal, and every reply whose
rule lays down no field, has an empty body. -/
def Body.bytes (kind : Nat) : Body → List Byte
  | .none => []
  | b => (replyText kind b).take 488

/-- R172: the notice codes. -/
def Notice.code : Notice → Nat
  | .cueDropped .. => 0x80
  | .cueSequence .. => 0x81
  | .armExpired .. => 0x82
  | .gateUnexpected .. => 0x83
  | .gateDeadline .. => 0x84
  | .duplicateClip .. => 0x85
  | .scanDone .. => 0x86
  | .clipSuspect .. => 0x87
  | .verifyDone .. => 0x88
  | .storeDone .. => 0x89
  | .remapDone .. => 0x8A
  | .asRunHigh .. => 0x8B

/-- The body of an entry of the return queue (R171). -/
def QueueEntry.body (e : QueueEntry) : List Byte := match e.payload with
  | .reply kind _ body => body.bytes kind
  | .notice n => (noticeText n).take 488

/-- The size of an entry of the return queue (R171): its header of 8 bytes and its body. -/
def QueueEntry.size (e : QueueEntry) : Nat := 8 + e.body.length

/-- The payload length of a return frame. -/
def ReturnFrame.payload (f : ReturnFrame) : Nat := (f.entries.map QueueEntry.size).sum

/-- The ten header bytes of the return frame (spec/11, "Return frame"). -/
def ReturnFrame.header (f : ReturnFrame) : List Byte :=
  [0xB4, 0x2D, 0x73] ++
    toLE 1 ((if f.noticesDropped then 1 else 0) + (if f.inputDiscarded then 2 else 0) + (if f.scanning then 4 else 0)) ++
    toLE 1 f.address ++ toLE 1 f.entries.length ++ toLE 2 f.payload ++ toLE 2 f.seq

/-- R172: the completion codes. -/
def Code.number : Code → Nat
  | .ok => 0
  | .accepted => 1
  | .badArgument => 2
  | .unknownKind => 3
  | .refusedState => 4
  | .notUnlocked => 5
  | .stagingBusy => 6
  | .storeFull => 7
  | .protectedBlock => 8
  | .worn => 9
  | .clipPresent => 10
  | .clipInUse => 11
  | .duplicateClip => 12
  | .overlap => 13
  | .badHeader => 14
  | .pageNotErased => 15
  | .duplicateBreak => 16
  | .tableFull => 17
  | .notFound => 18

/-- The header of an entry of the return queue: 8 bytes, its body length among them (spec/11, "Management message header";
a notice's completion code is OK, R172). DESIGN CHOICE (log 86): the flags of a reply are its reply flag alone, whatever flag bit 1 of the
request held. -/
def QueueEntry.header (e : QueueEntry) : List Byte :=
  match e.payload with
  | .reply kind code _ =>
    toLE 1 e.address ++ toLE 2 e.tag ++ toLE 1 kind ++ [1] ++ toLE 2 e.body.length ++ toLE 1 code.number
  | .notice n =>
    toLE 1 e.address ++ toLE 2 e.tag ++ toLE 1 n.code ++ [2] ++ toLE 2 e.body.length ++ toLE 1 Code.ok.number

/-- An entry of the return queue on the link: its header and its body. -/
def QueueEntry.bytes (e : QueueEntry) : List Byte := e.header ++ e.body

/-- R164: the return frame on the link: its header, its entries, and the frame check, formed as for the programme frame. -/
def ReturnFrame.bytes (f : ReturnFrame) : List Byte := withCheck (f.header ++ f.entries.flatMap QueueEntry.bytes)

end Sys2Proof.Machine
end

