-- ==== Sys2Proof/Machine/Levels.lean ====
section
/-! DEFINITION. Levels, ramps and the arithmetic of the mix (spec/05). Everything is exact integer arithmetic. -/

namespace Sys2Proof.Machine

/-- Entries 0 to 63 of the gain table of R78. -/
def gainTable0 : List Nat := [
  0, 44, 45, 46, 48, 49, 50, 52, 53, 55, 57, 58, 60, 62, 64, 65,
  67, 69, 71, 73, 76, 78, 80, 82, 85, 87, 90, 92, 95, 98, 101, 104,
  107, 110, 113, 116, 120, 123, 127, 130, 134, 138, 142, 146, 151, 155, 160, 164,
  169, 174, 179, 184, 190, 195, 201, 207, 213, 219, 225, 232, 239, 246, 253, 260]

/-- Entries 64 to 127 of the gain table of R78. -/
def gainTable64 : List Nat := [
  268, 276, 284, 292, 301, 309, 318, 328, 337, 347, 357, 368, 378, 389, 401, 413,
  425, 437, 450, 463, 476, 490, 505, 519, 535, 550, 566, 583, 600, 617, 635, 654,
  673, 693, 713, 734, 755, 777, 800, 823, 847, 872, 897, 924, 950, 978, 1007, 1036,
  1066, 1098, 1130, 1163, 1197, 1232, 1268, 1305, 1343, 1382, 1422, 1464, 1506, 1550, 1596, 1642]

/-- Entries 128 to 191 of the gain table of R78. -/
def gainTable128 : List Nat := [
  1690, 1740, 1790, 1843, 1896, 1952, 2009, 2068, 2128, 2190, 2254, 2320, 2388, 2457, 2529, 2603,
  2679, 2757, 2838, 2920, 3006, 3093, 3184, 3277, 3372, 3471, 3572, 3677, 3784, 3894, 4008, 4125,
  4246, 4370, 4497, 4629, 4764, 4903, 5046, 5193, 5345, 5501, 5662, 5827, 5997, 6172, 6353, 6538,
  6729, 6925, 7128, 7336, 7550, 7771, 7997, 8231, 8471, 8719, 8973, 9235, 9505, 9783, 10068, 10362]

/-- Entries 192 to 255 of the gain table of R78. -/
def gainTable192 : List Nat := [
  10665, 10976, 11297, 11627, 11966, 12315, 12675, 13045, 13426, 13818, 14222, 14637, 15064, 15504, 15957, 16423,
  16902, 17396, 17904, 18427, 18965, 19519, 20089, 20675, 21279, 21900, 22540, 23198, 23875, 24573, 25290, 26029,
  26789, 27571, 28376, 29205, 30057, 30935, 31838, 32768, 33725, 34710, 35723, 36766, 37840, 38945, 40082, 41252,
  42457, 43697, 44973, 46286, 47638, 49029, 50460, 51934, 53450, 55011, 56617, 58271, 59972, 61723, 63526, 65382]

/-- R78: the gain table, entries 0 to 255. -/
def gainTable : List Nat := gainTable0 ++ gainTable64 ++ gainTable128 ++ gainTable192

/-- R78: the gain of a level. -/
def lin (e : Nat) : Nat := gainTable.getD e 0

/-- R80: the effective level of a voice with level `r` in a group at `f` and with clip trim `t`. -/
def effectiveLevel (r f : Nat) (t : Int) : Nat :=
  if r = 0 ∨ f = 0 then 0
  else (min 255 (max 0 ((r : Int) + f + t - 231))).toNat

/-- R82: the contribution of one term to one channel: the sample times the gain, rounded to the nearest whole number, half-way
upward. `/` on `Int` with a positive divisor is the floor. -/
def contribution (s : Int) (e : Nat) : Int := (s * lin e + 16384) / 32768

/-- R83: a sum brought into the 24-bit range. -/
def clamp24 (x : Int) : Int := if x > 8388607 then 8388607 else if x < -8388608 then -8388608 else x

/-- R84: whether the clamp acts on a sum. -/
def clampActs (x : Int) : Bool := x > 8388607 || x < -8388608

/-! ## Ramps -/

/-- R85: a ramp begun from the fader's level toward `target` over `ms` milliseconds, replacing any it carries (R87). -/
def Fader.begin (f : Fader) (target ms : Nat) : Fader :=
  let span := (target - f.level) + (f.level - target)
  if span = 0 ∨ ms = 0 then ⟨target, none⟩
  else ⟨f.level, some ⟨target, max 1 (ms * 48 / span), span, 0⟩⟩

/-- R86: one step of a level toward its target. -/
def stepToward (level target : Nat) : Nat :=
  if level < target then level + 1 else if target < level then level - 1 else level

/-- R86: the fader after one sample for which its level was used. -/
def Fader.advance (f : Fader) : Fader :=
  match f.ramp with
  | none => f
  | some r =>
    if r.left = 0 then f
    else if r.counter + 1 < r.interval then ⟨f.level, some { r with counter := r.counter + 1 }⟩
    else ⟨stepToward f.level r.target, some { r with counter := 0, left := r.left - 1 }⟩

/-- R86: the ramp has reached its target and its completion has not been taken. -/
def Fader.complete (f : Fader) : Bool :=
  match f.ramp with
  | some r => r.left == 0
  | none => false

/-- R86: the completion taken: the holder carries no ramp. -/
def Fader.finish (f : Fader) : Fader := ⟨f.level, none⟩

/-- R87: the level set outright, which cancels a ramp. -/
def Fader.cut (_f : Fader) (level : Nat) : Fader := ⟨level, none⟩

/-! ## Group levels -/

/-- R88: the level F of a gain group. -/
def groupLevel (gs : Vector GroupRec 8) (g : GainGroup) : Nat := gs[g].fader.level

/-- R90 at a frame boundary: the waiting request is begun or set, and Read Levels returns the level from then on (R91). Group 0
holds no request. -/
def GroupRec.atBoundary (g : GroupRec) : GroupRec :=
  let f := match g.waiting with
    | some (target, ms) => g.fader.begin target ms
    | none => g.fader
  ⟨f, none, f.level⟩

/-- R91: a group as Read Levels returns it: the level at the last frame boundary passed, and the ramp that the group carries now.
With no increment left it carries none, and the target is the level returned (log 20). -/
def GroupRec.record (g : GroupRec) : LevelRecord := match g.fader.ramp with
  | some r => if r.left = 0 then ⟨g.shown, g.shown, none, 0, g.waiting⟩ else ⟨g.shown, r.target, some r.interval, r.left, g.waiting⟩
  | none => ⟨g.shown, g.shown, none, 0, g.waiting⟩

/-- R89: a group's fader after one station sample. -/
def GroupRec.advance (g : GroupRec) : GroupRec := { g with fader := g.fader.advance }

/-- The completion of a group ramp is taken. It reaches no region (R86). -/
def GroupRec.finishRamp (g : GroupRec) : GroupRec := if g.fader.complete then { g with fader := g.fader.finish } else g

/-- An update of one group record. -/
def setGroup (gs : Vector GroupRec 8) (g : GainGroup) (x : GroupRec) : Vector GroupRec 8 := gs.set g.val x g.isLt

/-- An update of every group 1..7. Group 0 is fixed at unity (R88). -/
def mapGroups (gs : Vector GroupRec 8) (f : GroupRec → GroupRec) : Vector GroupRec 8 :=
  allGainGroups.tail.foldl (fun acc g => setGroup acc g (f acc[g])) gs

end Sys2Proof.Machine
end

