-- ==== Sys2Proof/Machine/Ops.lean ====
section
/-! DEFINITION. The named operations over the records, tables and queues of the state: reading and writing one record,
raising a notice, appending to the As-Run Log, looking up a clip, counting its holders, and the paged bytes of the staging
buffer and the flash array. -/

namespace Sys2Proof.Machine

/-- The instant at which an event or request acts: the station sample count of the next sample, its position, the air time
of its period, the air times of the periods before, the device address, and whether the sample has been settled already (log 23). -/
structure Now where
  count : Nat
  pos : Position
  air : AirTime
  airHistory : List AirTime
  address : Nat
  settled : Bool
deriving DecidableEq, Repr

/-- A start that waits for a READY voice may fall here: at sample 0, as long as that sample has not been settled (log 21). -/
def Now.opensFrame (t : Now) : Bool := t.pos.sample == 0 && !t.settled

/-- The sequence of the period being assembled. -/
def State.periodSeq (s : State) : Nat := match s.period with
  | some p => p.seq
  | none => s.link.expected

/-- The instant of the next sample. DESIGN CHOICE (log 50): between two periods the next sample has no frame yet, and the air time is that
of the period just assembled; a Force Network taken there records it. DESIGN CHOICE (log 71): what is raised between two samples, or at a
frame boundary, belongs to the next sample. -/
def State.now (s : State) : Now :=
  ⟨s.link.count, ⟨s.periodSeq, s.sample⟩, s.link.air, s.link.airHistory, s.link.address, s.settled⟩

/-! ## Records -/

/-- Reading a region record. -/
def Play.region (p : Play) (r : Region) : RegionRec := p.regions[r]

/-- Writing a region record. -/
def Play.setRegion (p : Play) (r : Region) (x : RegionRec) : Play := { p with regions := p.regions.set r.val x r.isLt }

/-- Changing a region record. -/
def Play.modRegion (p : Play) (r : Region) (f : RegionRec → RegionRec) : Play := p.setRegion r (f (p.region r))

/-- Reading a voice record. -/
def Play.voice (p : Play) (v : VoiceNo) : Voice := p.voices[v]

/-- Writing a voice record. -/
def Play.setVoice (p : Play) (v : VoiceNo) (x : Voice) : Play := { p with voices := p.voices.set v.val x v.isLt }

/-- Changing a voice record. -/
def Play.modVoice (p : Play) (v : VoiceNo) (f : Voice → Voice) : Play := p.setVoice v (f (p.voice v))

/-- Reading a gate record. -/
def Play.gate (p : Play) (g : LinkGroup) : Gate := p.gates[g]

/-- Writing a gate record. -/
def Play.setGate (p : Play) (g : LinkGroup) (x : Gate) : Play := { p with gates := p.gates.set g.val x g.isLt }

/-- Changing a gate record. -/
def Play.modGate (p : Play) (g : LinkGroup) (f : Gate → Gate) : Play := p.setGate g (f (p.gate g))

/-- Reading a plan slot. -/
def Play.slot (p : Play) (r : Region) (n : Fin 16) : Slot := p.plans[r][n]

/-- Writing a plan slot. -/
def Play.setSlot (p : Play) (r : Region) (n : Fin 16) (x : Slot) : Play :=
  { p with plans := p.plans.set r.val (p.plans[r].set n.val x n.isLt) r.isLt }

/-- Changing the open break of a region, if it has one. -/
def Play.modBreak (p : Play) (r : Region) (f : OpenBreak → OpenBreak) : Play :=
  p.modRegion r fun x => { x with brk := x.brk.map f }

/-- Acting with the open break of a region; without one, nothing happens. -/
def Play.withBreak (p : Play) (r : Region) (f : OpenBreak → Play) : Play :=
  match (p.region r).brk with
  | none => p
  | some b => f b

/-- The plan of the slot that the open break holds. It is not changed while it is held (R39). -/
def Play.heldPlan (p : Play) (r : Region) (b : OpenBreak) : Plan :=
  (p.slot r b.slot).plan.getD ⟨0, 0, 0, .earlyNetwork, false, []⟩

/-! ## Lists in a canonical order -/

/-- Insertion into a list in ascending key order; an element with the same key is replaced. -/
def insertByKey {α : Type} (key : α → Nat) (x : α) : List α → List α
  | [] => [x]
  | y :: ys => if key x < key y then x :: y :: ys else if key x = key y then x :: ys else y :: insertByKey key x ys

/-- Removal by key. -/
def removeKey {α : Type} (key : α → Nat) (k : Nat) (l : List α) : List α := l.filter fun y => key y != k

/-! ## Bytes of a page: the canonical form of Host.Cell lists -/

/-- What an offset that no cell lists reads as, in the staging buffer and in a programmed page (R119, R122). -/
def blankByte : Byte := 0xFF

/-- Reading a byte. -/
def readCell (m : List Host.Cell) (a : Nat) : Byte := match m.find? (fun c => c.1 == a) with
  | some c => c.2
  | none => blankByte

/-- Writing a byte: the list stays in ascending offsets and lists no 0xFF. -/
def writeCell (m : List Host.Cell) (a : Nat) (b : Byte) : List Host.Cell :=
  if b = blankByte then removeKey Prod.fst a m else insertByKey Prod.fst (a, b) m

/-- R122: writing bytes from an offset on, wrapping after 4,095. -/
def writeCells (m : List Host.Cell) : Nat → List Byte → List Host.Cell
  | _, [] => m
  | a, b :: bs => writeCells (writeCell m (a % Config.pageBytes) b) (a + 1) bs

/-- The canonical form: offsets strictly rising, all inside the page, and no listed 0xFF. -/
def cellsWf : List Host.Cell → Bool
  | [] => true
  | [c] => c.1 < Config.pageBytes && c.2 != blankByte
  | c :: d :: rest => c.1 < d.1 && c.2 != blankByte && cellsWf (d :: rest)

/-- A page programmed with the bytes of a buffer (R119). -/
def programmed (m : List Host.Cell) : PageImage := ⟨.erased, m, true, false⟩

/-- Reading a physical page. -/
def readFlash (fl : List (Nat × PageImage)) (page : Nat) : PageImage := match fl.find? (fun c => c.1 == page) with
  | some c => c.2
  | none => PageImage.blank

/-- Writing a physical page: the list stays in ascending pages and lists no erased page. -/
def writeFlash (fl : List (Nat × PageImage)) (page : Nat) (i : PageImage) : List (Nat × PageImage) :=
  if i = PageImage.blank then removeKey Prod.fst page fl else insertByKey Prod.fst (page, i) fl

/-- The array after an erase of a physical block: every page reads 0xFF with a clear tag (R126). -/
def eraseFlash (fl : List (Nat × PageImage)) (block : Nat) : List (Nat × PageImage) :=
  fl.filter fun c => c.1 / Config.pagesPerBlock != block

/-- A page with indeterminate contents and tag (R134), by its occasion; `half` marks an abandoned program. -/
def loosePage (occasion : Nat) (half : Bool) : PageImage :=
  ⟨.free occasion, [], Config.freeTag occasion, half⟩

/-- A block whose contents are indeterminate (R134): each page an occasion of its own. -/
def looseBlock (fl : List (Nat × PageImage)) (block occasion : Nat) : List (Nat × PageImage) :=
  (List.range Config.pagesPerBlock).foldl
    (fun acc i => writeFlash acc (block * Config.pagesPerBlock + i) (loosePage (occasion + i) false)) (eraseFlash fl block)

/-- The canonical form of the flash array: pages strictly rising, none of them an erased page. -/
def flashWf : List (Nat × PageImage) → Bool
  | [] => true
  | [c] => c.2 != PageImage.blank
  | c :: d :: rest => c.1 < d.1 && c.2 != PageImage.blank && flashWf (d :: rest)

/-- R142: the physical block of a logical block. DESIGN CHOICE (log 84): the spares are numbered after the logical blocks, in the Read
Page reply (R141) too. -/
def Settings.physical (t : Settings) (block : Nat) : Nat := match t.remap.find? (fun e => e.1 == block) with
  | some e => Config.logicalBlocks + e.2
  | none => block

/-- The physical page of a logical page. -/
def Settings.physicalPage (t : Settings) (page : Nat) : Nat :=
  t.physical (page / Config.pagesPerBlock) * Config.pagesPerBlock + page % Config.pagesPerBlock

/-- R142: a spare is used when it stands in an entry or is spent. -/
def Settings.used (t : Settings) (spare : Nat) : Bool := t.remap.any (fun e => e.2 == spare) || t.spent.contains spare

/-- R142: the lowest-numbered unused spare, leaving out those a relocation has spent and not recorded. -/
def Settings.lowestUnused (t : Settings) (spent : List Nat) : Option Nat :=
  (List.range Config.spareBlocks).find? fun n => !t.used n && !spent.contains n

/-- R146, R173: the spares used, entries plus spent spares. -/
def Settings.sparesUsed (t : Settings) : Nat := t.remap.length + t.spent.length

/-! ## Notices -/

/-- The notices in the return queue. -/
def QueueEntry.isNotice (e : QueueEntry) : Bool := match e.payload with
  | .notice _ => true
  | .reply .. => false

/-- The region number by which notices of one code stand (R172). -/
def Notice.regionKey : Notice → Nat
  | .cueSequence r .. => r.val
  | .armExpired r .. => r.val
  | .gateUnexpected _ r .. => r.val
  | _ => 0

/-- Which block raises a notice: each Region Splicer is a block of its own (log 36). Mark (log 85, DEDUCED): the Store Controller raises
REMAP_DONE. -/
def Notice.raiser : Notice → Nat
  | .cueDropped .. => 0
  | .cueSequence r .. => 1 + r.val
  | .armExpired r .. => 1 + r.val
  | .gateUnexpected .. => 25
  | .gateDeadline .. => 25
  | .duplicateClip .. => 26
  | .scanDone .. => 26
  | .clipSuspect .. => 26
  | .verifyDone .. => 27
  | .storeDone .. => 28
  | .remapDone .. => 28
  | .asRunHigh .. => 29

/-- R172: a notice stands before another of its sample when they come from different blocks and its code, or its region
under one code, is lower. -/
def Notice.before (a b : Notice) : Bool :=
  a.raiser != b.raiser && (a.code < b.code || (a.code == b.code && a.regionKey < b.regionKey))

/-- Insertion of a notice, raised at `stamp`, among the notices of its own sample at the tail of the queue. The list is given
newest first. DESIGN CHOICE (log 75): a reply placed among them stays where it is, and the notice stands behind it. DESIGN CHOICE
(log 81): the notice passes those that it stands before up to the first that it does not. -/
def insertNotice (e : QueueEntry) (n : Notice) : List QueueEntry → List QueueEntry
  | [] => [e]
  | x :: xs => match x.payload with
    | .notice m => if x.stamp = e.stamp ∧ n.before m then x :: insertNotice e n xs else e :: x :: xs
    | .reply .. => e :: x :: xs

/-- R172: whether a notice finds room: fewer than 24 notices and fewer than 32 entries, the entry held for an addressed Read
Page in hand counting among the entries. -/
def Agent.noticeRoom (a : Agent) : Bool :=
  (a.returns.filter QueueEntry.isNotice).length < Config.noticeMax &&
    a.returns.length + (match a.inHand with | some j => if j.broadcast then 0 else 1 | none => 0) < Config.returnMax

/-- R172: placing a notice. Without room it is dropped; of the notices of one sample the last in their order is the one
without room. -/
def Agent.place (a : Agent) (e : QueueEntry) (n : Notice) : Agent :=
  if a.noticeRoom then { a with returns := (insertNotice e n a.returns.reverse).reverse }
  else match a.returns.getLast? with
    | some x => match x.payload with
      | .notice m =>
        if x.stamp = e.stamp ∧ n.before m then
          { a with returns := (insertNotice e n a.returns.dropLast.reverse).reverse, noticesDropped := true }
        else { a with noticesDropped := true }
      | .reply .. => { a with noticesDropped := true }
    | none => { a with noticesDropped := true }

/-- Raising a notice with a tag at an instant. -/
def Play.raise (p : Play) (t : Now) (tag : Nat) (n : Notice) : Play :=
  { p with agent := p.agent.place ⟨t.address, tag, .notice n, t.count⟩ n }

/-- R171: placing the reply to an addressed request. -/
def Agent.reply (a : Agent) (address tag kind : Nat) (code : Code) (body : Body) (stamp : Nat) : Agent :=
  { a with returns := a.returns ++ [⟨address, tag, .reply kind code body, stamp⟩] }

/-! ## The As-Run Log -/

/-- R149, R150: one record at the tail of the log, the oldest removed where 4,096 are held. -/
def AsRunLog.append (l : AsRunLog) (b : AsRunBody) : AsRunLog :=
  let rec' : AsRunRecord := ⟨l.appended.toNat % 2 ^ 32, b⟩
  if l.records.length < Config.logMax then
    { l with records := l.records ++ [rec'], appended := l.appended + 1 }
  else
    { l with records := l.records.drop 1 ++ [rec'], appended := l.appended + 1, overwritten := l.overwritten + 1 }

/-- R153: the log after an append, with the ASRUN_HIGH notice where it brings the held count to 3,072 while ARMED. -/
def Play.takeLog (p : Play) (t : Now) (l : AsRunLog) : Play :=
  if !l.raised && l.records.length == 3072 then
    ({ p with log := { l with raised := true } }).raise t 0 (.asRunHigh l.records.length l.appended l.overwritten)
  else { p with log := l }

/-- R149, R153: a record appended at the tail. -/
def Play.appendRecord (p : Play) (t : Now) (b : AsRunBody) : Play := p.takeLog t (p.log.append b)

/-- Whether a record is the ITEM record of a later run entry of the same break as another. -/
def ItemRecord.precedes (x : ItemRecord) : AsRunBody → Bool
  | .item y => y.region == x.region && y.breakId == x.breakId && x.run < y.run
  | .brk _ => false

/-- A body put before the first of a list that it precedes. -/
def insertItem (x : ItemRecord) : List AsRunBody → List AsRunBody
  | [] => [.item x]
  | y :: ys => if x.precedes y then .item x :: y :: ys else y :: insertItem x ys

/-- R149: an ITEM record among the last `n` records, which its region appended at this sample: in run order, the log sequences in
the order of the log (log 59). -/
def AsRunLog.insert (l : AsRunLog) (n : Nat) (x : ItemRecord) : AsRunLog :=
  let m := l.append (.item x)
  let k := m.records.length - (n + 1)
  let tail := m.records.drop k
  { m with
    records := m.records.take k ++
      (tail.zip (insertItem x (tail.dropLast.map AsRunRecord.body))).map fun y => { y.1 with body := y.2 } }

/-- The sample's appends of an open break, the present one counted (R149). -/
def OpenBreak.noteAppend (b : OpenBreak) (t : Now) (l : AsRunLog) : AppendNote := match b.logged with
  | some k => if k.count = t.count then k else ⟨t.count, l.appended⟩
  | none => ⟨t.count, l.appended⟩

/-- R147, R149: the ITEM record of an entry of a region's open break. -/
def Play.appendItem (p : Play) (t : Now) (r : Region) (x : ItemRecord) : Play :=
  p.withBreak r fun b =>
    let k := b.noteAppend t p.log
    (p.takeLog t (p.log.insert (p.log.appended - k.first).toNat x)).modBreak r fun b => { b with logged := some k }

/-! ## The Clip Directory -/

/-- The registered entry of a clip number. -/
def Directory.find (d : Directory) (clip : Nat) : Option DirEntry := d.entries.find? fun e => e.clip == clip

/-- Changing the entry of a clip number. -/
def Directory.modify (d : Directory) (clip : Nat) (f : DirEntry → DirEntry) : Directory :=
  { d with entries := d.entries.map fun e => if e.clip = clip then f e else e }

/-- R105: the air window of a header at an air time, both bounds inclusive. -/
def ClipHeader.inWindow (h : ClipHeader) (a : AirTime) : Bool :=
  (match h.notBefore with | some b => b.le a | none => true) && (match h.notAfter with | some b => a.le b | none => true)

/-- R105: a clip number is usable at an air time; 0 never is. -/
def Directory.usable (d : Directory) (clip : Nat) (a : AirTime) : Bool :=
  clip != 0 && d.state == .complete && match d.find clip with
    | some e => e.state == .ready && e.header.inWindow a
    | none => false

/-- A clip of the directory as a voice is given it. -/
def Directory.prime (d : Directory) (clip startPos endPos level : Nat) (group : GainGroup) (loop : Bool) (run : Option Nat) :
    Prime :=
  match d.find clip with
  | some e => ⟨clip, e.header.format, e.header.trim, e.firstBlock * Config.pagesPerBlock + 1, startPos, endPos, level, group, loop, run⟩
  | none => ⟨clip, .s16, 0, 1, startPos, endPos, level, group, loop, run⟩

/-- R106, R115: a clip is registered UNVERIFIED and joins the tail of the verify queue with no tag. -/
def Directory.register (d : Directory) (clip block : Nat) (h : ClipHeader) : Directory :=
  { d with
    entries := insertByKey DirEntry.clip ⟨clip, .unverified, block, h.extent, h, 0, 0, none⟩ d.entries
    queue := if d.queue.any (fun q => q.1 == clip) then d.queue else d.queue ++ [(clip, none)] }

/-- The registered entry whose first block a block is. -/
def Directory.ofFirstBlock (d : Directory) (block : Nat) : Option DirEntry := d.entries.find? fun e => e.firstBlock == block

/-- Whether a block lies in an extent. -/
def DirEntry.covers (e : DirEntry) (block : Nat) : Bool := e.firstBlock ≤ block && block < e.firstBlock + e.extent

/-- R109: whether a voice holds a clip; one that holds it in both roles counts once. -/
def Voice.holds (v : Voice) (clip : Nat) : Bool :=
  ((v.state == .priming || v.state == .ready || v.state == .playing) && v.clip == some clip) ||
    (match v.successor with | some u => u.prime.clip == clip | none => false)

/-- R55: whether a run entry holds its clip: a kept entry that has not reached DONE, TRIMMED or SKIPPED. -/
def RunEntry.holds (e : RunEntry) (clip : Nat) : Bool := (e.status == .pending || e.status == .playing) && e.clip == clip

/-- R55, R109: the run entries of a region that hold a clip. -/
def RegionRec.holds (x : RegionRec) (clip : Nat) : Nat := match x.brk with
  | some b => (b.run.filter fun e => e.holds clip).length
  | none => 0

/-- R109: the holders of a clip, counted from the voices and run lists that reference its number. DESIGN CHOICE (log 67): a voice that
still plays a clip whose entry has gone to EMPTY counts for an entry registered anew under the number, and reports its faults there. -/
def Play.holders (p : Play) (clip : Nat) : Nat :=
  (allVoices.filter fun v => (p.voice v).holds clip).length + (allRegions.map fun r => (p.region r).holds clip).sum

/-- R110: a voice's report of the first failed page of a play. -/
def Play.reportFault (p : Play) (t : Now) (clip : Nat) : Play :=
  match p.dir.find clip with
  | none => p
  | some e =>
    let faults := min 3 (e.faults + 1)
    if e.state == .ready && faults == 3 then
      ({ p with dir := p.dir.modify clip fun e => { e with faults := faults, state := .suspect } }).raise t 0
        (.clipSuspect clip e.firstBlock faults e.weak)
    else { p with dir := p.dir.modify clip fun e => { e with faults := faults } }

/-- R111: a weak read of one of a clip's pages. -/
def Directory.reportWeak (d : Directory) (clip : Nat) : Directory :=
  d.modify clip fun e => { e with weak := min 65535 (e.weak + 1) }

/-! ## Gates -/

/-- Membership of a region in a set of regions. -/
def inMask (m : BitVec 24) (r : Region) : Bool := m.getLsbD r.val

/-- The set of one region. -/
def oneRegion (r : Region) : BitVec 24 := BitVec.ofNat 24 (2 ^ r.val)

/-- The set of the regions that a test picks. -/
def regionSet (f : Region → Bool) : BitVec 24 :=
  allRegions.foldl (fun m r => if f r then m ||| oneRegion r else m) 0

/-- The arrived regions of a gate, as a set. -/
def Gate.arrivedSet (g : Gate) : BitVec 24 := regionSet fun r => g.arrived.any fun a => a.1 == r

/-- R100: a region leaves a gate's expected, arrived and missed sets. -/
def Gate.leave (g : Gate) (r : Region) : Gate :=
  { g with
    expected := g.expected &&& ~~~ oneRegion r
    arrived := g.arrived.filter fun a => a.1 != r
    missed := g.missed.filter fun a => a.1 != r }

/-- R100: a region leaves every gate. DESIGN CHOICE (log 66): a CLOSED gate, which keeps its sets for Gate Status (R93), loses it too. -/
def Play.leaveGates (p : Play) (r : Region) : Play :=
  allLinkGroups.foldl (fun q g => q.modGate g fun x => x.leave r) p

end Sys2Proof.Machine
end

