-- ==== Sys2Proof/Machine/Flags.lean ====
section
/-! DEFINITION. The flags: those of a run entry (spec/03, "The run list"), and which of them an ITEM record carries. -/

namespace Sys2Proof.Machine

/-- No flag set. -/
def RunFlags.clear : RunFlags := ⟨false, false, false, false, false, false, false, false⟩

/-- R147: the flags of an ITEM record are the run entry's other than SUBSTITUTED, which the outcome carries. -/
def RunFlags.forRecord (f : RunFlags) : RunFlags := { f with substituted := false }

/-- The flags that a voice sets on the entry it plays, at the sample at which it sets them (R63, R72). -/
def RunFlags.withVoice (f : RunFlags) (dropout underrun : Bool) : RunFlags :=
  { f with dropout := f.dropout || dropout, underrun := f.underrun || underrun }

/-- R147: the outcome of an ITEM record, by the entry's last status and SUBSTITUTED. -/
def itemOutcome (st : EntryStatus) (substituted : Bool) : ItemOutcome :=
  match st with
  | .done => if substituted then .substitutedAired else .airedFull
  | .skipped why => .skipped why
  | _ => .airedTrimmed

end Sys2Proof.Machine
end

