-- ==== Sys2Proof/Machine/Plans.lean ====
section
/-! DEFINITION. The Plan Store and fitting (spec/03). -/

namespace Sys2Proof.Machine

/-- The plan slots of a region in ascending number. -/
def allSlots : List (Fin 16) := [0, 1, 2, 3, 4, 5, 6, 7, 8, 9, 10, 11, 12, 13, 14, 15]

/-! ## Finding and giving back a slot -/

/-- Whether a slot is READY with a break ID. -/
def Slot.readyWith (x : Slot) (breakId : Nat) : Bool :=
  x.state == .ready && match x.plan with
    | some pl => pl.breakId == breakId
    | none => false

/-- R17: the READY slot of a break ID, failing that the READY default plan. -/
def Play.findPlan (p : Play) (r : Region) (breakId : Nat) : Option (Fin 16) :=
  match allSlots.find? fun n => (p.slot r n).readyWith breakId with
  | some n => some n
  | none => allSlots.find? fun n => (p.slot r n).readyWith 0

/-- R44: another slot of the region is READY with the break ID. -/
def Play.duplicateReady (p : Play) (r : Region) (n : Fin 16) (breakId : Nat) : Bool :=
  allSlots.any fun m => m != n && (p.slot r m).readyWith breakId

/-- R39: the slot is taken. -/
def Play.takeSlot (p : Play) (r : Region) (n : Fin 16) : Play := p.setSlot r n { p.slot r n with state := .inUse }

/-- R20: the slot given back: EMPTY when RETIRING, when the plan is single-use and the break was split, or when another slot is
READY with its break ID; READY otherwise. -/
def Play.giveBack (p : Play) (r : Region) (n : Fin 16) (wasSplit : Bool) : Play :=
  let x := p.slot r n
  match x.plan with
  | none => p.setSlot r n Slot.reset
  | some pl =>
    if x.state == .retiring || (pl.singleUse && wasSplit) || p.duplicateReady r n pl.breakId then p.setSlot r n Slot.reset
    else p.setSlot r n { x with state := .ready }

/-! ## Fitting (R48 to R56) -/

/-- Whether an entry is kept: not SKIPPED. -/
def RunEntry.kept (e : RunEntry) : Bool := match e.status with
  | .skipped _ => false
  | _ => true

/-- R49: the reason an item is skipped, from the main clip's directory entry. -/
def skipReason (d : Directory) (clip : Nat) : SkipReason :=
  if d.state == .scanning then .absent
  else match d.find clip with
    | none => .absent
    | some e => match e.state with
      | .unverified => .absent
      | .retiring => .absent
      | .suspect => .faulty
      | .bad => .faulty
      | .ready => .window

/-- R56: the fields an entry copies from its item. -/
def entryOf (i : Nat) (it : PlanItem) : RunEntry :=
  { index := i, clip := it.clip, length := it.length, effective := none, transition := it.transition,
    transitionSamples := it.transitionMs * 48, overlap := 0, level := it.level, group := it.group, link := it.link,
    status := .pending, flags := RunFlags.clear, start := none, startAir := none, played := 0 }

/-- R51: the effective length of a resolved clip, and whether its short end is absent where SHORT asks for it. -/
def effectiveLength (h : ClipHeader) (c : LengthChoice) : Nat × Bool :=
  match c, h.shortEnd with
  | .full, _ => (h.length, false)
  | .short, some e => (e, false)
  | .short, none => (h.length, true)

/-- R49, R51: an entry resolved to a usable clip. -/
def resolveTo (d : Directory) (i : Nat) (it : PlanItem) (clip : Nat) (substituted : Bool) : RunEntry :=
  match d.find clip with
  | none => { entryOf i it with status := .skipped .absent }
  | some e =>
    let (len, noShort) := effectiveLength e.header it.length
    { entryOf i it with
      clip := clip, effective := some len,
      flags := { RunFlags.clear with substituted := substituted, shortAbsent := noShort } }

/-- R49: the entry of an item at an air time. -/
def resolve (d : Directory) (a : AirTime) (i : Nat) (it : PlanItem) : RunEntry :=
  if d.usable it.clip a then resolveTo d i it it.clip false
  else if d.usable it.substitute a then resolveTo d i it it.substitute true
  else { entryOf i it with status := .skipped (skipReason d it.clip) }

/-- R49 over the items of a plan, numbered from `i` on. -/
def resolveAll (d : Directory) (a : AirTime) : Nat → List PlanItem → List RunEntry
  | _, [] => []
  | i, it :: rest => resolve d a i it :: resolveAll d a (i + 1) rest

/-- R52: the overlap of a kept entry behind the kept entry with effective length and overlap `prev`. -/
def overlapWith (prev : Option (Nat × Nat)) (e : RunEntry) : Nat :=
  match prev, e.transition with
  | some (len, ov), .mix => min e.transitionSamples (min (len - ov) (e.effective.getD 0))
  | _, _ => 0

/-- R52: the overlaps of a run list; a skipped entry has none. -/
def setOverlaps : Option (Nat × Nat) → List RunEntry → List RunEntry
  | _, [] => []
  | prev, e :: rest =>
    if e.kept then
      let ov := overlapWith prev e
      { e with overlap := ov } :: setOverlaps (some (e.effective.getD 0, ov)) rest
    else { e with overlap := 0 } :: setOverlaps prev rest

/-- R53: the planned duration. -/
def plannedDuration (run : List RunEntry) : Nat :=
  ((run.filter RunEntry.kept).map fun e => e.effective.getD 0).sum - ((run.filter RunEntry.kept).map fun e => e.overlap).sum

/-- R54: the droppable kept entry with the highest item index. -/
def lastDroppable (items : List PlanItem) (run : List RunEntry) : Option RunEntry :=
  (run.filter fun e => e.kept && (match items[e.index]? with | some it => it.droppable | none => false)).getLast?

/-- R54: one entry marked DROPPED, the overlaps computed afresh. -/
def dropEntry (run : List RunEntry) (i : Nat) : List RunEntry :=
  setOverlaps none (run.map fun e => if e.index = i then { e with status := .skipped .dropped, effective := none } else e)

/-- R54: dropping against the window `w`. `fuel` is the number of entries: each drop leaves one kept entry fewer. -/
def dropAgainst (items : List PlanItem) (w : Nat) : Nat → List RunEntry → List RunEntry
  | 0, run => run
  | fuel + 1, run =>
    if plannedDuration run ≤ w then run
    else match lastDroppable items run with
      | none => run
      | some e => dropAgainst items w fuel (dropEntry run e.index)

/-- R48: fitting a plan for a cue's nominal length at an air time. With nominal length 0 no entry is dropped. -/
def fit (pl : Plan) (d : Directory) (a : AirTime) (nominal : Nat) : List RunEntry :=
  let run := setOverlaps none (resolveAll d a 0 pl.items)
  if nominal = 0 then run else dropAgainst pl.items (nominal * 48) pl.items.length run

/-! ## The run list on air -/

/-- The first PENDING entry: the next kept entry. -/
def nextPending (run : List RunEntry) : Option RunEntry := run.find? fun e => e.status == .pending

/-- R27: no entry is PENDING or PLAYING. -/
def exhausted (run : List RunEntry) : Bool := run.all fun e => e.status != .pending && e.status != .playing

/-- Changing the entry of an index. -/
def modEntry (run : List RunEntry) (i : Nat) (f : RunEntry → RunEntry) : List RunEntry :=
  run.map fun e => if e.index = i then f e else e

/-- The entry of an index. -/
def findEntry (run : List RunEntry) (i : Nat) : Option RunEntry := run.find? fun e => e.index == i

/-- Whether an entry is the first kept entry of its run list: fitting kept it, and skipped all before it. -/
def isFirstKept (run : List RunEntry) (i : Nat) : Bool :=
  match run.find? fun e => e.kept || e.status == .skipped .gate with
  | some e => e.index == i
  | none => false

end Sys2Proof.Machine
end

