-- ==== Sys2Proof/Machine/Voices.lean ====
section
/-! DEFINITION. One voice (spec/04): its ring and refill request, priming, staging, playing one sample, its item end and its
release. What the holding region does about it is in Regions.lean. -/

namespace Sys2Proof.Machine

/-! ## Pages in play order (R61, R62) -/

/-- The page of a primed clip at an index. -/
def Prime.ref (u : Prime) (owner : Owner) (i : Nat) : PageRef := ⟨owner, i, u.audioPage + i⟩

/-- The audio page index of a sample. -/
def pageIndex (f : Format) (s : Nat) : Nat := s / f.samplesPerPage

/-- The index of the page that holds the sample at end position − 1. -/
def Voice.lastPage (v : Voice) : Nat := pageIndex v.format (v.endPos - 1)

/-- The voice's page at an index. -/
def Voice.ref (v : Voice) (i : Nat) : PageRef := ⟨.current, i, v.audioPage + i⟩

/-- The page that follows the clip's last page: audio page 0 of a looping clip, else the staged successor's first. -/
def Voice.pageAfterEnd (v : Voice) : Option PageRef :=
  if v.loop then some (v.ref 0)
  else v.successor.map fun u => u.prime.ref Owner.successor (pageIndex u.prime.format u.prime.startPos)

/-- R62: the next page in play order after the ring's last page. -/
def Voice.nextPage (v : Voice) : Option PageRef :=
  match v.ring.getLast? with
  | none => if v.pos < v.endPos then some (v.ref (pageIndex v.format v.pos)) else v.pageAfterEnd
  | some pg => match pg.ref.owner with
    | .current => if pg.ref.index = v.lastPage then v.pageAfterEnd else some (v.ref (pg.ref.index + 1))
    | .successor => match v.successor with
      | none => none
      | some u =>
        if pg.ref.index = pageIndex u.prime.format (u.prime.endPos - 1) then
          if u.prime.loop then some (u.prime.ref Owner.successor 0) else none
        else some (u.prime.ref Owner.successor (pg.ref.index + 1))

/-- Whether a voice is PRIMING, READY or PLAYING. -/
def Voice.active (v : Voice) : Bool := v.state == .priming || v.state == .ready || v.state == .playing

/-- The page a voice wants: its next page while the ring holds fewer than 8. -/
def Voice.wanted (v : Voice) : Option PageRef := if v.active && v.ring.length < 8 then v.nextPage else none

/-- Whether the voice's read is in flight at the array. -/
def Voice.reading (v : Voice) : Bool := match v.pending with
  | some q => q.inFlight
  | none => false

/-- R62, R72: the refill request as it should stand: made, renewed for the page now wanted, or dropped. A read in flight is
not taken back. -/
def Voice.refill (v : Voice) : Voice :=
  if v.reading then v else { v with pending := v.wanted.map fun ref => ⟨ref, false⟩ }

/-- The pages ahead, as the Read Scheduler counts them: 0 for a PRIMING voice (R61). -/
def Voice.pagesAhead (v : Voice) : Nat := if v.state = .priming then 0 else v.ring.length

/-- R62: a voice is urgent: PLAYING or READY with fewer than 3 pages ahead. -/
def Voice.isUrgent (v : Voice) : Bool := (v.state == .playing || v.state == .ready) && v.ring.length < 3

/-- R62: the class of a voice's request: 1 while it is PRIMING or urgent, otherwise 2, as for the read that a RELEASING voice has in
flight. -/
def Voice.readClass (v : Voice) : Nat := if v.state == .priming || v.isUrgent then 1 else 2

/-- Whether a request waits that is not in flight. -/
def Voice.requesting (v : Voice) : Bool := match v.pending with
  | some q => !q.inFlight
  | none => false

/-! ## Priming (R60) -/

/-- R60: a voice that is not RELEASING takes the priming. -/
def Voice.take (v : Voice) (u : Prime) : Voice :=
  { v with
    state := .priming, clip := some u.clip, format := u.format, trim := u.trim, audioPage := u.audioPage,
    pos := u.startPos, endPos := u.endPos, loop := u.loop, successor := none, fader := .still u.level, group := u.group,
    releaseAtRampEnd := false, ring := [], pending := if v.reading then v.pending else none,
    dropout := false, underrun := false, run := u.run, startedAt := none, reported := false, waiting := none }.refill

/-- R60: a RELEASING voice keeps the priming until it becomes IDLE. -/
def Voice.prime (v : Voice) (u : Prime) : Voice :=
  if v.state = .releasing then { v with waiting := some u } else v.take u

/-- R60: the pages that make a PRIMING voice READY: four, or all from the play position to the end position. -/
def Voice.pagesNeeded (v : Voice) : Nat := min 4 (v.lastPage - pageIndex v.format v.pos + 1)

/-- R60: the priming-complete test after a page has joined the ring. -/
def Voice.completePriming (v : Voice) : Voice :=
  if v.state = .priming ∧ v.pagesNeeded ≤ v.ring.length then { v with state := .ready } else v

/-! ## Staging (R65) -/

/-- A successor is staged behind the clip; a voice holds at most one. -/
def Voice.stage (v : Voice) (u : Successor) : Voice := { v with successor := some u }.refill

/-- A successor is unstaged, and its pages leave the ring. -/
def Voice.unstage (v : Voice) : Voice :=
  { v with successor := none, ring := v.ring.filter fun pg => pg.ref.owner == Owner.current }.refill

/-- At an item end the successor's pages become the clip's, and a page of the finished clip is nobody's. -/
def PageRef.handOver (x : PageRef) : PageRef :=
  { x with owner := match x.owner with
      | .successor => .current
      | .current => .successor }

/-- The same for a page in the ring. -/
def RingPage.handOver (x : RingPage) : RingPage := { x with ref := x.ref.handOver }

/-- The same for a pending read. -/
def PendingRead.handOver (x : PendingRead) : PendingRead := { x with ref := x.ref.handOver }

/-- R64, R65: at the item end the staged successor becomes the voice's clip: R set to its level, any ramp cancelled, DROPOUT and
UNDERRUN cleared, its pages kept. `state` is READY where it is held for a gate, PLAYING otherwise. -/
def Voice.takeSuccessor (v : Voice) (u : Successor) (state : VoiceState) (startedAt : Option Nat) : Voice :=
  { v with
    state := state, clip := some u.prime.clip, format := u.prime.format, trim := u.prime.trim, audioPage := u.prime.audioPage,
    pos := u.prime.startPos, endPos := u.prime.endPos, loop := u.prime.loop, successor := none,
    fader := .still u.prime.level, group := u.prime.group, releaseAtRampEnd := false,
    ring := (v.ring.filter fun (pg : RingPage) => pg.ref.owner == Owner.successor).map RingPage.handOver,
    pending := v.pending.map PendingRead.handOver,
    dropout := false, underrun := false, run := u.prime.run, startedAt := startedAt, reported := false }.refill

/-! ## Playing (R63, R72) -/

/-- The pages that lie wholly behind the play position leave the ring; the last page of an entry stays until the item end or
loop wrap (R61). -/
def Voice.dropBehind (v : Voice) : Voice :=
  let at' := min (pageIndex v.format v.pos) v.lastPage
  { v with ring := v.ring.dropWhile fun pg => pg.ref.owner == Owner.current && pg.ref.index < at' }

/-- The page of the ring that holds the play position, if it is there: the ring's first. -/
def Voice.pageNow (v : Voice) : Option RingPage := match v.ring.head? with
  | some pg => if pg.ref.owner = .current ∧ pg.ref.index = pageIndex v.format v.pos then some pg else none
  | none => none

/-- What a PLAYING voice hands to the Mixer at this sample: the left and right value, whether the sample lacks its page, and
whether its page has failed. -/
def Voice.hands (v : Voice) : (Int × Int) × Bool × Bool :=
  match v.pageNow with
  | none => ((0, 0), true, false)
  | some pg => if pg.failed then ((0, 0), false, true) else (pg.image.sample v.format v.pos, false, false)

/-- R63: the voice after it has played one sample. -/
def Voice.played (v : Voice) : Voice :=
  let (_, lacks, failed) := v.hands
  ({ v with
    fader := v.fader.advance, pos := v.pos + 1, underrun := v.underrun || lacks, dropout := v.dropout || failed,
    reported := v.reported || failed }.dropBehind).refill

/-- R66, R67: the remaining samples, the sample being formed counted. -/
def Voice.remaining (v : Voice) : Nat := v.endPos - v.pos

/-- R64: a PLAYING voice has played the sample at end position − 1. -/
def Voice.atEnd (v : Voice) : Bool := v.state == .playing && v.endPos ≤ v.pos

/-- R64: the item end is due: at the end with the loop flag clear. -/
def Voice.itemEndDue (v : Voice) : Bool := v.atEnd && !v.loop

/-- R64: the loop wrap is due. -/
def Voice.loopWrapDue (v : Voice) : Bool := v.atEnd && v.loop

/-- The ring after a loop wrap: the last page has left it (R61). -/
def Voice.ringAfterWrap (v : Voice) : List RingPage := match v.ring with
  | pg :: rest => if pg.ref.index = v.lastPage then rest else v.ring
  | [] => []

/-- R64: a looping voice returns to position 0; the last page leaves the ring, and a new play begins (R72). -/
def Voice.wrap (v : Voice) : Voice :=
  { v with
    pos := 0, reported := false,
    ring := v.ringAfterWrap }.refill

/-- A voice is started at a sample from an advanced position (R63, R65): pages before that position leave the ring. -/
def Voice.start (v : Voice) (count skip : Nat) : Voice :=
  ({ v with state := .playing, pos := v.pos + skip, startedAt := some count }.dropBehind).refill

/-- The completion of a ramp given with the release-at-ramp-end flag is due (R71). -/
def Voice.releaseDue (v : Voice) : Bool := v.state == .playing && v.fader.complete && v.releaseAtRampEnd

/-! ## Release (R71) -/

/-- R71: the voice drops its clip, successor, ring, ramp and flags; it is RELEASING while its read is in flight, and IDLE
otherwise. Releasing an IDLE or RELEASING voice only discards a priming request that waits on it (R60). -/
def Voice.release (v : Voice) : Voice :=
  if v.active then
    { Voice.idle v.holder with
      state := if v.reading then .releasing else .idle, pending := if v.reading then v.pending else none }
  else { v with waiting := none }

/-! ## Voices of the pool (R59, R68) -/

/-- Whether a voice is one of the pool voices 24..31. -/
def isPool (v : VoiceNo) : Bool := 24 ≤ v.val

/-- The home voice of a region. -/
def homeVoice (r : Region) : VoiceNo := ⟨r.val, Nat.lt_trans r.isLt (by decide)⟩

/-- A region without a pool voice that it held. A lead voice that it was is absent too. -/
def RegionRec.dropPool (x : RegionRec) (v : VoiceNo) : RegionRec :=
  { x with pool := if x.pool = some v then none else x.pool, lead := if x.lead = some v then none else x.lead }

/-- A pool voice that is IDLE with no priming waiting returns to the pool: no holder, and its region's pool voice field becomes
absent (R71). -/
def Play.returnPool (p : Play) (v : VoiceNo) : Play :=
  let x := p.voice v
  if isPool v && x.state == .idle then
    match x.holder with
    | none => p
    | some r =>
      (p.setVoice v { x with holder := none }).modRegion r fun y => y.dropPool v
  else p

/-- R71: a voice is released, and a pool voice that is IDLE then returns to the pool. -/
def Play.releaseVoice (p : Play) (v : VoiceNo) : Play := (p.modVoice v Voice.release).returnPool v

/-- A region primes a voice (R60). -/
def Play.primeVoice (p : Play) (v : VoiceNo) (u : Prime) : Play := p.modVoice v fun x => x.prime u

/-- The voices of a region: its home voice, and its pool voice where it holds one (R59). -/
def Play.voicesOf (p : Play) (r : Region) : List VoiceNo := match (p.region r).pool with
  | some v => [homeVoice r, v]
  | none => [homeVoice r]

/-- The free pool voices: IDLE with no holder, lowest first (R68). -/
def Play.freePool (p : Play) : List VoiceNo :=
  allVoices.filter fun v => isPool v && (p.voice v).state == .idle && (p.voice v).holder == none

/-- R68: the waiting list is in order of decision point, then of region number. -/
def insertWaiter (w : Waiter) : List Waiter → List Waiter
  | [] => [w]
  | x :: xs =>
    if w.decision < x.decision ∨ (w.decision = x.decision ∧ w.region < x.region) then w :: x :: xs
    else x :: insertWaiter w xs

/-- R69: a region's entry leaves the waiting list. -/
def Play.withdraw (p : Play) (r : Region) : Play := { p with waiters := p.waiters.filter fun w => w.region != r }

end Sys2Proof.Machine
end

