-- ==== Sys2Proof/Machine/Regions.lean ====
section
/-! DEFINITION. The Region Splicer (spec/02) with its use of voices (spec/04) and gates (spec/06): arming, splitting, moving from
entry to entry, arriving at gates, running short, lead-out, close and bypass. Every operation is on the on-air blocks alone and
takes the instant at which it acts. -/

namespace Sys2Proof.Machine

/-! ## Run entries on air -/

/-- R147: the ITEM record of an entry with its start air time. -/
def itemRecord (r : Region) (breakId : Nat) (e : RunEntry) (start : AirTime) : ItemRecord :=
  ⟨r, breakId, e.index, e.clip, start, e.played, itemOutcome e.status e.flags.substituted, e.flags.forRecord⟩

/-- R57, R147: an entry reaches a last status, and its ITEM record is appended. -/
def Play.closeEntry (p : Play) (t : Now) (r : Region) (i : Nat) (st : EntryStatus) (start : AirTime) : Play :=
  p.withBreak r fun b => match findEntry b.run i with
    | none => p
    | some e =>
      (p.modBreak r fun b => { b with run := modEntry b.run i fun e => { e with status := st } }).appendItem t r
        (itemRecord r b.breakId { e with status := st } start)

/-- The entry that a voice plays reaches DONE or TRIMMED; the filler has no entry (R29). -/
def Play.closeVoiceEntry (p : Play) (t : Now) (r : Region) (v : VoiceNo) (st : EntryStatus) : Play :=
  match (p.voice v).run with
  | none => p
  | some i => p.withBreak r fun b => match findEntry b.run i with
    | none => p
    | some e => p.closeEntry t r i st (e.startAir.getD t.air)

/-- R25, R27, R57: an entry goes from PENDING to PLAYING at its first sample. The first kept entry carries LATE_START when the
late-start samples are above 0. -/
def RunEntry.started (e : RunEntry) (t : Now) (late : Bool) : RunEntry :=
  { e with
    status := .playing, start := some t.pos, startAir := some t.air,
    flags := { e.flags with lateStart := e.flags.lateStart || late } }

/-- An entry starts: its fields, and the items aired count. -/
def Play.startEntry (p : Play) (t : Now) (r : Region) (i : Nat) : Play :=
  p.modBreak r fun b =>
    { b with
      run := modEntry b.run i fun e => e.started t (isFirstKept b.run i && 0 < b.lateStart)
      itemsAired := b.itemsAired + 1 }

/-- A flag set on an entry. -/
def Play.flagEntry (p : Play) (r : Region) (i : Nat) (f : RunFlags → RunFlags) : Play :=
  p.modBreak r fun b => { b with run := modEntry b.run i fun e => { e with flags := f e.flags } }

/-- The bed of a region changed. -/
def Play.setBed (p : Play) (r : Region) (f : Fader → Fader) : Play := p.modRegion r fun x => { x with bed := f x.bed }

/-- The state of a region set. -/
def Play.setState (p : Play) (r : Region) (st : RegionState) : Play := p.modRegion r fun x => { x with state := st }

/-- The lead voice of a region set. -/
def Play.setLead (p : Play) (r : Region) (v : Option VoiceNo) : Play := p.modRegion r fun x => { x with lead := v }

/-- What has been done towards the next entry. -/
def Play.setPrep (p : Play) (r : Region) (x : Prep) : Play := p.modBreak r fun b => { b with prep := x }

/-- R28: the group whose gate an entry waits for: its link group, where the region is a member of it. -/
def Play.linkedTo (p : Play) (r : Region) (e : RunEntry) : Option LinkGroup := match e.link with
  | some g => if inMask (p.gate g).mask r then some g else none
  | none => none

/-- The priming of a run entry's clip at a level (R60). -/
def Play.primeOf (p : Play) (e : RunEntry) (level : Nat) : Prime :=
  p.dir.prime e.clip 0 (e.effective.getD 0) level e.group false (some e.index)

/-- The priming of a region's filler: from its head to the clip's length, looping, in group 0 (R29). -/
def Play.fillerOf (p : Play) (r : Region) : Prime :=
  let c := (p.region r).config
  p.dir.prime c.fillerClip 0 (match p.dir.find c.fillerClip with | some e => e.header.length | none => 0) c.fillerLevel 0 true none

/-- R17, R29: the plan's fill policy is FILLER and the configured filler clip is usable now. -/
def Play.fillerUsable (p : Play) (t : Now) (r : Region) (b : OpenBreak) : Bool :=
  (p.heldPlan r b).fill == .filler && p.dir.usable (p.region r).config.fillerClip t.air

/-! ## Preparing the next entry (R29, R65) -/

/-- R65: entries that are staged behind the lead voice: a CUT, a MIX with overlap 0, and a linked entry. -/
def Play.stages (p : Play) (r : Region) (e : RunEntry) : Bool :=
  e.transition == .cut || e.overlap == 0 || (p.linkedTo r e).isSome

/-- R65: no other voice of the region is playing, or the one that is ends on the sample the lead ends on. -/
def Play.leadAlone (p : Play) (r : Region) (lead : VoiceNo) : Bool :=
  (p.voicesOf r).all fun v =>
    v == lead || (p.voice v).state != .playing || (p.voice v).remaining == (p.voice lead).remaining

/-- R29: at the start of the last kept entry the filler clip is tested once, and staged when usable. -/
def Play.stageFiller (p : Play) (t : Now) (r : Region) (lead : VoiceNo) (b : OpenBreak) : Play :=
  if b.fillerTested then p
  else
    let q := p.modBreak r fun b => { b with fillerTested := true }
    if p.fillerUsable t r b then q.modVoice lead fun x => x.stage ⟨p.fillerOf r, false⟩ else q

/-- R65: what can be staged now is staged: the next entry, or the filler behind the last. -/
def Play.prepare (p : Play) (t : Now) (r : Region) : Play :=
  p.withBreak r fun b => match (p.region r).lead with
    | none => p
    | some lead =>
      if ((p.region r).state == .leadin || (p.region r).state == .localPlay) && (p.voice lead).state == .playing then
        match nextPending b.run with
        | none => p.stageFiller t r lead b
        | some e =>
          if b.prep == .none && p.stages r e && p.leadAlone r lead then
            (p.modVoice lead fun x => x.stage ⟨p.primeOf e e.level, (p.linkedTo r e).isSome⟩).setPrep r .staged
          else p
      else p

/-! ## Gates, as the region meets them (R28, R94) -/

/-- R94: the region arrives at a gate: GATED, with the bed ramping to the duck level over the plan's lead-in. What the Gate
Unit then decides is taken when the sample's arrivals are settled (log 23). -/
def Play.arrive (p : Play) (r : Region) (g : LinkGroup) : Play :=
  p.withBreak r fun b =>
    (p.modRegion r fun x =>
      { x with state := .gated, arriving := some g, bed := x.bed.begin x.config.duckLevel (p.heldPlan r b).leadInMs }).setPrep r .none

/-- What stands before an entry starts, noted for a break end of the same sample (R32, log 60); `out` is the outgoing voice of a
crossfade. Of the starts of one sample the first is noted. -/
def Play.noteStart (p : Play) (t : Now) (r : Region) (out : Option VoiceNo) : Play :=
  p.modBreak r fun b =>
    if b.before.any fun k => k.count == t.count then b
    else { b with before := some ⟨t.count, (p.region r).bed, (p.region r).lead, out.map fun v => (v, (p.voice v).fader)⟩ }

/-- R28, R75, R97, R98: the entry that the lead voice holds is started as a CUT, `skip` samples in; the bed is cut to 0 and
the region goes to LOCAL. -/
def Play.startHeld (p : Play) (t : Now) (r : Region) (skip : Nat) : Play :=
  p.withBreak r fun b => match (p.region r).lead, nextPending b.run with
    | some lead, some e =>
      (((((p.noteStart t r none).modVoice lead fun x => x.start t.count skip).modRegion r fun x =>
        { x with state := .localPlay, arriving := none, opening := none, bed := x.bed.cut 0 }).setPrep r .none).startEntry t r
          e.index).prepare t r
    | _, _ => p

/-! ## Winding down (R32) -/

/-- The voices of a region in run order: an entry before the entry after it, the filler last (R149). -/
def Play.voicesInRunOrder (p : Play) (r : Region) : List VoiceNo := match p.voicesOf r with
  | [a, b] =>
    match (p.voice a).run, (p.voice b).run with
    | some i, some j => if i ≤ j then [a, b] else [b, a]
    | none, some _ => [b, a]
    | _, _ => [a, b]
  | l => l

/-- R32: a voice that is at its item end at this sample has played its entry whole: DONE, and released without its successor. -/
def Play.finishAtEnd (p : Play) (t : Now) (r : Region) (v : VoiceNo) : Play :=
  if (p.voice v).itemEndDue then (p.closeVoiceEntry t r v .done).releaseVoice v else p

/-- R32: a start at this very sample is not made, whichever event is taken first: the entry is PENDING again, and the voice,
which has played nothing, is released. -/
def RunEntry.unstart (e : RunEntry) : RunEntry :=
  { e with
    status := .pending, start := none, startAir := none,
    flags := { e.flags with lateStart := false, lateMix := false, joinedLate := false } }

/-- R32 for one voice of the region. The start of lead-in at this sample stands, and only its entry is undone (log 60). -/
def Play.undoStart (p : Play) (t : Now) (r : Region) (v : VoiceNo) : Play :=
  if (p.voice v).state == .playing && (p.voice v).startedAt == some t.count then
    (match (p.voice v).run with
      | none => p
      | some i => p.modBreak r fun b => { b with run := modEntry b.run i RunEntry.unstart, itemsAired := b.itemsAired - 1 }).releaseVoice v
  else p

/-- R32: what the starts of this sample changed besides their voices and entries is as it was before them: the bed, the lead voice, and
the fader of the outgoing voice of a crossfade. -/
def Play.restoreStart (p : Play) (t : Now) (r : Region) : Play :=
  p.withBreak r fun b => match b.before with
    | some k =>
      if k.count = t.count then
        let q := p.modRegion r fun x => { x with bed := k.bed, lead := k.lead }
        match k.out with
        | some (v, f) => if (q.voice v).state == .playing then q.modVoice v fun x => { x with fader := f } else q
        | none => q
      else p
    | none => p

/-- R32: the starts of this sample undone. -/
def Play.undoStarts (p : Play) (t : Now) (r : Region) : Play :=
  ((p.voicesInRunOrder r).foldl (fun q v => q.undoStart t r v) p).restoreStart t r

/-- R32, R71: a playing voice begins its ramp to 0 with the release-at-ramp-end flag and without its successor; a ramp that is
complete at once releases it, its entry TRIMMED. A voice not yet playing is released. -/
def Play.rampOut (p : Play) (t : Now) (r : Region) (ms : Nat) (v : VoiceNo) : Play :=
  if (p.voice v).state == .playing then
    let q := p.modVoice v fun x => { x.unstage with fader := x.fader.begin 0 ms, releaseAtRampEnd := true }
    if (q.voice v).fader.ramp.isNone then (q.closeVoiceEntry t r v .trimmed).releaseVoice v else q
  else p.releaseVoice v

/-- R32: each PENDING entry goes to TRIMMED with played samples 0 and the present air time, in run order. -/
def Play.trimPending (p : Play) (t : Now) (r : Region) : Play :=
  p.withBreak r fun b =>
    (b.run.filter fun e => e.status == .pending).foldl (fun q e => q.closeEntry t r e.index .trimmed t.air) p

/-- R32: everything the region is playing or was about to play is wound down over `ms`. `undo` is set at a break end. -/
def Play.windDown (p : Play) (t : Now) (r : Region) (ms : Nat) (undo : Bool) : Play :=
  let p1 := (p.voicesInRunOrder r).foldl (fun q v => q.finishAtEnd t r v) p
  let p2 := if undo then p1.undoStarts t r else p1
  let p3 := (p2.voicesInRunOrder r).foldl (fun q v => q.rampOut t r ms v) p2
  (p3.trimPending t r).withdraw r

/-- R33, R148: the BREAK record of an open break. -/
def breakRecord (t : Now) (r : Region) (b : OpenBreak) : BreakRecord :=
  ⟨r, b.breakId, (match b.split with | some x => x.air | none => t.air), t.air, b.endCause.getD .bypass, b.lateStart, b.fillSamples,
    b.itemsAired⟩

/-- The open break fields, the arm deadline, the lead voice and what stands of a gate become absent (R19, R33). -/
def RegionRec.unbreak (x : RegionRec) (st : RegionState) : RegionRec :=
  { x with state := st, armDeadline := none, brk := none, lead := none, arriving := none, opening := none }

/-- The pool voice that a region holds is given back. -/
def Play.giveBackPool (p : Play) (r : Region) : Play := match (p.region r).pool with
  | some v => p.releaseVoice v
  | none => p

/-- R33: the break is closed: its BREAK record, its pool voice and its slot given back, and the region in `st` (NETWORK, or
BYPASS at Force Network). DESIGN CHOICE (log 53): a region whose early-network lead-out is marked closing leaves its gates here, not at
the break end that marks it. -/
def Play.closeBreak (p : Play) (t : Now) (r : Region) (st : RegionState) : Play :=
  p.withBreak r fun b =>
    (((p.appendRecord t (.brk (breakRecord t r b))).giveBackPool r).giveBack r b.slot b.split.isSome).leaveGates r
      |>.modRegion r fun x => x.unbreak st

/-- R30, R33: the lead-out is complete when the bed ramp is complete and every voice of the region is released. A closing one
closes the break; the early-network one goes to RETURNED. -/
def Play.leadOutDone (p : Play) (r : Region) : Bool :=
  (p.region r).state == .leadout && (p.region r).bed.ramp.isNone && (p.voicesOf r).all fun v => !(p.voice v).active

/-- The completion of a lead-out, where it is complete. DESIGN CHOICE (log 65): an early-network lead-out that an expiry has marked as
closing is completed when that event is taken, be it before a REJOIN of the same sample, which then finds no break to amend. -/
def Play.completeLeadOut (p : Play) (t : Now) (r : Region) : Play :=
  if p.leadOutDone r then
    p.withBreak r fun b => if b.closing then p.closeBreak t r .network else p.setState r .returned
  else p

/-- R33: the late-start samples of a break whose lead-in never began are the samples from the split to its end. -/
def OpenBreak.lateAtEnd (b : OpenBreak) (t : Now) : Nat := match b.leadInStart, b.split with
  | none, some x => t.count - x.count
  | _, _ => b.lateStart

/-- The end of a break recorded: cause, closing flag, timer stopped (R31). -/
def OpenBreak.ended (b : OpenBreak) (t : Now) (cause : EndCause) : OpenBreak :=
  { b with
    endCause := some cause, closing := true, timerRuns := false, endedAt := some t.count, lateStart := b.lateAtEnd t,
    prep := .none, mixLate := false }

/-- R31, R32: a break end begins a closing lead-out. `rejoins` says that a REJOIN of this sample is still to be taken: with a lead-out
duration above 0 a lead-out that is complete at its start stays open for it, since it amends the cause (log 61). -/
def Play.closingLeadOut (p : Play) (t : Now) (r : Region) (cause : EndCause) (rejoins : Bool) : Play :=
  p.withBreak r fun b =>
    let ms := (p.heldPlan r b).leadOutMs
    let q := (((p.windDown t r ms true).modBreak r fun b => b.ended t cause).modRegion r fun x =>
      { x with state := .leadout, bed := x.bed.begin 231 ms, arriving := none, opening := none }).leaveGates r
    if rejoins && 0 < ms then q else q.completeLeadOut t r

/-- R30: the early-network lead-out. -/
def Play.earlyLeadOut (p : Play) (t : Now) (r : Region) : Play :=
  p.withBreak r fun b =>
    let ms := (p.heldPlan r b).leadOutMs
    ((((p.windDown t r ms false).modBreak r fun b => { b with closing := false, prep := .none, mixLate := false }).modRegion r fun x =>
      { x with state := .leadout, bed := x.bed.begin 231 ms, arriving := none, opening := none }).completeLeadOut t r)

/-- R30, R31, R34: a break end of a cause, by the region's state. -/
def Play.breakEnd (p : Play) (t : Now) (r : Region) (cause : EndCause) (rejoins : Bool) : Play :=
  p.withBreak r fun b => match (p.region r).state with
    | .leadin => p.closingLeadOut t r cause rejoins
    | .localPlay => p.closingLeadOut t r cause rejoins
    | .gated => p.closingLeadOut t r cause rejoins
    | .fill => p.closingLeadOut t r cause rejoins
    | .leadout =>
      if !b.closing then
        p.modBreak r fun b => { b with endCause := some cause, closing := true, timerRuns := false, endedAt := some t.count }
      else if cause == .rejoinCue && b.endCause == some .timeout && b.endedAt == some t.count then
        (p.modBreak r fun b => { b with endCause := some .rejoinCue }).completeLeadOut t r
      else p
    | .returned =>
      (p.modBreak r fun b => { b with endCause := some cause, timerRuns := false }).closeBreak t r .network
    | .network => p
    | .primed => p
    | .bypass => p

/-! ## Disarming and bypass -/

/-- R19: an armed break is ended without airing. -/
def Play.disarm (p : Play) (r : Region) (st : RegionState) : Play :=
  p.withBreak r fun b =>
    (((((p.withdraw r).releaseVoice (homeVoice r)).giveBackPool r).giveBack r b.slot false).leaveGates r).modRegion r fun x =>
      x.unbreak st

/-- R35: Force Network in a running state: the entries closed as for a lead-out of duration 0, the break closed with BYPASS. -/
def Play.bypassBreak (p : Play) (t : Now) (r : Region) : Play :=
  ((((p.windDown t r 0 true).modBreak r fun b =>
    { b with endCause := some .bypass, lateStart := b.lateAtEnd t }).setBed r fun f => f.cut 231).closeBreak t r .bypass)

/-- R35: Force Network, from any state. -/
def Play.forceNetwork (p : Play) (t : Now) (r : Region) : Play := match (p.region r).state with
  | .network => p.setState r .bypass
  | .bypass => p
  | .primed => p.disarm r .bypass
  | .leadin => p.bypassBreak t r
  | .localPlay => p.bypassBreak t r
  | .gated => p.bypassBreak t r
  | .fill => p.bypassBreak t r
  | .leadout => p.bypassBreak t r
  | .returned => p.bypassBreak t r

/-! ## Arming and splitting -/

/-- A new open break for a cue, fitted but not split. DESIGN CHOICE (log 77): its late-start samples are 0 until lead-in begins. -/
def newBreak (breakId : Nat) (slot : Fin 16) (run : List RunEntry) : OpenBreak :=
  { breakId := breakId, slot := slot, run := run, split := none, deadline := none, timerRuns := false, leadInStart := none,
    lateStart := 0, fillSamples := 0, itemsAired := 0, endCause := none, closing := false, endedAt := none, prep := .none,
    mixLate := false, fillerTested := false, before := none, logged := none }

/-- R17, R23: the slot is taken and the plan fitted at the dispatch sample. -/
def Play.openBreak (p : Play) (t : Now) (r : Region) (breakId : Nat) (slot : Fin 16) (nominal : Nat) : Play :=
  let run := match (p.slot r slot).plan with
    | some pl => fit pl p.dir t.air nominal
    | none => []
  (p.takeSlot r slot).modRegion r fun x => { x with brk := some (newBreak breakId slot run) }

/-- R17, R23: priming of the first kept entry on the home voice, or of the filler where fitting kept none. DESIGN CHOICE (log 51): a
first kept MIX entry is given its own level at priming, and its ramp from 0 begins at its start. -/
def Play.primeFirst (p : Play) (t : Now) (r : Region) : Play :=
  p.withBreak r fun b => match nextPending b.run with
    | some e => p.primeVoice (homeVoice r) (p.primeOf e e.level)
    | none => if p.fillerUsable t r b then p.primeVoice (homeVoice r) (p.fillerOf r) else p

/-- The arm deadline counted from the dispatch sample (R17). -/
def RegionRec.armFrom (x : RegionRec) (t : Now) : RegionRec := { x with armDeadline := some (t.count + x.config.armTimeoutS * 48000) }

/-- R17: a PREPARE in NETWORK. -/
def Play.arm (p : Play) (t : Now) (r : Region) (c : PendingCue) : Play :=
  match p.findPlan r c.breakId with
  | none => p
  | some n => ((p.openBreak t r c.breakId n c.nominal).modRegion r fun x => { x.armFrom t with state := .primed }).primeFirst t r

/-- The split air time: that of the period in which the split point lies (R21, log 17). -/
def Now.airAt (t : Now) (lateness : Nat) : AirTime :=
  if lateness = 0 then t.air else t.airHistory.getD ((lateness + 47) / 48 - 1) t.air

/-- R21, R22: split point, split air time and break timer. -/
def OpenBreak.splitAt (b : OpenBreak) (t : Now) (cfg : RegionConfig) (c : PendingCue) (lateness : Nat) : OpenBreak :=
  let n := if c.nominal = 0 then cfg.maxBreakMs else c.nominal
  { b with
    split := some ⟨c.target, t.count - lateness, t.airAt lateness⟩
    deadline := some (t.count - lateness + (n + cfg.overrunMs) * 48), timerRuns := true }

/-- R21: the ITEM records of the entries that fitting skipped, in run order, each with the split air time. -/
def Play.appendSkipped (p : Play) (t : Now) (r : Region) (air : AirTime) : Play :=
  p.withBreak r fun b =>
    (b.run.filter fun e => !e.kept).foldl (fun q e => q.appendItem t r (itemRecord r b.breakId e air)) p

/-- R21, R23: the region goes to LEADIN with its split recorded. -/
def Play.enterLeadIn (p : Play) (t : Now) (r : Region) (c : PendingCue) (lateness : Nat) : Play :=
  ((p.modBreak r fun b => b.splitAt t (p.region r).config c lateness).appendSkipped t r (t.airAt lateness)).modRegion r fun x =>
    { x with armDeadline := none, state := .leadin }

/-- R25: the home voice starts the first kept entry: a CUT at its own level, a MIX ramping in from 0. -/
def Voice.startFirst (v : Voice) (t : Now) (e : RunEntry) : Voice :=
  { v with
    fader := if e.transition = Transition.mix then (Fader.still 0).begin e.level (e.transitionSamples / 48) else .still e.level
  }.start t.count 0

/-- R26: a lead-in bed ramp that is complete takes the region to LOCAL. -/
def Play.localIfDown (p : Play) (r : Region) : Play :=
  if (p.region r).state == .leadin && (p.region r).bed.ramp.isNone then p.setState r .localPlay else p

/-- R25: lead-in begins. -/
def Play.leadInStart (p : Play) (t : Now) (r : Region) : Play :=
  p.withBreak r fun b =>
    let ms := (p.heldPlan r b).leadInMs
    let home := homeVoice r
    let q := p.modBreak r fun b =>
      { b with leadInStart := some t.pos, lateStart := match b.split with | some x => t.count - x.count | none => 0 }
    match nextPending b.run with
    | some e => match p.linkedTo r e with
      | some g => (q.setLead r (some home)).arrive r g
      | none =>
        ((((((q.setLead r (some home)).modVoice home fun x => x.startFirst t e).startEntry t r e.index).setBed r fun f =>
          f.begin 0 ms)).localIfDown r).prepare t r
    | none =>
      if (p.voice home).active then
        (((q.setLead r (some home)).modVoice home fun x => x.start t.count 0).setBed r fun f => f.begin 0 ms).setState r .fill
      else q.setState r .returned

/-- R21, R23: whether the home voice has nothing primed and nothing waiting. -/
def Voice.unprimed (v : Voice) : Bool := !v.active && v.waiting.isNone

/-- R21: a warm split. -/
def Play.warmSplit (p : Play) (t : Now) (r : Region) (c : PendingCue) (lateness : Nat) : Play :=
  let q := p.enterLeadIn t r c lateness
  if (p.voice (homeVoice r)).state == .ready || (p.voice (homeVoice r)).unprimed then q.leadInStart t r else q

/-- R23: a cold split. -/
def Play.coldSplit (p : Play) (t : Now) (r : Region) (c : PendingCue) (lateness : Nat) : Play :=
  match p.findPlan r c.breakId with
  | none => p
  | some n =>
    let q := ((p.openBreak t r c.breakId n c.nominal).enterLeadIn t r c lateness).primeFirst t r
    if (q.voice (homeVoice r)).unprimed then q.leadInStart t r else q

/-! ## A cue, as the region's state has it (the tables of spec/02) -/

/-- R18: the CUE_SEQUENCE notice. -/
def Play.cueSequence (p : Play) (t : Now) (r : Region) (c : PendingCue) : Play :=
  p.raise t 0 (.cueSequence r c.kind c.breakId c.target (p.region r).state
    (match (p.region r).brk with | some b => b.breakId | none => 0) t.pos)

/-- The break ID of the open break, 0 where none is open. -/
def Play.openId (p : Play) (r : Region) : Nat := match (p.region r).brk with
  | some b => b.breakId
  | none => 0

/-- A PREPARE (R17, R18). -/
def Play.onPrepare (p : Play) (t : Now) (r : Region) (c : PendingCue) : Play := match (p.region r).state with
  | .network => p.arm t r c
  | .primed =>
    if p.openId r = c.breakId then p.modRegion r fun x => x.armFrom t
    else (p.disarm r .network).arm t r c
  | .bypass => p
  | .leadin => p.cueSequence t r c
  | .localPlay => p.cueSequence t r c
  | .gated => p.cueSequence t r c
  | .fill => p.cueSequence t r c
  | .leadout => p.cueSequence t r c
  | .returned => p.cueSequence t r c

/-- R24: a SPLIT in a running state: ignored with the open break ID, out of sequence with another. -/
def Play.splitRunning (p : Play) (t : Now) (r : Region) (c : PendingCue) : Play :=
  if p.openId r = c.breakId then p else p.cueSequence t r c

/-- A SPLIT (R21, R23, R24). -/
def Play.onSplit (p : Play) (t : Now) (r : Region) (c : PendingCue) (lateness : Nat) : Play := match (p.region r).state with
  | .network => p.coldSplit t r c lateness
  | .primed =>
    if p.openId r = c.breakId then p.warmSplit t r c lateness
    else (p.disarm r .network).coldSplit t r c lateness
  | .bypass => p
  | .leadin => p.splitRunning t r c
  | .localPlay => p.splitRunning t r c
  | .gated => p.splitRunning t r c
  | .fill => p.splitRunning t r c
  | .leadout => p.splitRunning t r c
  | .returned => p.splitRunning t r c

/-- A REJOIN or CANCEL with the open break ID (R19, R30, R31, R34); with another ID it is ignored. DESIGN CHOICE (log 47): the
CUE_SEQUENCE of a REJOIN in PRIMED is raised before the disarm, and carries PRIMED and the armed break ID. -/
def Play.onEnd (p : Play) (t : Now) (r : Region) (c : PendingCue) (cause : EndCause) : Play :=
  p.withBreak r fun b =>
    if b.breakId = c.breakId then match (p.region r).state with
      | .primed =>
        if c.kind == .rejoin then (p.cueSequence t r c).disarm r .network else p.disarm r .network
      | _ => p.breakEnd t r cause false
    else p

/-- R7: a cue dispatched to a region acts on its state. -/
def Play.onCue (p : Play) (t : Now) (r : Region) (c : PendingCue) (lateness : Nat) : Play := match c.kind with
  | .prepare => p.onPrepare t r c
  | .split => p.onSplit t r c lateness
  | .rejoin => p.onEnd t r c .rejoinCue
  | .cancel => p.onEnd t r c .cancel

/-! ## Timers -/

/-- R16, R19: the arm deadline is reached in PRIMED. -/
def Play.armDue (p : Play) (t : Now) (r : Region) : Bool :=
  (p.region r).state == .primed && match (p.region r).armDeadline with
    | some d => d ≤ t.count
    | none => false

/-- R19: the arm timer's expiry. -/
def Play.armExpire (p : Play) (t : Now) (r : Region) : Play :=
  p.withBreak r fun b => (p.disarm r .network).raise t 0 (.armExpired r b.breakId b.slot)

/-- R22: the break deadline is reached while the timer runs. DESIGN CHOICE (log 46): a late SPLIT may set a deadline that its dispatch
sample has passed already; the timer then expires at once. -/
def Play.breakDue (p : Play) (t : Now) (r : Region) : Bool := match (p.region r).brk with
  | some b => b.timerRuns && match b.deadline with
    | some d => d ≤ t.count
    | none => false
  | none => false

/-! ## Item end, mixes and the pool (R64 to R70) -/

/-- R64: the staged successor of the lead voice takes over: the filler, an entry held for its gate, or the next entry. Whether
an entry waits for a gate is read from the mask as it now stands (log 24). DESIGN CHOICE (log 54): a linked MIX entry staged as held,
whose region has left the mask since, plays as a CUT at the item end and carries no flag. DESIGN CHOICE (log 79): a linked entry staged as
DEGRADED_MIX, whose region has joined the mask since, is held at its gate. -/
def Play.handOver (p : Play) (t : Now) (r : Region) (v : VoiceNo) (u : Successor) (b : OpenBreak) : Play :=
  match u.prime.run with
  | none => (p.modVoice v fun x => x.takeSuccessor u .playing (some t.count)).setState r .fill
  | some j => match (findEntry b.run j).bind (p.linkedTo r) with
    | some g => (p.modVoice v fun x => x.takeSuccessor u .ready none).arrive r g
    | none =>
      (((p.modVoice v fun x => x.takeSuccessor u .playing (some t.count)).setPrep r .none).startEntry t r j).prepare t r

/-- R64: the item end of the lead voice with no successor: the voice is released; a run list that is exhausted begins the
early-network lead-out (R29), and one that is not waits for its late incoming voice (R70). DESIGN CHOICE: a home voice that has ended
stays the lead voice of an early-network lead-out and of RETURNED (log 48), and there is no lead voice in the gap before a late incoming
entry (log 52). -/
def Play.leadEnds (p : Play) (t : Now) (r : Region) (v : VoiceNo) (b : OpenBreak) : Play :=
  let q := p.releaseVoice v
  if (p.region r).state == .leadout then q.completeLeadOut t r
  else if exhausted b.run then q.earlyLeadOut t r
  else q.setLead r none

/-- R66, R67: the item end of an outgoing voice: released, or primed at once with the incoming entry that waits for it. -/
def Play.outgoingEnds (p : Play) (t : Now) (r : Region) (v : VoiceNo) (b : OpenBreak) : Play :=
  if b.prep == .awaiting v then
    match nextPending b.run with
    | some e => ((p.modVoice v Voice.release).primeVoice v (p.primeOf e 0)).setPrep r (.incoming v)
    | none => p.releaseVoice v
  else ((p.releaseVoice v).completeLeadOut t r).prepare t r

/-- R64: the item end of a voice of a region: its entry DONE, and what follows. -/
def Play.itemEnd (p : Play) (t : Now) (r : Region) (v : VoiceNo) : Play :=
  let q := p.closeVoiceEntry t r v .done
  q.withBreak r fun b =>
    if (q.region r).lead == some v then
      match (q.voice v).successor with
      | some u => q.handOver t r v u b
      | none => q.leadEnds t r v b
    else q.outgoingEnds t r v b

/-- R32, R71: the completion of a release ramp: the entry TRIMMED, the voice released. -/
def Play.releaseEnd (p : Play) (t : Now) (r : Region) (v : VoiceNo) : Play :=
  ((p.closeVoiceEntry t r v .trimmed).releaseVoice v).completeLeadOut t r

/-- A voice of a region is at its item end, or at the end of its release ramp. -/
def Voice.finishDue (v : Voice) : Bool := v.itemEndDue || v.releaseDue

/-- The end of a voice taken, whichever it is. The item end comes before a ramp completion of the same sample (log 22). -/
def Play.finishVoice (p : Play) (t : Now) (r : Region) (v : VoiceNo) : Play :=
  if (p.voice v).itemEndDue then p.itemEnd t r v else if (p.voice v).releaseDue then p.releaseEnd t r v else p

/-- R149: the voices of a region that stand before a voice in run order and end at this sample are taken first, so that the
records of one sample stand in run order. -/
def Play.finishBefore (p : Play) (t : Now) (r : Region) (v : VoiceNo) : Play :=
  ((p.voicesInRunOrder r).takeWhile fun u => u != v).foldl (fun q u => q.finishVoice t r u) p

/-- R86: the completion of a bed ramp: the lead-in's takes LEADIN to LOCAL, a lead-out's may complete it. -/
def Play.bedRampEnd (p : Play) (t : Now) (r : Region) : Play :=
  let q := p.setBed r Fader.finish
  match (q.region r).state with
  | .leadin => q.setState r .localPlay
  | .leadout => q.completeLeadOut t r
  | _ => q

/-- R67: the next entry is a MIX with overlap above 0 that waits for no gate. -/
def Play.mixes (p : Play) (r : Region) (e : RunEntry) : Bool := !p.stages r e

/-- The region is moving from entry to entry with its lead voice PLAYING: the lead voice and the next kept entry. -/
def Play.moving (p : Play) (r : Region) : Option (OpenBreak × VoiceNo × RunEntry) :=
  match (p.region r).brk, (p.region r).lead with
  | some b, some lead =>
    if ((p.region r).state == .leadin || (p.region r).state == .localPlay) && (p.voice lead).state == .playing then
      (nextPending b.run).map fun e => (b, lead, e)
    else none
  | _, _ => none

/-- R67: the request point is reached and nothing has been done towards the next entry. -/
def Play.requestDue (p : Play) (r : Region) : Bool := match p.moving r with
  | some (b, lead, e) => b.prep == .none && p.mixes r e && (p.voice lead).remaining ≤ e.overlap + 9600
  | none => false

/-- R67: the decision point as a station sample count: 4,800 samples before the mix start, and the request sample where the mix start
lies at or before it. One that lies before the request sample is reached at once (log 37). -/
def decisionPoint (t : Now) (remaining overlap : Nat) : Nat :=
  if remaining ≤ overlap then t.count else t.count + remaining - (overlap + 4800)

/-- R66, R67: the other voice, which the region holds already: it primes it, or waits for its item end. DESIGN CHOICE (log 51): the home
voice, as a pool voice (R68), is given level 0 at this priming. -/
def Play.useOther (p : Play) (r : Region) (v : VoiceNo) (e : RunEntry) : Play :=
  if (p.voice v).state == .playing then p.setPrep r (.awaiting v)
  else (p.primeVoice v (p.primeOf e 0)).setPrep r (.incoming v)

/-- R66, R67: what a region does at its request point. -/
def Play.request (p : Play) (t : Now) (r : Region) : Play := match p.moving r with
  | none => p
  | some (_, lead, e) =>
    if lead = homeVoice r then
      match (p.region r).pool with
      | some v => p.useOther r v e
      | none =>
        { p with waiters := insertWaiter ⟨r, e.index, decisionPoint t (p.voice lead).remaining e.overlap⟩ p.waiters }.setPrep r
          .waiting
    else p.useOther r (homeVoice r) e

/-- R68: one grant: the lowest free pool voice to the head of the waiting list, primed at once with R at 0. -/
def Play.grantOne (p : Play) : Play := match p.freePool, p.waiters with
  | v :: _, w :: rest =>
    let q := ({ p with waiters := rest }.modVoice v fun x => { x with holder := some w.region }).modRegion w.region fun x =>
      { x with pool := some v }
    q.withBreak w.region fun b => match findEntry b.run w.run with
      | some e => (q.primeVoice v (q.primeOf e 0)).setPrep w.region (.incoming v)
      | none => q
  | _, _ => p

/-- R68: the grants of one sample. -/
def Play.grants (p : Play) : Play := (List.range 8).foldl (fun q _ => q.grantOne) p

/-- R68: the requests that are due enter the list in its order. -/
def Play.requests (p : Play) (t : Now) : Play := allRegions.foldl (fun q r => if q.requestDue r then q.request t r else q) p

/-- R68: the arbiter settles the sample: the requests that are due enter the list in its order, and the free voices go to the
head of it. -/
def Play.poolRound (p : Play) (t : Now) : Play := (p.requests t).grants

/-- R69: a waiting entry's decision point is reached. -/
def Play.decisionDue (p : Play) (t : Now) (r : Region) : Bool := p.waiters.any fun w => w.region == r && w.decision ≤ t.count

/-- R68: whether the voices free now reach a region's place in the list. -/
def Play.wouldBeGranted (p : Play) (r : Region) : Bool :=
  (p.waiters.takeWhile fun w => w.region != r).length < p.freePool.length

/-- R69: the waiting entry is withdrawn and staged on the lead voice as a CUT, with DEGRADED_MIX. -/
def Play.degrade (p : Play) (r : Region) : Play := match p.moving r with
  | none => p.withdraw r
  | some (_, lead, e) =>
    (((p.withdraw r).modVoice lead fun x => x.stage ⟨p.primeOf e e.level, false⟩).flagEntry r e.index fun f =>
      { f with degradedMix := true }).setPrep r .staged

/-- R69: the decision point taken. Where the return of a voice was taken first, the entry is granted even now (R68): the voices that are
free reach it behind the requests due at this sample, and it waits for the settling of the sample, which makes the grants in the order of
the list (log 23). -/
def Play.decideWaiting (p : Play) (t : Now) (r : Region) : Play := if (p.requests t).wouldBeGranted r then p else p.degrade r

/-- The voice that is primed, or is to be primed, for the incoming entry. -/
def OpenBreak.incoming (b : OpenBreak) : Option VoiceNo := match b.prep with
  | .incoming v => some v
  | .awaiting v => some v
  | _ => none

/-- R66: the mix start is reached. DESIGN CHOICE (log 64): the member mask is not read again once the request point has passed, so an
entry whose region has joined the mask since is still mixed. -/
def Play.mixDue (p : Play) (r : Region) : Bool := match p.moving r with
  | some (b, lead, e) => b.incoming.isSome && !b.mixLate && (p.voice lead).remaining ≤ e.overlap
  | none => false

/-- R66, R70: the crossfade begins over `ms`: the incoming voice ramps in from 0 and becomes the lead voice, the outgoing voice
ramps out and plays on. -/
def Play.crossfade (p : Play) (t : Now) (r : Region) (out incoming : VoiceNo) (e : RunEntry) (ms : Nat) : Play :=
  ((((((p.noteStart t r (some out)).modVoice out fun x =>
    { x with fader := x.fader.begin 0 ms, releaseAtRampEnd := false }).modVoice incoming fun x =>
    { x with fader := (Fader.still 0).begin e.level ms, releaseAtRampEnd := false }.start t.count 0).setLead r (some incoming)).modBreak r
      fun b => { b with prep := .none, mixLate := false }).startEntry t r e.index).prepare t r

/-- R66, R70: the mix start taken: the crossfade where the incoming voice is READY; otherwise the mix has become late. A member mask
set since the request point is not read (log 64). -/
def Play.mixStart (p : Play) (t : Now) (r : Region) : Play := match p.moving r with
  | some (b, lead, e) => match b.incoming with
    | some v =>
      if (p.voice v).state == .ready then p.crossfade t r lead v e (e.overlap / 48)
      else p.modBreak r fun b => { b with mixLate := true }
    | none => p
  | none => p

/-- R70: a late crossfade is due: the mix start has passed, and the incoming voice is READY at sample 0. -/
def Play.lateMixDue (p : Play) (t : Now) (r : Region) : Bool :=
  t.opensFrame && ((p.region r).state == .leadin || (p.region r).state == .localPlay) && match (p.region r).brk with
    | some b => (b.mixLate || (p.region r).lead.isNone) && match b.incoming with
      | some v => (p.voice v).state == .ready && (nextPending b.run).isSome
      | none => false
    | none => false

/-- R70: the start of a late entry after a gap, without a crossfade. -/
def Play.plainStart (p : Play) (t : Now) (r : Region) (v : VoiceNo) (e : RunEntry) : Play :=
  (((((p.noteStart t r none).modVoice v fun x => { x with fader := .still e.level }.start t.count 0).setLead r (some v)).modBreak r
    fun b => { b with prep := .none, mixLate := false }).startEntry t r e.index).prepare t r

/-- R70: the late start. The overlap is shortened to the samples the outgoing entry has left; with none, the entry starts at its
own level. DESIGN CHOICE (log 80): LATE_MIX is set here, not at the mix start that was missed. -/
def Play.lateMixStart (p : Play) (t : Now) (r : Region) : Play :=
  p.withBreak r fun b => match b.incoming, nextPending b.run with
    | some v, some e =>
      let left := match (p.region r).lead with
        | some o => if (p.voice o).state == .playing then (p.voice o).remaining else 0
        | none => 0
      let q := p.modBreak r fun b =>
        { b with run := modEntry b.run e.index fun e => { e with overlap := left, flags := { e.flags with lateMix := true } } }
      match (p.region r).lead with
      | some o =>
        if 0 < left then q.crossfade t r o v e (left / 48) else q.plainStart t r v e
      | none => q.plainStart t r v e
    | _, _ => p

end Sys2Proof.Machine
end

