-- ==== Sys2Proof/Machine/Cues.lean ====
section
/-! DEFINITION. The Cue Unit (spec/01): intake, the pending cue table, dispatch, the executed-cue history and the re-test at a
relock. -/

namespace Sys2Proof.Machine

/-- The kind of a kind code. -/
def cueKindOf : Nat → Option CueKind
  | 1 => some .prepare
  | 2 => some .split
  | 3 => some .rejoin
  | 4 => some .cancel
  | _ => none

/-- The kind code of a kind. -/
def CueKind.code : CueKind → Nat
  | .prepare => 1
  | .split => 2
  | .rejoin => 3
  | .cancel => 4

/-- R1: the nominal length of a well-formed cue, brought into range. -/
def CueKind.clampNominal (k : CueKind) (nominal : Nat) : Nat := match k with
  | .prepare => min 600000 nominal
  | .split => min 600000 nominal
  | .rejoin => 0
  | .cancel => 0

/-- R1: a record read as a cue; none where it is malformed. -/
def CueRecord.cue (c : CueRecord) : Option PendingCue := match cueKindOf c.kind with
  | none => none
  | some k =>
    if c.breakId = 0 ∨ 47 < c.target.sample ∨ c.mask = 0 then none
    else some ⟨k, c.breakId, c.target, c.mask, k.clampNominal c.nominal, 0⟩

/-- A cue of the table as a record, for a notice (R10). -/
def PendingCue.record (c : PendingCue) : CueRecord := ⟨c.kind.code, c.breakId, c.target, c.mask, c.nominal⟩

/-- R3: the distance δ of a target sequence from frame S, modulo 65,536. -/
def cueDistance (target s : Nat) : Nat := (target + 65536 - s % 65536) % 65536

/-- R3: the late band. -/
def lateBand (d : Nat) : Bool := 65533 ≤ d

/-- R3: the stale band. -/
def staleBand (d : Nat) : Bool := 256 ≤ d && d ≤ 65532

/-- R5: the key of a cue relative to frame S. -/
def PendingCue.key (c : PendingCue) (s : Nat) : Int :=
  let d := cueDistance c.target.seq s
  (if lateBand d then (d : Int) - 65536 else (d : Int)) * 48 + c.target.sample

/-- R8: the lateness of a late entry in the assembly of frame A. -/
def PendingCue.lateness (c : PendingCue) (a : Nat) : Nat :=
  if lateBand (cueDistance c.target.seq a) then cueDistance a c.target.seq * 48 - c.target.sample else 0

/-- R4: the same cue: kind, break ID and target. -/
def PendingCue.same (c : PendingCue) (k : CueKind) (breakId : Nat) (target : Position) : Bool :=
  c.kind == k && c.breakId == breakId && c.target == target

/-- R4: a repeat of an entry of the table or the history. -/
def CueUnit.isRepeat (u : CueUnit) (c : PendingCue) : Bool :=
  u.table.any (fun x => x.same c.kind c.breakId c.target) ||
    u.history.any fun x => c.same x.kind x.breakId x.target

/-- R5: insertion after every entry whose key is not greater. -/
def insertCue (s : Nat) (c : PendingCue) : List PendingCue → List PendingCue
  | [] => [c]
  | x :: xs => if c.key s < x.key s then c :: x :: xs else x :: insertCue s c xs

/-- R10: the dropped count after a drop; it stops at 65,535. -/
def CueUnit.countDrop (u : CueUnit) : CueUnit := { u with dropped := min 65535 (u.dropped + 1) }

/-- R10: a cue dropped with its notice. -/
def dropCue (t : Now) (s : Nat) (why : DropReason) (c : CueRecord) (x : CueUnit × Play) : CueUnit × Play :=
  (x.1.countDrop, x.2.raise t 0 (.cueDropped why c s))

/-- R5, R6: a cue that has passed the tests enters the table, displaces the latest entry, or is dropped as FULL. -/
def enterCue (t : Now) (s : Nat) (c : PendingCue) (x : CueUnit × Play) : CueUnit × Play :=
  if x.1.table.length < 8 then ({ x.1 with table := insertCue s c x.1.table }, x.2)
  else match x.1.table.getLast? with
    | none => x
    | some last =>
      if c.key s < last.key s then
        dropCue t s .full last.record ({ x.1 with table := insertCue s c x.1.table.dropLast }, x.2)
      else dropCue t s .full c.record x

/-- R1 to R6: one cue record taken in at the intake of frame S. -/
def takeCue (t : Now) (s : Nat) (x : CueUnit × Play) (rec' : CueRecord) : CueUnit × Play :=
  match rec'.cue with
  | none => dropCue t s .malformed rec' x
  | some c =>
    if staleBand (cueDistance c.target.seq s) then dropCue t s .stale c.record x
    else if x.1.isRepeat c then x
    else enterCue t s c x

/-- R2: the intake of frame S: the records of the intake holding, the first completely before the second. -/
def intake (t : Now) (s : Nat) (x : CueUnit × Play) : CueUnit × Play :=
  let y := x.1.intake.foldl (takeCue t s) x
  ({ y.1 with intake := [] }, y.2)

/-- R11: the re-test of one entry at a relock: the kept ones stay in order, a stale one is dropped. -/
def retestCue (t : Now) (s : Nat) (x : CueUnit × Play) (c : PendingCue) : CueUnit × Play :=
  if staleBand (cueDistance c.target.seq s) then dropCue t s .stale c.record x
  else ({ x.1 with table := x.1.table ++ [c] }, x.2)

/-- R11: the re-test of the pending table against the adopted sequence. DESIGN CHOICE (log 63): the entries are taken in table order, and
so are the notices of the stale ones. -/
def retest (t : Now) (s : Nat) (x : CueUnit × Play) : CueUnit × Play :=
  x.1.table.foldl (retestCue t s) ({ x.1 with table := [] }, x.2)

/-! ## Dispatch (R7 to R9) -/

/-- R7, R8: an entry is due to a region at a sample of frame S. -/
def PendingCue.dueAt (c : PendingCue) (r : Region) (pos : Position) : Bool :=
  inMask c.mask r && !inMask c.dispatched r &&
    (c.target == pos || (lateBand (cueDistance c.target.seq pos.seq) && pos.sample == 0))

/-- R9: an entry enters the history, the oldest of 16 leaving it. -/
def pushHistory (h : List ExecutedCue) (c : PendingCue) : List ExecutedCue :=
  (if h.length < 16 then h else h.drop 1) ++ [⟨c.kind, c.breakId, c.target⟩]

/-- R9: an entry marked as dispatched to a region; dispatched to every region of its mask, it leaves the table. -/
def CueUnit.mark (u : CueUnit) (c : PendingCue) (r : Region) : CueUnit :=
  let d := { c with dispatched := c.dispatched ||| oneRegion r }
  if d.dispatched &&& c.mask = c.mask then
    { u with
      table := u.table.filter fun x => !x.same c.kind c.breakId c.target
      history := pushHistory u.history c }
  else { u with table := u.table.map fun x => if x.same c.kind c.breakId c.target then d else x }

/-- The first entry, in table order, due to a region at the present sample. -/
def State.dueCue (s : State) (r : Region) : Option PendingCue := s.cues.table.find? fun c => c.dueAt r s.now.pos

/-- R7: the dispatch of one entry to one region. -/
def State.dispatch (s : State) (r : Region) (c : PendingCue) : State :=
  { s with cues := s.cues.mark c r, play := s.play.onCue s.now r c (c.lateness s.now.pos.seq) }

/-- R7: all the entries due to a region at one sample, in table order. `fuel` is the size of the table. -/
def State.dispatchAll (r : Region) : Nat → State → State
  | 0, s => s
  | fuel + 1, s => match s.dueCue r with
    | none => s
    | some c => State.dispatchAll r fuel (s.dispatch r c)

/-- R19: an arm expiry is set aside at the sample at which a PREPARE or SPLIT with the armed break ID is dispatched. -/
def State.armSetAside (s : State) (r : Region) : Bool :=
  s.cues.table.any fun c =>
    c.dueAt r s.now.pos && (c.kind == .prepare || c.kind == .split) && c.breakId == s.play.openId r

end Sys2Proof.Machine
end

