-- ==== Sys2Proof/Machine/Array.lean ====
section
/-! DEFINITION. The flash array and who uses it: the Read Scheduler (spec/04), the Store Controller (spec/08), relocation and erase
remaps, the Verify Unit (spec/09) and the start-up scan (spec/07). -/

namespace Sys2Proof.Machine

/-- A notice raised now, with the tag of the request it concerns or 0. -/
def State.raise (s : State) (tag : Nat) (n : Notice) : State := { s with play := s.play.raise s.now tag n }

/-- The directory changed. -/
def State.modDir (s : State) (f : Directory → Directory) : State := { s with play := { s.play with dir := f s.play.dir } }

/-! ## What waits for the array (R73) -/

/-- A read request: who makes it, and the logical page. -/
structure ReadRequest where
  who : Requester
  page : Nat
deriving DecidableEq, Repr

/-- R73: of two voices, whether the first is served before the second, which has the lower number. -/
def Voice.beats (a b : Voice) : Bool := a.pagesAhead < b.pagesAhead

/-- R73: the voice whose request of a class stands first: fewest pages ahead, then the lower number. -/
def Play.firstVoice (p : Play) (cls : Nat) : Option VoiceNo :=
  allVoices.foldl (fun best v =>
    if (p.voice v).requesting && (p.voice v).readClass == cls then
      match best with
      | none => some v
      | some b => if (p.voice v).beats (p.voice b) then some v else best
    else best) none

/-- Whether some voice has a class 1 request that is not in flight. -/
def Play.urgent (p : Play) : Bool := allVoices.any fun v => (p.voice v).requesting && (p.voice v).readClass == 1

/-- Whether some voice has a request that is not in flight. -/
def Play.refilling (p : Play) : Bool := allVoices.any fun v => (p.voice v).requesting

/-- The voice's request, as the scheduler serves it. -/
def Play.voiceRequest (p : Play) (v : VoiceNo) : Option ReadRequest :=
  (p.voice v).pending.map fun q => ⟨.voice v, q.ref.page⟩

/-- The target block of a commit or erase. -/
def StoreOp.block : StoreOp → Nat
  | .commit page _ _ => page / Config.pagesPerBlock
  | .erase block _ => block
  | .boundary .. => 0
  | .floor .. => 0

/-- The page index that a commit programs: the failed index of a relocation (R143). -/
def StoreOp.index : StoreOp → Nat
  | .commit page _ _ => page % Config.pagesPerBlock
  | .erase .. => 0
  | .boundary .. => 0
  | .floor .. => 0

/-- R143: the copy read that a relocation waits for. -/
def State.copyRequest (s : State) : Option ReadRequest := match s.store.current with
  | some c => match c.stage with
    | .relocRead _ i => if c.started then none else some ⟨.relocation, c.op.block * Config.pagesPerBlock + i⟩
    | _ => none
  | none => none

/-- R141: the class 4 request of a Read Page in hand. -/
def State.pageRequest (s : State) : Option ReadRequest :=
  s.play.agent.inHand.map fun j => ⟨.readPage, j.fields.page⟩

/-- R137: the logical page of a verify job's next clip page. -/
def State.verifyRequest (s : State) : Option ReadRequest := match s.verify with
  | some j => match s.play.dir.find j.clip with
    | some e => if j.reading then some ⟨.verify, e.firstBlock * Config.pagesPerBlock + j.next⟩ else none
    | none => none
  | none => none

/-- R114: the scan's request. -/
def State.scanRequest (s : State) : Option ReadRequest :=
  if s.play.dir.state == .scanning && s.play.dir.scan.reading then some ⟨.scan, s.play.dir.scan.next * Config.pagesPerBlock⟩
  else none

/-- R73: the first pending request of a class 1..5. The Verify Unit and the scan never wait together. -/
def State.firstOf (s : State) (cls : Nat) : Option ReadRequest := match cls with
  | 1 => (s.play.firstVoice 1).bind s.play.voiceRequest
  | 2 => (s.play.firstVoice 2).bind s.play.voiceRequest
  | 3 => s.copyRequest
  | 4 => s.pageRequest
  | 5 => match s.verifyRequest with
    | some q => some q
    | none => s.scanRequest
  | _ => none

/-- R73, R120, R128: the highest class of read that may start now; 0 where the array is not free. DESIGN CHOICE (log 57): the array
counts as free before the first step of a relocation or remap too, as it is between two steps. -/
def State.openClass (s : State) : Nat :=
  if s.inFlight.isSome then 0
  else match s.store.current with
    | none => if s.store.queue.isEmpty then 5 else 2
    | some c =>
      if !c.started then 3
      else if c.phase == .suspended then 1
      else 0

/-- R73: the request that the Read Scheduler serves now, if one may start. -/
def State.nextRead (s : State) : Option ReadRequest :=
  ([1, 2, 3, 4, 5].filter fun n => n ≤ s.openClass).findSome? s.firstOf

/-! ## The current store operation (R120, R127 to R129) -/

/-- The current operation changed. -/
def State.modCurrent (s : State) (f : Current → Current) : State :=
  { s with store := { s.store with current := s.store.current.map f } }

/-- The current operation goes to a step that has not started. DESIGN CHOICE (log 68): its phase is RUNNING and its suspension count 0
from then on. -/
def State.goStage (s : State) (st : Stage) : State :=
  s.modCurrent fun c => { c with stage := st, started := false, phase := .running, suspensions := 0 }

/-- A step that is an erase, and may be suspended. -/
def Stage.erases : Stage → Bool
  | .erase => true
  | .relocErase _ => true
  | .remapErase _ => true
  | _ => false

/-- A step that is a read, which the Read Scheduler serves. -/
def Stage.reads : Stage → Bool
  | .relocRead .. => true
  | _ => false

/-- A step that is a settings write (R130, R143 to R145). -/
def Stage.writesSettings : Stage → Bool
  | .settings => true
  | .relocInstall _ => true
  | .relocWorn _ => true
  | .remapInstall _ => true
  | .remapWorn _ => true
  | _ => false

/-- A step that is a page program. -/
def Stage.programs : Stage → Bool
  | .program => true
  | .relocProgram .. => true
  | .relocStaged _ => true
  | _ => false

/-- R120: the next step of a relocation or remap starts when the array is free and no class 1 or class 2 read is pending; its first
step does the same (log 57). -/
def State.startStep (s : State) : State := match s.store.current with
  | some c =>
    if !c.started && !c.stage.reads && s.inFlight.isNone && !s.play.refilling then s.modCurrent fun c => { c with started := true }
    else s
  | none => s

/-- R128: a pending class 1 request suspends a running erase whose count is below 8; a suspended one resumes when no read is in
flight and no class 1 request is pending. -/
def State.suspendOrResume (s : State) : State := match s.store.current with
  | some c =>
    if c.started && c.stage.erases then match c.phase with
      | .running =>
        if s.play.urgent && c.suspensions < 8 then
          s.modCurrent fun c => { c with phase := .suspending, suspensions := c.suspensions + 1 }
        else s
      | .suspending => s
      | .suspended => if s.inFlight.isNone && !s.play.urgent then s.modCurrent fun c => { c with phase := .running } else s
    else s
  | none => s

/-- What the array does of itself when the requests have changed. -/
def State.settleArray (s : State) : State := s.startStep.suspendOrResume

/-! ## Ends of store operations (R106, R113, R124, R126, R133) -/

/-- R133: what a STORE_DONE concerns. -/
def StoreOp.target : StoreOp → StoreTarget
  | .commit page _ _ => .commit page
  | .erase block _ => .erase block
  | .boundary .. => .boundary
  | .floor .. => .floor

/-- The tag of the request. -/
def StoreOp.tag : StoreOp → Nat
  | .commit _ t _ => t
  | .erase _ t => t
  | .boundary _ t => t
  | .floor _ _ t => t

/-- The header that the staging buffer carries. -/
def Store.stagedHeader (st : Store) : HeaderRead := (programmed st.staging).header

/-- R106: a head commit that ends DONE or REMAPPED registers its clip. -/
def State.registerHead (s : State) (op : StoreOp) : State := match op with
  | .commit _ _ (some _) => match s.store.stagedHeader with
    | .header clip h => s.modDir fun d => d.register clip op.block h
    | _ => s
  | _ => s

/-- R113: the RETIRING entry whose first block was erased goes to EMPTY. -/
def Directory.emptyRetiring (d : Directory) (block : Nat) : Directory :=
  { d with entries := d.entries.filter fun e => !(e.state == .retiring && e.firstBlock == block) }

/-- R124: the staging buffer returns to all 0xFF and is no longer held. -/
def Store.release (st : Store) : Store := { st with staging := [], holds := none }

/-- What the end of an operation leaves besides its notice, by its kind. -/
def State.closeOp (s : State) (op : StoreOp) (good : Bool) : State := match op with
  | .commit .. =>
    let t := if good then s.registerHead op else s
    { t with store := t.store.release }
  | .erase block _ => s.modDir fun d => d.emptyRetiring block
  | .boundary .. => s
  | .floor .. => s

/-- Whether a result leaves the page programmed, so that a head commit registers (R106). -/
def StoreResult.good : StoreResult → Bool
  | .done => true
  | .remapped => true
  | .pageNotErased => false
  | .worn => false

/-- R133: the end of a store operation: it stops being current, and one STORE_DONE notice is raised. -/
def State.endStore (s : State) (op : StoreOp) (r : StoreResult) : State :=
  let t := s.closeOp op r.good
  ({ t with store := { t.store with current := none } }).raise op.tag (.storeDone op.target r t.settings.boundary t.settings.floor)

/-- R143, R145: the end with result REMAPPED, with its REMAP_DONE. -/
def State.endRemapped (s : State) (op : StoreOp) (m : Spares) (cause : RemapCause) : State :=
  (s.endStore op .remapped).raise 0
    (.remapDone op.block m.spare cause m.copied m.lost (Config.spareBlocks - s.settings.sparesUsed))

/-! ## Start of the head of the queue (R120, R124, R127) -/

/-- An operation becomes current and starts its first step. -/
def State.beginOp (s : State) (op : StoreOp) (st : Stage) : State :=
  { s with store := { s.store with current := some ⟨op, st, true, .running, 0⟩ } }

/-- R124, R127: the head operation at its start: WORN on a block worn meanwhile, PAGE_NOT_ERASED on a set tag, or its first step. -/
def State.startOp (s : State) (op : StoreOp) : State := match op with
  | .commit page _ _ =>
    if s.settings.worn.contains op.block then s.endStore op .worn
    else if (readFlash s.flash (s.settings.physicalPage page)).tag then s.endStore op .pageNotErased
    else s.beginOp op .program
  | .erase .. => if s.settings.worn.contains op.block then s.endStore op .worn else s.beginOp op .erase
  | .boundary .. => s.beginOp op .settings
  | .floor .. => s.beginOp op .settings

/-- R120: the head of the queue may start: the array free, no operation current, no class 1 or class 2 read pending. -/
def State.storeDue (s : State) : Bool :=
  s.inFlight.isNone && s.store.current.isNone && !s.play.refilling && !s.store.queue.isEmpty

/-- The head of the queue becomes current. -/
def State.startHead (s : State) : State := match s.store.queue with
  | op :: rest => (({ s with store := { s.store with queue := rest } }).startOp op)
  | [] => s

/-! ## Relocation and erase remap (R143 to R145) -/

/-- The first physical page of a spare block: spares follow the logical blocks. -/
def sparePage (spare index : Nat) : Nat := (Config.logicalBlocks + spare) * Config.pagesPerBlock + index

/-- R144: a relocation starts, or starts again, with the next unused spare; without one it ends in the worn set. DESIGN CHOICE (log 74):
the pages copied and lost are counted from 0 again at each start. -/
def State.beginReloc (s : State) (spent : List Nat) : State := match s.settings.lowestUnused spent with
  | some n => s.goStage (.relocErase ⟨n, spent, 0, 0⟩)
  | none => s.goStage (.relocWorn spent)

/-- R145: an erase remap takes the next unused spare; without one it ends in the worn set. -/
def State.beginRemap (s : State) : State := match s.settings.lowestUnused [] with
  | some n => s.goStage (.remapInstall ⟨n, [], 0, 0⟩)
  | none => s.goStage (.remapWorn [])

/-- R143 step 2: the copy of the page at an index, or step 3 behind the last. -/
def State.copyFrom (s : State) (op : StoreOp) (m : Spares) (i : Nat) : State :=
  if i < op.index then s.goStage (.relocRead m i) else s.goStage (.relocStaged m)

/-- R143: the programmed pages above the failed index are lost. -/
def State.lostAbove (s : State) (op : StoreOp) : Nat :=
  ((List.range Config.pagesPerBlock).filter fun i =>
    op.index < i && (readFlash s.flash (s.settings.physicalPage (op.block * Config.pagesPerBlock + i))).tag).length

/-- A physical block left with indeterminate contents. -/
def State.loosen (s : State) (physical : Nat) : State :=
  { s with flash := looseBlock s.flash physical s.occasion, occasion := s.occasion + Config.pagesPerBlock }

/-- The physical block of a spare: spares follow the logical blocks. -/
def spareBlock (spare : Nat) : Nat := Config.logicalBlocks + spare

/-- The physical block that a step erases. -/
def Settings.erasing (t : Settings) (c : Current) : Option Nat := match c.stage with
  | .erase => some (t.physical c.op.block)
  | .relocErase m => some (spareBlock m.spare)
  | .remapErase m => some (spareBlock m.spare)
  | _ => none

/-- The block that a step erases left with indeterminate contents. -/
def State.loosenErasing (s : State) (c : Current) : State := match s.settings.erasing c with
  | some block => s.loosen block
  | none => s

/-- A spare marked spent, in ascending order. -/
def addSpent (spent : List Nat) (n : Nat) : List Nat := insertByKey id n spent

/-- R143, R145: the mapping of a block to a spare written, the spare it replaces spent, and those spent before it recorded. -/
def Settings.install (t : Settings) (block : Nat) (m : Spares) : Settings :=
  let former := (t.remap.find? fun e => e.1 == block).map Prod.snd
  { t with
    remap := insertByKey Prod.fst (block, m.spare) t.remap
    spent := (former.toList ++ m.spent).foldl addSpent t.spent }

/-- R144: a block added to the worn set, which holds at most 64. -/
def Settings.wear (t : Settings) (block : Nat) : Settings :=
  if t.worn.contains block || Config.wornMax ≤ t.worn.length then t else { t with worn := insertByKey id block t.worn }

/-- R144: spares recorded as spent. -/
def Settings.spend (t : Settings) (spent : List Nat) : Settings := { t with spent := spent.foldl addSpent t.spent }

/-- R145: the failed spare of a remap leaves its entry when it is spent (log 19). -/
def Settings.dropFailed (t : Settings) (spent : List Nat) : Settings :=
  { t with remap := t.remap.filter fun e => !spent.contains e.2 }

/-! ## Ends of the steps -/

/-- A page written into a physical page. -/
def State.writePage (s : State) (page : Nat) (i : PageImage) : State := { s with flash := writeFlash s.flash page i }

/-- R124, R143, R144: a page program of the current operation reports pass or fail. -/
def State.programEnds (s : State) (c : Current) (pass : Bool) : State := match c.stage with
  | .program => match c.op with
    | .commit page _ _ =>
      if pass then (s.writePage (s.settings.physicalPage page) (programmed s.store.staging)).endStore c.op .done
      else s.beginReloc []
    | _ => s
  | .relocProgram m i image =>
    if pass then (s.writePage (sparePage m.spare i) image).copyFrom c.op { m with copied := m.copied + 1 } (i + 1)
    else s.beginReloc (addSpent m.spent m.spare)
  | .relocStaged m =>
    if pass then
      (s.writePage (sparePage m.spare c.op.index) (programmed s.store.staging)).goStage
        (.relocInstall { m with lost := m.lost + s.lostAbove c.op })
    else s.beginReloc (addSpent m.spent m.spare)
  | _ => s

/-- R126, R143 to R145: a block erase of the current operation reports pass or fail. -/
def State.eraseEnds (s : State) (c : Current) (pass : Bool) : State := match c.stage with
  | .erase =>
    let phys := s.settings.physical c.op.block
    if pass then ({ s with flash := eraseFlash s.flash phys }).endStore c.op .done else (s.loosen phys).beginRemap
  | .relocErase m =>
    if pass then ({ s with flash := eraseFlash s.flash (Config.logicalBlocks + m.spare) }).copyFrom c.op m 0
    else (s.loosen (Config.logicalBlocks + m.spare)).beginReloc (addSpent m.spent m.spare)
  | .remapErase m =>
    if pass then ({ s with flash := eraseFlash s.flash (Config.logicalBlocks + m.spare) }).endRemapped c.op m .erase
    else
      let t := s.loosen (Config.logicalBlocks + m.spare)
      match t.settings.lowestUnused [] with
      | some n => t.goStage (.remapInstall ⟨n, [], 0, 0⟩)
      | none => t.goStage (.remapWorn [m.spare])
  | _ => s

/-- The settings that a settings write leaves (R130, R142 to R145). -/
def Settings.written (t : Settings) (c : Current) : Settings := match c.stage with
  | .settings => match c.op with
    | .boundary v _ => { t with boundary := v }
    | .floor f b _ => { t with boundary := b, floor := f }
    | _ => t
  | .relocInstall m => t.install c.op.block m
  | .remapInstall m => t.install c.op.block m
  | .relocWorn spent => (t.wear c.op.block).spend spent
  | .remapWorn spent => ((t.dropFailed spent).wear c.op.block).spend spent
  | _ => t

/-- R130, R143 to R145: what follows the settings write of the current operation. -/
def State.afterWrite (s : State) (c : Current) : State := match c.stage with
  | .settings => s.endStore c.op .done
  | .relocInstall m => s.endRemapped c.op m .program
  | .remapInstall m => s.goStage (.remapErase m)
  | .relocWorn _ => s.endStore c.op .worn
  | .remapWorn _ => s.endStore c.op .worn
  | _ => s

/-- A settings write completes: the Settings Area holds the new values, and the operation goes on or ends. -/
def State.writeEnds (s : State) (c : Current) : State := ({ s with settings := s.settings.written c }).afterWrite c

/-! ## The outcome of a page read (R135) -/

/-- The flipped bits of a 512-byte span. -/
def spanFlips (a : Attempt) (span : Nat) : Nat := (a.eraseDups.filter fun n => n / 4096 == span).length

/-- R135: the outcome of one attempt. -/
def attemptOutcome (a : Attempt) : ReadOutcome :=
  let worst := ((List.range 8).map (spanFlips a)).foldl max 0
  if 8 < worst then .uncorrectable else if 0 < worst then .corrected worst else .clean

/-- The end of a read: its outcome, the attempts made, and the last attempt. -/
structure ReadEnd where
  outcome : ReadOutcome
  attempts : Nat
  last : Attempt
deriving DecidableEq, Repr

/-- R135: up to three attempts, or a single one. -/
def endRead (single : Bool) (a b c : Attempt) : ReadEnd :=
  if attemptOutcome a != .uncorrectable || single then ⟨attemptOutcome a, 1, a⟩
  else if attemptOutcome b != .uncorrectable then ⟨attemptOutcome b, 2, b⟩
  else ⟨attemptOutcome c, 3, c⟩

/-- R135: a failed page. -/
def ReadEnd.failed (e : ReadEnd) : Bool := e.outcome == .uncorrectable

/-- R136: a correction count of 6 or more. -/
def ReadEnd.weak (e : ReadEnd) : Bool := match e.outcome with
  | .corrected n => 6 ≤ n
  | _ => false

/-- A byte with the bits of an attempt flipped. -/
def flipByte (a : Attempt) (off : Nat) (b : Byte) : Byte :=
  (a.eraseDups.filter fun n => n / 8 == off).foldl (fun acc n => acc ^^^ BitVec.ofNat 8 (2 ^ (n % 8))) b

/-- R135: the bytes that a read carries: the corrected ones, or those of the last attempt, uncorrected. -/
def ReadEnd.bytes (e : ReadEnd) (p : PageImage) (off n : Nat) : List Byte :=
  (List.range n).map fun i => if e.failed then flipByte e.last (off + i) (p.byte (off + i)) else p.byte (off + i)

/-! ## Deliveries (R74, R115, R137, R141, R143) -/

/-- R60, R71: a RELEASING voice whose read has been delivered: it takes the priming that waits on it, or goes to IDLE. DESIGN CHOICE
(log 56): a clip that has gone to RETIRING while its priming waited is taken all the same. -/
def Voice.afterRead (x : Voice) : Voice := match x.waiting with
  | some u => ({ x with state := .idle, pending := none, waiting := none } : Voice).take u
  | none => { x with state := .idle, pending := none }

/-- The clip to which a page of a voice belongs. -/
def Voice.clipOf (x : Voice) (o : Owner) : Option Nat := match o with
  | .current => x.clip
  | .successor => x.successor.map fun u => u.prime.clip

/-- R60, R62: a page joins the end of the ring. -/
def Voice.join (x : Voice) (pg : RingPage) : Voice := ({ x with ring := x.ring ++ [pg] }).completePriming.refill

/-- R74: the page read for a voice joins its ring where it is still its next page, and is discarded otherwise. -/
def Play.deliverVoice (p : Play) (v : VoiceNo) (image : PageImage) (e : ReadEnd) : Play :=
  let x := p.voice v
  match x.pending with
  | none => p
  | some q =>
    if x.state == .releasing then (p.setVoice v x.afterRead).returnPool v
    else
      let y := { x with pending := none }
      if y.wanted = some q.ref then
        let j := p.setVoice v (y.join ⟨q.ref, image, e.failed⟩)
        if e.weak then match x.clipOf q.ref.owner with
          | some clip => { j with dir := j.dir.reportWeak clip }
          | none => j
        else j
      else p.setVoice v y.refill

/-- R143, R144: a copy read is delivered. -/
def State.deliverCopy (s : State) (image : PageImage) (e : ReadEnd) : State := match s.store.current with
  | some c => match c.stage with
    | .relocRead m i =>
      if e.failed then s.copyFrom c.op { m with lost := m.lost + 1 } (i + 1)
      else if image.tag then s.goStage (.relocProgram m i image)
      else s.copyFrom c.op m (i + 1)
    | _ => s
  | none => s

/-- R141: the Read Page reply is placed, or formed and discarded for a broadcast. -/
def State.deliverPage (s : State) (image : PageImage) (e : ReadEnd) (block : Nat) : State := match s.play.agent.inHand with
  | some j =>
    let body := Body.page (e.bytes image j.fields.offset j.fields.count) e.outcome e.attempts image.tag block
    let a := { s.play.agent with inHand := none }
    let b := if j.broadcast then a else a.reply s.link.address j.tag 0x59 .ok body s.link.count
    { s with play := { s.play with agent := b } }
  | none => s

/-- R137: whether the head page holds a well-formed header whose fields equal the entry's. -/
def DirEntry.headMatches (e : DirEntry) (image : PageImage) : Bool := match image.header with
  | .header clip h => clip == e.clip && h == e.header && extentFits e.firstBlock h.extent
  | _ => false

/-- R138: the bytes of an audio page that the checksum covers. -/
def ClipHeader.coveredBytes (h : ClipHeader) (i : Nat) : Nat :=
  min Config.pageBytes (h.length * h.format.sampleBytes - (i - 1) * Config.pageBytes)

/-- R137, R138: a verify job after the delivery of its next page. -/
def VerifyJob.after (j : VerifyJob) (e : DirEntry) (image : PageImage) (r : ReadEnd) : VerifyJob :=
  let good := !r.failed && (j.next != 0 || e.headMatches image)
  let sum := if good && j.next != 0 then
    (j.sum + wordSum (image.bytes 0 (e.header.coveredBytes j.next))) % 2 ^ 32 else j.sum
  { j with
    next := j.next + 1
    verified := if good then j.verified + 1 else j.verified
    notVerified := if good then j.notVerified else j.notVerified + 1
    lastGood := if good then some j.next else j.lastGood
    sum := sum }

/-- R108, R138: the verdict. -/
def Directory.verdict (d : Directory) (clip : Nat) (good : Bool) (res : VerifyResult) : Directory :=
  d.modify clip fun e =>
    { e with
      state := if good then .ready else .bad, faults := if good then 0 else e.faults, lastVerify := some res }

/-- R138: the end of a verify. -/
def State.endVerify (s : State) (j : VerifyJob) (e : DirEntry) : State :=
  let res : VerifyResult := ⟨j.verified, j.notVerified, j.lastGood, j.sum⟩
  let good := j.notVerified == 0 && j.sum == e.header.audioSum
  (({ s with verify := none }).modDir fun d => d.verdict j.clip good res).raise (j.tag.getD 0)
    (.verifyDone j.clip good res e.header.audioSum)

/-- R136, R137: a page read for the Verify Unit is delivered. -/
def State.deliverVerify (s : State) (image : PageImage) (r : ReadEnd) : State := match s.verify with
  | some j => match s.play.dir.find j.clip with
    | some e =>
      let t := if r.weak then s.modDir fun d => d.reportWeak j.clip else s
      let k := j.after e image r
      if j.next = e.header.audioPages then t.endVerify k e else { t with verify := some k }
    | none => { s with verify := none }
  | none => s

/-- R114: the first block from `n` on that is not worn. `fuel` is the size of the worn set. -/
def skipWorn (worn : List Nat) : Nat → Nat → Nat
  | 0, n => n
  | fuel + 1, n => if worn.contains n then skipWorn worn fuel (n + 1) else n

/-- R114, R116: the scan goes on to a block, or ends. -/
def State.scanOn (s : State) (block : Nat) : State :=
  let n := skipWorn s.settings.worn s.settings.worn.length block
  if n < Config.logicalBlocks then s.modDir fun d => { d with scan := { d.scan with next := n, reading := true } }
  else
    let c := s.play.dir.scan
    (s.modDir fun d => { d with state := .complete, scan := { d.scan with next := n, reading := false } }).raise 0
      (.scanDone c.registered c.duplicates c.unreadable)

/-- R115: a well-formed head page of the scan. -/
def State.scanHead (s : State) (b clip : Nat) (h : ClipHeader) : State := match s.play.dir.find clip with
  | some e =>
    ((s.modDir fun d => { d with scan := { d.scan with duplicates := d.scan.duplicates + 1 } }).raise 0
      (.duplicateClip clip e.firstBlock b)).scanOn (b + h.extent)
  | none =>
    (s.modDir fun d =>
      let r := d.register clip b h
      { r with scan := { r.scan with registered := r.scan.registered + 1 } }).scanOn (b + h.extent)

/-- R115: the delivery of a head page to the scan. -/
def State.deliverScan (s : State) (image : PageImage) (e : ReadEnd) : State :=
  let b := s.play.dir.scan.next
  if e.failed then
    (s.modDir fun d => { d with scan := { d.scan with unreadable := d.scan.unreadable + 1 } }).scanOn (b + 1)
  else match image.header with
    | .header clip h => if extentFits b h.extent then s.scanHead b clip h else s.scanOn (b + 1)
    | .noMagic => s.scanOn (b + 1)
    | .malformed => s.scanOn (b + 1)

/-- Whether the read in flight makes one attempt only (R141). -/
def State.singleAttempt (s : State) (f : InFlight) : Bool := match f.who, s.play.agent.inHand with
  | .readPage, some j => j.fields.single
  | _, _ => false

/-- R74: the read in flight is delivered to its requester. A block whose erase is SUSPENDED reads as indeterminate (log 10). -/
def State.deliver (s : State) (f : InFlight) (a b c : Attempt) : State :=
  let e := endRead (s.singleAttempt f) a b c
  let image := readFlash s.flash (f.block * Config.pagesPerBlock + f.page % Config.pagesPerBlock)
  let t := { s with inFlight := none }
  match f.who with
  | .voice v => { t with play := t.play.deliverVoice v image e }
  | .relocation => t.deliverCopy image e
  | .readPage => t.deliverPage image e f.block
  | .verify => t.deliverVerify image e
  | .cancelledVerify => t
  | .scan => t.deliverScan image e
  | .discarded => t

/-- R73: a request goes to the array. -/
def State.launch (s : State) (q : ReadRequest) : State :=
  let t := { s with inFlight := some ⟨q.who, q.page, s.settings.physical (q.page / Config.pagesPerBlock)⟩ }
  match q.who with
  | .voice v =>
    { t with play := t.play.modVoice v fun x => { x with pending := x.pending.map fun r => { r with inFlight := true } } }
  | .relocation => t.modCurrent fun c => { c with started := true }
  | .readPage => t
  | .verify => t
  | .cancelledVerify => t
  | .scan => t
  | .discarded => t

/-! ## The Verify Unit's queue (R107, R137, R139) -/

/-- R107, R139: the Verify Unit may take a clip. -/
def State.takeDue (s : State) : Bool :=
  s.verify.isNone && s.play.dir.state == .complete && !s.play.dir.queue.isEmpty &&
    (match s.inFlight with | some f => f.who != .cancelledVerify | none => true)

/-- R107, R137: the clip at the head of the verify queue is taken. -/
def State.verifyTake (s : State) : State := match s.play.dir.queue with
  | q :: rest =>
    { (s.modDir fun d => { d with queue := rest }) with verify := some ⟨q.1, q.2, 0, 0, 0, none, 0, true⟩ }
  | [] => s

/-- R112, R139: the clip leaves the verify queue, and a verify of it is dropped. -/
def State.cancelVerify (s : State) (clip : Nat) : State :=
  let t := s.modDir fun d => { d with queue := d.queue.filter fun q => q.1 != clip }
  if (match s.verify with | some j => j.clip == clip | none => false) then
    { t with
      verify := none
      inFlight := t.inFlight.map fun f => if f.who = .verify then { f with who := .cancelledVerify } else f }
  else t

end Sys2Proof.Machine
end

