-- ==== Sys2Proof/Machine/Gates.lean ====
section
/-! DEFINITION. The Gate Unit (spec/06): what it decides about an arrival, the tests at a frame boundary, and what follows a GATE
skip (R75). -/

namespace Sys2Proof.Machine

/-! ## A GATE skip -/

/-- R28, R29, R75, R99: the entry that the region waited for is SKIPPED with reason GATE; the lead voice is primed with the next
kept entry, or with the filler, or the early-network lead-out begins. -/
def Play.skipGate (p : Play) (t : Now) (r : Region) : Play :=
  p.withBreak r fun b => match (p.region r).lead, nextPending b.run with
    | some lead, some e =>
      let q := p.closeEntry t r e.index (.skipped .gate) t.air
      q.withBreak r fun c => match nextPending c.run with
        | some next =>
          let u := q.primeVoice lead (q.primeOf next next.level)
          match q.linkedTo r next with
          | some g => u.arrive r g
          | none => u.setPrep r .afterSkip
        | none =>
          if q.fillerUsable t r c then
            ((q.primeVoice lead (q.fillerOf r)).modRegion r fun x => { x with state := .fill, bed := x.bed.cut 0 }).setPrep r
              .fillerAfterSkip
          else (q.releaseVoice lead).earlyLeadOut t r
    | _, _ => p

/-- R75: the primed entry after a skip is due: READY at sample 0. -/
def Play.primedDue (p : Play) (t : Now) (r : Region) : Bool :=
  t.opensFrame && (p.region r).state == .gated && match (p.region r).brk, (p.region r).lead with
    | some b, some lead => b.prep == .afterSkip && (p.voice lead).state == .ready
    | _, _ => false

/-- R29: the filler primed after a skip is due: READY at sample 0. -/
def Play.fillerDue (p : Play) (t : Now) (r : Region) : Bool :=
  t.opensFrame && (p.region r).state == .fill && match (p.region r).brk, (p.region r).lead with
    | some b, some lead => b.prep == .fillerAfterSkip && (p.voice lead).state == .ready
    | _, _ => false

/-- R29: the filler starts on the lead voice. -/
def Play.fillerStart (p : Play) (t : Now) (r : Region) : Play := match (p.region r).lead with
  | some lead => (p.modVoice lead fun x => x.start t.count 0).setPrep r .none
  | none => p

/-- R21, R23: lead-in is due: it has not begun, and the home voice is READY at sample 0. -/
def Play.leadInDue (p : Play) (t : Now) (r : Region) : Bool :=
  t.opensFrame && (p.region r).state == .leadin && (p.voice (homeVoice r)).state == .ready && match (p.region r).brk with
    | some b => b.leadInStart.isNone
    | none => false

/-! ## Arrivals (R94 to R98) -/

/-- R95: the regions a first arrival expects: named in the mask, with an open break of that ID, a PENDING entry of the group, and
not in the missed set. -/
def Play.expects (p : Play) (g : LinkGroup) (breakId : Nat) (r : Region) : Bool :=
  inMask (p.gate g).mask r && !(p.gate g).missed.any (fun m => m.1 == r) && match (p.region r).brk with
    | some b => b.breakId == breakId && b.run.any fun e => e.status == .pending && e.link == some g
    | none => false

/-- R95: a first arrival at a CLOSED gate. -/
def Play.firstArrival (p : Play) (t : Now) (r : Region) (g : LinkGroup) (breakId : Nat) : Play :=
  p.modGate g fun x =>
    { x with
      state := .waiting, breakId := some breakId, expected := regionSet (p.expects g breakId), arrived := [(r, 0)],
      deadline := some (t.count + x.waitMs * 48), openPoint := none, joinDeadline := none }

/-- Whether a region is expected at a gate and has not arrived. -/
def Gate.awaits (x : Gate) (r : Region) : Bool := inMask x.expected r && !x.arrived.any fun a => a.1 == r

/-- R96, R98: a region enters the arrived set with a join offset. -/
def Play.joinGate (p : Play) (g : LinkGroup) (r : Region) (offset : Nat) : Play :=
  p.modGate g fun x => { x with arrived := x.arrived ++ [(r, offset)] }

/-- R96: an unexpected arrival: started at once, with a GATE_UNEXPECTED notice. -/
def Play.unexpected (p : Play) (t : Now) (r : Region) (g : LinkGroup) (breakId : Nat) : Play :=
  (p.startHeld t r 0).raise t 0 (.gateUnexpected g r breakId (p.gate g).state (p.gate g).breakId)

/-- R98: an expected arrival at an OPEN gate: it joins part-way through, or skips where the entry has already ended. -/
def Play.lateJoin (p : Play) (t : Now) (r : Region) (g : LinkGroup) (e : RunEntry) : Play :=
  let elapsed := t.count - (p.gate g).openPoint.getD t.count
  let q := p.joinGate g r elapsed
  if elapsed < e.effective.getD 0 then
    (q.flagEntry r e.index fun f => { f with joinedLate := f.joinedLate || 0 < elapsed }).startHeld t r elapsed
  else q.skipGate t r

/-- R94: what the Gate Unit decides about the arrival of a region at a gate. -/
def Play.resolveArrival (p : Play) (t : Now) (r : Region) (g : LinkGroup) : Play :=
  let q := p.modRegion r fun x => { x with arriving := none }
  q.withBreak r fun b => match nextPending b.run with
    | none => q
    | some e =>
      let x := p.gate g
      let u := q.modGate g fun x => { x with missed := x.missed.filter fun m => m.1 != r }
      if x.missed.any fun m => m.1 == r && m.2 == b.breakId then u.skipGate t r
      else match x.state with
        | .closed => u.firstArrival t r g b.breakId
        | .waiting => if x.awaits r then u.joinGate g r 0 else u.unexpected t r g b.breakId
        | .opened => if x.awaits r then u.lateJoin t r g e else u.unexpected t r g b.breakId

/-- The arrivals of one region at this sample: a skip may bring it to a further gate. `fuel` is the number of entries a run
list may hold. -/
def Play.resolveRegion (t : Now) (r : Region) : Nat → Play → Play
  | 0, p => p
  | fuel + 1, p => match (p.region r).arriving with
    | none => p
    | some g => Play.resolveRegion t r fuel (p.resolveArrival t r g)

/-- R95: the arrivals of one sample are taken in ascending region number, whatever order their events came in. -/
def Play.settleArrivals (p : Play) (t : Now) : Play := allRegions.foldl (fun q r => Play.resolveRegion t r 13 q) p

/-! ## Frame boundaries (R97, R99) -/

/-- R97: the gate opens: the open point is sample 0 of the next frame, the arrived regions are given their start, and a
GATE_DEADLINE notice is raised where the arrived set is short. -/
def Play.openGate (p : Play) (t : Now) (g : LinkGroup) : Play :=
  let x := p.gate g
  let q := x.arrived.foldl (fun q a => q.modRegion a.1 fun y => { y with opening := some g })
    (p.setGate g { x with state := .opened, openPoint := some t.count, joinDeadline := some (t.count + x.waitMs * 48) })
  if x.arrivedSet = x.expected then q else q.raise t 0 (.gateDeadline g x.breakId x.expected x.arrived)

/-- R99: the gate closes, and the regions that have not arrived enter the missed set with the gate's break ID. -/
def Gate.close (x : Gate) : Gate :=
  { x with
    state := .closed
    missed := (allRegions.filter x.awaits).foldl (fun m r => insertByKey (fun a => a.1.val) (r, x.breakId.getD 0) m) x.missed }

/-- R97: the wait deadline is at or before the last sample of the frame just assembled. -/
def Gate.deadlinePassed (x : Gate) (t : Now) : Bool := match x.deadline with
  | some d => d < t.count
  | none => false

/-- R99: sample 0 of the next frame has reached the join deadline. -/
def Gate.joinPassed (x : Gate) (t : Now) : Bool := match x.joinDeadline with
  | some d => d ≤ t.count
  | none => false

/-- R99: the closing test of an OPEN gate. -/
def Play.closeTest (p : Play) (t : Now) (g : LinkGroup) : Play :=
  let x := p.gate g
  if x.state == .opened && (x.arrivedSet == x.expected || x.joinPassed t) then p.setGate g x.close else p

/-- R97, R99: the tests of a gate at a frame boundary. -/
def Play.gateTest (p : Play) (t : Now) (g : LinkGroup) : Play :=
  let x := p.gate g
  match x.state with
  | .closed => p
  | .waiting =>
    if x.expected = 0 then p.setGate g { x with state := .closed }
    else if x.arrivedSet == x.expected || x.deadlinePassed t then (p.openGate t g).closeTest t g
    else p
  | .opened => p.closeTest t g

/-- R97, R99: the gates at a frame boundary. DESIGN CHOICE (log 73): they are tested, and raise their notices, in ascending group. -/
def Play.gateTests (p : Play) (t : Now) : Play := allLinkGroups.foldl (fun q g => q.gateTest t g) p

/-- R97: a WAITING gate whose deadline has passed with the arrived set short. -/
def Play.gateDeadlineDue (p : Play) (t : Now) (g : LinkGroup) : Bool :=
  let x := p.gate g
  x.state == .waiting && x.expected != 0 && x.arrivedSet != x.expected && x.deadlinePassed t

/-- R99: an OPEN gate at its join deadline with the arrived set short. -/
def Play.joinDeadlineDue (p : Play) (t : Now) (g : LinkGroup) : Bool :=
  let x := p.gate g
  x.state == .opened && x.arrivedSet != x.expected && x.joinPassed t

/-- R97: a region's gate opening is due: sample 0, in GATED, with a start given. -/
def Play.openingDue (p : Play) (t : Now) (r : Region) (g : LinkGroup) : Bool :=
  t.pos.sample == 0 && (p.region r).state == .gated && (p.region r).opening == some g

/-- R97: the starts that a gate has given. -/
def Play.openRegions (p : Play) (t : Now) (g : LinkGroup) : Play :=
  allRegions.foldl (fun q r => if q.openingDue t r g then q.startHeld t r 0 else q) p

end Sys2Proof.Machine
end

