-- ==== Sys2Proof/Machine/Assembly.lean ====
section
/-! DEFINITION. The assembly of a frame (R16): the region events before each sample, the mix of each sample (spec/05), and the
commands that take one region event each. The order of the events of one sample is the model's (log 3). -/

namespace Sys2Proof.Machine

/-- Whether a sample remains to be formed in the period: region events act only then. -/
def State.assembling (s : State) : Bool := s.period.isSome && s.sample < 48

/-! ## Which events are due -/

/-- A looping voice at its end, or one with a completed ramp that does not release it. -/
def Voice.turnDue (x : Voice) : Bool := x.loopWrapDue || (x.state == .playing && x.fader.complete && !x.releaseAtRampEnd)

/-- Whether a region event other than a pool request or a decision point is due to a region at the present sample. -/
def State.regionBusy (s : State) (r : Region) : Bool :=
  let p := s.play
  let t := s.now
  (s.dueCue r).isSome || (p.armDue t r && !s.armSetAside r) || p.breakDue t r ||
    allLinkGroups.any (fun g => p.openingDue t r g) ||
    (p.voicesOf r).any (fun v => (p.voice v).finishDue || (p.voice v).turnDue) || (p.region r).bed.complete ||
    p.leadInDue t r || p.primedDue t r || p.fillerDue t r || p.lateMixDue t r || p.mixDue r

/-- Whether every region event of the present sample has been taken, so that the sample's arrivals at gates and requests for
pool voices can be settled together (R68, R95; log 23). -/
def State.quiet (s : State) : Bool := allRegions.all fun r => !s.regionBusy r

/-! ## All the events of a sample -/

/-- A test and the operation it guards. -/
def Play.whenDue (p : Play) (due : Bool) (f : Play → Play) : Play := if due then f p else p

/-- R64: the loop wraps of a region's voices. -/
def Play.wraps (p : Play) (r : Region) : Play :=
  (p.voicesOf r).foldl (fun q v => if (q.voice v).loopWrapDue then q.modVoice v Voice.wrap else q) p

/-- R86: the completions of voice ramps that release nothing. -/
def Play.rampsDone (p : Play) (r : Region) : Play :=
  (p.voicesOf r).foldl (fun q v =>
    if (q.voice v).state == .playing && (q.voice v).fader.complete && !(q.voice v).releaseAtRampEnd then
      q.modVoice v fun x => { x with fader := x.fader.finish }
    else q) p

/-- R64, R71: the ends of a region's voices, in run order. -/
def Play.finishes (p : Play) (t : Now) (r : Region) : Play :=
  (p.voicesInRunOrder r).foldl (fun q v => q.finishVoice t r v) p

/-- The first part of a region's events: timers, gate openings, ends of voices, and completions of ramps. -/
def Play.endings (p : Play) (t : Now) (r : Region) : Play :=
  let p1 := p.whenDue (p.armDue t r) fun q => q.armExpire t r
  let p2 := p1.whenDue (p1.breakDue t r) fun q => q.breakEnd t r .timeout false
  let p3 := allLinkGroups.foldl (fun q g => q.whenDue (q.openingDue t r g) fun u => u.startHeld t r 0) p2
  let p4 := (p3.finishes t r).wraps r
  (p4.whenDue (p4.region r).bed.complete fun q => q.bedRampEnd t r).rampsDone r

/-- The second part: the starts. -/
def Play.starts (p : Play) (t : Now) (r : Region) : Play :=
  let p1 := p.whenDue (p.leadInDue t r) fun q => q.leadInStart t r
  let p2 := p1.whenDue (p1.primedDue t r) fun q => q.startHeld t r 0
  let p3 := p2.whenDue (p2.fillerDue t r) fun q => q.fillerStart t r
  let p4 := p3.whenDue (p3.lateMixDue t r) fun q => q.lateMixStart t r
  (p4.whenDue (p4.mixDue r) fun q => q.mixStart t r).prepare t r

/-- All the events of one region at the present sample, its cues first. -/
def State.regionEvents (s : State) (r : Region) : State :=
  let t := State.dispatchAll r s.cues.table.length s
  { t with play := (t.play.endings t.now r).starts t.now r }

/-- R69: the decision points that are due. -/
def Play.decisions (p : Play) (t : Now) : Play :=
  allRegions.foldl (fun q r => q.whenDue (q.decisionDue t r) fun u => u.decideWaiting t r) p

/-- R66: the mix starts that a grant of this sample has made due. -/
def Play.mixStarts (p : Play) (t : Now) : Play :=
  allRegions.foldl (fun q r => q.whenDue (q.mixDue r) fun u => u.mixStart t r) p

/-- The sample settled: arrivals at gates (R95), pool requests and grants (R68), decision points (R69), and the mix starts that
follow. -/
def Play.settleSample (p : Play) (t : Now) : Play :=
  (((((p.settleArrivals t).poolRound t).decisions t).mixStarts t).poolRound t)

/-- R86, R89: the completions of group ramps taken. -/
def State.groupCompletions (s : State) : State := { s with levels := mapGroups s.levels GroupRec.finishRamp }

/-- All the events that are due before the present sample is formed. -/
def State.takeEvents (s : State) : State :=
  let t := allRegions.foldl State.regionEvents s.groupCompletions
  { t with play := t.play.settleSample t.now }

/-! ## The mix of one sample (R79 to R84) -/

/-- What a term adds to the two channels. -/
def addTerm (acc : Int × Int) (x : Int × Int) (e : Nat) : Int × Int := (acc.1 + contribution x.1 e, acc.2 + contribution x.2 e)

/-- R80: the effective level of a voice. -/
def Voice.level (x : Voice) (gs : Vector GroupRec 8) : Nat := effectiveLevel x.fader.level (groupLevel gs x.group) x.trim

/-- R83: the sums of a region, before the clamp. -/
def Play.sums (p : Play) (gs : Vector GroupRec 8) (r : Region) (bed : Int × Int) : Int × Int :=
  (p.voicesOf r).foldl (fun acc v =>
    let x := p.voice v
    if x.state == .playing then addTerm acc x.hands.1 (x.level gs) else acc) (addTerm (0, 0) bed (p.region r).bed.level)

/-- R83, R84: the region after an output sample: the sample, the clamp count, the peaks, the bed ramp, and the fill samples. -/
def RegionRec.output (x : RegionRec) (sum : Int × Int) : RegionRec :=
  let out := (clamp24 sum.1, clamp24 sum.2)
  { x with
    out := x.out ++ [out]
    clampCount := if clampActs sum.1 || clampActs sum.2 then min 65535 (x.clampCount + 1) else x.clampCount
    peakL := max x.peakL out.1.natAbs
    peakR := max x.peakR out.2.natAbs
    bed := x.bed.advance
    brk := x.brk.map fun b => if x.state = .fill then { b with fillSamples := b.fillSamples + 1 } else b }

/-- R63, R72: the run entry that a voice plays counts the sample and takes the flags. -/
def RunEntry.countSample (e : RunEntry) (failed lacks : Bool) : RunEntry :=
  { e with played := e.played + 1, flags := e.flags.withVoice failed lacks }

/-- R63, R72: a PLAYING voice plays one sample. -/
def Play.playVoice (p : Play) (t : Now) (r : Region) (v : VoiceNo) : Play :=
  let x := p.voice v
  if x.state == .playing then
    let (_, lacks, failed) := x.hands
    let q := p.modVoice v Voice.played
    let u := match x.run with
      | some i => q.modBreak r fun b => { b with run := modEntry b.run i fun e => e.countSample failed lacks }
      | none => q
    if failed && !x.reported then match x.clip with
      | some clip => u.reportFault t clip
      | none => u
    else u
  else p

/-- One sample of one region. -/
def Play.mixRegion (p : Play) (t : Now) (gs : Vector GroupRec 8) (bed : Int × Int) (r : Region) : Play :=
  let sum := p.sums gs r bed
  (p.voicesOf r).foldl (fun q v => q.playVoice t r v) (p.modRegion r fun x => x.output sum)

/-- R162: the station sample count one sample on; at the 48-bit limit the manual gives no value (log 15). -/
def nextCount (n : Nat) : Nat := if n + 1 < 2 ^ 48 then n + 1 else Config.countAtLimit.toNat

/-- R163: the egress frame of a period that is assembled. -/
def State.egressOf (s : State) (p : Period) : EgressFrame :=
  { link := p.link, seq := p.seq, air := p.air, states := allRegions.map fun r => (s.play.region r).state
    blocks := allRegions.map fun r => (s.play.region r).out }

/-- R163: the egress frame is formed when the last sample has been. -/
def State.closeFrame (s : State) (p : Period) : State :=
  if s.sample = 48 then { s with egress := some (s.egressOf p) } else s

/-- The sample of every region, and the counters that go on with it. -/
def State.mixSample (s : State) (p : Period) : State :=
  let bed := p.bed.getD s.sample (0, 0)
  { s with
    play := allRegions.foldl (fun q r => q.mixRegion s.now s.levels bed r) s.play
    levels := mapGroups s.levels GroupRec.advance
    link := { s.link with count := nextCount s.link.count }
    sample := s.sample + 1
    midSample := false, settled := false }

/-- R16: one sample of the period: its events, its mix, and what the array does at the requests that follow. -/
def State.formSample (s : State) : State := match s.period with
  | some p => if s.sample < 48 then ((s.takeEvents.mixSample p).closeFrame p).settleArray else s
  | none => s

/-- `n` samples. -/
def State.formSamples : Nat → State → State
  | 0, s => s
  | n + 1, s => State.formSamples n s.formSample

/-! ## One event by command -/

/-- What follows a region event: once no other is due, the sample's arrivals and pool requests are settled (R68, R95), and a priming that
completes later counts from the next frame on (log 21), so that no region arrives at the settled sample; at any time the array turns to
what is now pending. -/
def State.settle (s : State) : State :=
  (if s.quiet then { s with play := (s.play.settleArrivals s.now).poolRound s.now, settled := true } else s).settleArray

/-- A region event has been taken at the present sample: it leaves the on-air blocks `p`, the sample is settled, and requests wait
until it is formed (R16, log 58). -/
def State.taken (s : State) (p : Play) : State := ({ s with play := p, midSample := true } : State).settle

/-- A region event taken by command where it is due; otherwise nothing happens (log 2). -/
def State.event (s : State) (due : Bool) (f : Play → Now → Play) : State :=
  if s.assembling && due then s.taken (f s.play s.now) else s

/-- R68: a pool voice that comes free outside a region event is granted at once to the head of the waiting list. Where events of the
present sample are still to be taken, it is settled together with them (log 23). -/
def State.grantReturned (s : State) : State := if s.midSample && !s.quiet then s else { s with play := s.play.grants }

/-- GATE_OPENING (R97): the starts that a gate has given. -/
def execGateOpening (g : LinkGroup) (s : State) : Host.Outcome State Fault Refusal :=
  .next (s.event (allRegions.any fun r => s.play.openingDue s.now r g) fun p t => p.openRegions t g)

/-- CUE_DISPATCH (R7): the first entry due to a region, in table order. -/
def execCueDispatch (r : Region) (s : State) : Host.Outcome State Fault Refusal :=
  match s.dueCue r with
  | some c => .next (if s.assembling then (s.dispatch r c).taken (s.dispatch r c).play else s)
  | none => .next s

/-- LEAD_IN_START (R25). -/
def execLeadInStart (r : Region) (s : State) : Host.Outcome State Fault Refusal :=
  .next (s.event (s.play.leadInDue s.now r) fun p t => p.leadInStart t r)

/-- ARM_TIMER_EXPIRY (R19). -/
def execArmTimerExpiry (r : Region) (s : State) : Host.Outcome State Fault Refusal :=
  .next (s.event (s.play.armDue s.now r && !s.armSetAside r) fun p t => p.armExpire t r)

/-- R31: a REJOIN of the open break is due to a region at the present sample and has not been dispatched. -/
def State.rejoinDue (s : State) (r : Region) : Bool :=
  s.cues.table.any fun c => c.dueAt r s.now.pos && c.kind == .rejoin && c.breakId == s.play.openId r

/-- BREAK_TIMER_EXPIRY (R22, R30, R31, R34). -/
def execBreakTimerExpiry (r : Region) (s : State) : Host.Outcome State Fault Refusal :=
  .next (s.event (s.play.breakDue s.now r) fun p t => p.breakEnd t r .timeout (s.rejoinDue r))

/-- R71, R86: the completion of a voice's ramp: it releases the voice, or only ends the ramp. -/
def Play.voiceRampEnd (p : Play) (t : Now) (r : Region) (v : VoiceNo) : Play :=
  if (p.voice v).releaseAtRampEnd then (p.finishBefore t r v).finishVoice t r v
  else p.modVoice v fun x => { x with fader := x.fader.finish }

/-- Whether a voice's ramp completion is due. -/
def Voice.rampDue (x : Voice) : Bool := x.state == .playing && x.fader.complete

/-- RAMP_COMPLETION (R86) of a bed, a voice or a group. -/
def execRampCompletion (h : RampHolder) (s : State) : Host.Outcome State Fault Refusal :=
  .next (match h with
    | .bed r => s.event (s.play.region r).bed.complete fun p t => p.bedRampEnd t r
    | .voice v => match (s.play.voice v).holder with
      | some r => s.event (s.play.voice v).rampDue fun p t => p.voiceRampEnd t r v
      | none => s
    | .group g => if g = 0 then s else { s with levels := setGroup s.levels g s.levels[g].finishRamp })

/-- ITEM_END (R64). -/
def execItemEnd (v : VoiceNo) (s : State) : Host.Outcome State Fault Refusal :=
  .next (match (s.play.voice v).holder with
    | some r => s.event (s.play.voice v).itemEndDue fun p t => (p.finishBefore t r v).finishVoice t r v
    | none => s)

/-- LOOP_WRAP (R64). -/
def execLoopWrap (v : VoiceNo) (s : State) : Host.Outcome State Fault Refusal :=
  .next (s.event (s.play.voice v).loopWrapDue fun p _ => p.modVoice v Voice.wrap)

/-- PRIMED_ENTRY_START (R75). -/
def execPrimedEntryStart (r : Region) (s : State) : Host.Outcome State Fault Refusal :=
  .next (s.event (s.play.primedDue s.now r) fun p t => p.startHeld t r 0)

/-- FILLER_START_AFTER_SKIP (R29, R75). -/
def execFillerStartAfterSkip (r : Region) (s : State) : Host.Outcome State Fault Refusal :=
  .next (s.event (s.play.fillerDue s.now r) fun p t => p.fillerStart t r)

/-- POOL_REQUEST (R67). -/
def execPoolRequest (r : Region) (s : State) : Host.Outcome State Fault Refusal :=
  .next (s.event (s.play.requestDue r) fun p t => p.request t r)

/-- DECISION_POINT (R68, R69). -/
def execDecisionPoint (r : Region) (s : State) : Host.Outcome State Fault Refusal :=
  .next (s.event (s.play.decisionDue s.now r) fun p t => p.decideWaiting t r)

/-- MIX_START (R66, R70). -/
def execMixStart (r : Region) (s : State) : Host.Outcome State Fault Refusal :=
  .next (s.event (s.play.mixDue r) fun p t => p.mixStart t r)

/-- LATE_CROSSFADE_START (R70). -/
def execLateCrossfadeStart (r : Region) (s : State) : Host.Outcome State Fault Refusal :=
  .next (s.event (s.play.lateMixDue s.now r) fun p t => p.lateMixStart t r)

/-! ## Array commands -/

/-- READ_START (R73): the first pending request that may start goes to the array. -/
def execReadStart (s : State) : Host.Outcome State Fault Refusal := match s.nextRead with
  | some q => .next (s.launch q)
  | none => .next s

/-- R68, R71: what follows a delivery: one to a voice may return it to the pool. -/
def State.afterDelivery (s : State) (who : Requester) : State := match who with
  | .voice _ => s.grantReturned
  | _ => s

/-- READ_DELIVERY (R74, R135). -/
def execReadDelivery (first second third : Attempt) (s : State) : Host.Outcome State Fault Refusal := match s.inFlight with
  | some f => .next ((s.deliver f first second third).afterDelivery f.who).settleArray
  | none => .next s

/-- VERIFY_TAKE (R107, R137). -/
def execVerifyTake (s : State) : Host.Outcome State Fault Refusal := .next (if s.takeDue then s.verifyTake else s)

/-- STORE_OPERATION_START (R120, R124, R127): the head of the store queue, or the next step of the current operation. -/
def execStoreOperationStart (s : State) : Host.Outcome State Fault Refusal :=
  .next (if s.storeDue then s.startHead.settleArray else s.settleArray)

/-- The current operation, where its started step meets a test. -/
def State.currentStep (s : State) (f : Stage → Bool) : Option Current := match s.store.current with
  | some c => if c.started && f c.stage && c.phase == .running then some c else none
  | none => none

/-- PAGE_PROGRAM_COMPLETE (R124, R143, R144). -/
def execPageProgramComplete (pass : Bool) (s : State) : Host.Outcome State Fault Refusal := match s.currentStep Stage.programs with
  | some c => .next (s.programEnds c pass).settleArray
  | none => .next s

/-- BLOCK_ERASE_COMPLETE (R126, R143 to R145). -/
def execBlockEraseComplete (pass : Bool) (s : State) : Host.Outcome State Fault Refusal := match s.currentStep Stage.erases with
  | some c => .next (s.eraseEnds c pass).settleArray
  | none => .next s

/-- ERASE_SUSPENDED (R128). The manual does not say what the block reads as until its erase has ended: its contents are free values
from here on (log 10). -/
def execEraseSuspended (s : State) : Host.Outcome State Fault Refusal := match s.store.current with
  | some c =>
    .next (if c.phase == .suspending then ((s.loosenErasing c).modCurrent fun c => { c with phase := .suspended }).settleArray else s)
  | none => .next s

/-- SETTINGS_WRITE_COMPLETE (R130, R131, R132, R143 to R145). -/
def execSettingsWriteComplete (s : State) : Host.Outcome State Fault Refusal := match s.currentStep Stage.writesSettings with
  | some c => .next (s.writeEnds c).settleArray
  | none => .next s

end Sys2Proof.Machine
end

