-- ==== Sys2Proof/Machine/Link.lean ====
section
/-! DEFINITION. The Link Receiver with the Frame Clock, the transmitters, the frame boundary, soft reset and power-on (spec/11,
spec/12, and the reset rules of every chapter). -/

namespace Sys2Proof.Machine

/-! ## Programme frames that arrive (R155 to R159) -/

/-- R167: each frame count stops at 2^32 − 1. -/
def countUp (n k : Nat) : Nat := min (2 ^ 32 - 1) (n + k)

/-- R156: the distance of a frame from the expected sequence. -/
def Link.distance (l : Link) (f : ProgFrame) : Nat := (f.seq + 65536 - l.expected % 65536) % 65536

/-- R156: whether the arrival holding has a frame of a sequence. -/
def Link.holds (l : Link) (seq : Nat) : Bool := l.holding.any fun f => f.seq == seq

/-- R155: an invalid frame. In ACQUIRING and FREE it ends the lock run (R159). -/
def Link.invalid (l : Link) : Link :=
  { l with
    counts := { l.counts with invalid := countUp l.counts.invalid 1 }
    lockRun := if l.state = .acquiring ∨ l.state = .free then 0 else l.lockRun }

/-- R156: a frame discarded as out-of-sequence. -/
def Link.outOfSequence (l : Link) : Link :=
  { l with counts := { l.counts with outOfSequence := countUp l.counts.outOfSequence 1 } }

/-- R156, R158: a frame of distance 0 or 1. -/
def Link.hold (l : Link) (f : ProgFrame) : Link :=
  let m := { l with state := .locked }
  if l.holds f.seq then m.outOfSequence else { m with holding := l.holding ++ [f] }

/-- R158: a relock with a sequence step. -/
def Link.stepTo (l : Link) (f : ProgFrame) : Link :=
  { l with
    state := .locked, expected := f.seq, holding := [f], retest := true
    counts :=
      { l.counts with
        outOfSequence := countUp l.counts.outOfSequence l.holding.length
        relocks := countUp l.counts.relocks 1, steps := countUp l.counts.steps 1 } }

/-- R156: a valid frame in LOCKED or HOLDOVER, by its distance. -/
def Link.place (l : Link) (f : ProgFrame) : Link :=
  if l.distance f ≤ 1 then l.hold f
  else if l.distance f ≤ 32767 then (if l.state = .holdover then l.stepTo f else l.outOfSequence)
  else { l with counts := { l.counts with late := countUp l.counts.late 1 } }

/-- R159: the fourth frame of a lock run takes the link to LOCKED. -/
def Link.lock (l : Link) (f : ProgFrame) : Link :=
  { l with
    state := .locked, expected := f.seq, holding := [f], lockRun := 0, lockLast := f.seq, retest := true
    counts :=
      { l.counts with
        relocks := countUp l.counts.relocks 1
        steps := if f.seq = l.expected then l.counts.steps else countUp l.counts.steps 1 } }

/-- R159: a valid frame in ACQUIRING or FREE. -/
def Link.run (l : Link) (f : ProgFrame) : Link :=
  let n := if 0 < l.lockRun ∧ f.seq = (l.lockLast + 1) % 65536 then l.lockRun + 1 else 1
  if 4 ≤ n then l.lock f else { l with lockRun := n, lockLast := f.seq }

/-- R155 to R159: a programme frame that has arrived whole. -/
def Link.arrive (l : Link) (bytes : List Byte) : Link :=
  if frameValid bytes then
    let m := { l with arrived := true, counts := { l.counts with valid := countUp l.counts.valid 1 } }
    match l.state with
    | .locked => m.place (readFrame bytes)
    | .holdover => m.place (readFrame bytes)
    | .acquiring => m.run (readFrame bytes)
    | .free => m.run (readFrame bytes)
  else l.invalid

/-- PROGRAMME_FRAME_ARRIVAL (R155). -/
def execProgrammeFrameArrival (bytes : List Byte) (s : State) : Host.Outcome State Fault Refusal :=
  .next { s with link := s.link.arrive bytes }

/-! ## The return frame (R164) -/

/-- R164: the entries taken from the head while the next one fits in what is left of the payload; and the rest. -/
def takeEntries : Nat → List QueueEntry → List QueueEntry × List QueueEntry
  | _, [] => ([], [])
  | left, e :: rest =>
    if e.size ≤ left then
      let (a, b) := takeEntries (left - e.size) rest
      (e :: a, b)
    else ([], e :: rest)

/-- The code of a Reset request, by which its reply is known (R174). -/
def resetKind : Nat := 0x03

/-- Whether an entry is the OK reply to a Reset. -/
def QueueEntry.isResetOk (e : QueueEntry) : Bool := match e.payload with
  | .reply kind code _ => kind == resetKind && code == .ok
  | .notice _ => false

/-- R174: a reset pending on its reply waits for the boundary alone once the reply has left. -/
def Agent.replySent (a : Agent) (sent : List QueueEntry) : Option ResetPending := match a.resetPending with
  | some .onReply => if sent.any QueueEntry.isResetOk then some .nextBoundary else some .onReply
  | x => x

/-- R164: the agent after a return frame with the entries sent. -/
def Agent.afterReturn (a : Agent) (sent rest : List QueueEntry) : Agent :=
  { a with returns := rest, noticesDropped := false, inputDiscarded := false, resetPending := a.replySent sent }

/-- R164: the return frame formed at a frame period event. -/
def State.formReturn (s : State) : State :=
  let a := s.play.agent
  let x := takeEntries Config.payloadMax a.returns
  { s with
    returnFrame := some ⟨a.noticesDropped, a.inputDiscarded, s.play.dir.state == .scanning, s.link.address, s.link.expected, x.1⟩
    play := { s.play with agent := a.afterReturn x.1 x.2 }
    returnFormed := true }

/-! ## Soft reset (R14, R38, R40, R77, R84, R88, R92, R93, R104, R134, R139, R154, R174, R175) -/

/-- R134, R174: a settings write is current. -/
def State.writing (s : State) : Bool := match s.store.current with
  | some c => c.started && c.stage.writesSettings
  | none => false

/-- R174: the soft reset takes effect at this boundary. DESIGN CHOICE (log 70): a further settings write that has become current by now
is waited for as well (R134). -/
def State.resetDue (s : State) : Bool := s.play.agent.resetPending == some .nextBoundary && !s.writing

/-- A physical page left half written (R134). -/
def State.loosenPage (s : State) (page : Nat) : State :=
  { s with flash := writeFlash s.flash page (loosePage s.occasion true), occasion := s.occasion + 1 }

/-- R134: what an abandoned step leaves of the array: an indeterminate page or block. -/
def State.abandonStep (s : State) : State := match s.store.current with
  | some c =>
    if c.started then match c.stage, c.op with
      | .program, .commit page _ _ => s.loosenPage (s.settings.physicalPage page)
      | .relocProgram m .., _ => s.loosen (spareBlock m.spare)
      | .relocStaged m, _ => s.loosen (spareBlock m.spare)
      | _, _ => s.loosenErasing c
    else s
  | none => s

/-- R114: the block that a new scan reads first. -/
def Settings.firstScan (t : Settings) : Nat := skipWorn t.worn t.worn.length 0

/-- The blocks that a soft reset takes to the state after power-on, over the Settings Area given. -/
def State.resetBlocks (s : State) : State :=
  { s with
    cues := CueUnit.reset
    play := Play.reset s.settings.firstScan
    levels := Vector.replicate 8 GroupRec.reset
    verify := none
    store := Store.reset s.settings.boundary s.settings.floor }

/-- R77, R174: a soft reset takes effect. A read in flight is delivered to nobody. DESIGN CHOICE (log 69): the egress frame that is
being sent keeps the region states at the end of its own assembly (R163), and the first frame assembled after the reset shows NETWORK. -/
def State.softReset (s : State) : State :=
  let t := s.abandonStep.resetBlocks
  { t with inFlight := t.inFlight.map fun f => { f with who := .discarded } }

/-- A soft reset where one is due. -/
def State.resetIfDue (s : State) : State := if s.resetDue then s.softReset else s

/-- The state once the return frame of the coming boundary has been formed. -/
def State.withReturn (s : State) : State := if s.returnFormed then s else s.formReturn

/-- SOFT_RESET (R174): at the frame boundary, after the return frame of the boundary has been formed (log 14). -/
def execSoftReset (s : State) : Host.Outcome State Fault Refusal :=
  .next (if s.sample = 48 ∧ s.withReturn.resetDue then s.withReturn.softReset else s)

/-! ## The frame period event (R157, R160 to R162) -/

/-- R160: a substitute frame. -/
def Link.substitute (l : Link) : ProgFrame := ⟨l.expected, l.air.next, List.replicate 48 (0, 0), [], []⟩

/-- R157: the link state after a period without a frame. -/
def Link.missed (l : Link) : LinkState :=
  if l.state = .locked then .holdover
  else if l.state = .holdover ∧ 2001 ≤ l.consecutive + 1 then .free
  else l.state

/-- R157, R159, R161: the link after the frame period event of its expected sequence with a frame of that sequence. -/
def Link.period (l : Link) (f : ProgFrame) : Link :=
  { l with
    expected := (l.expected + 1) % 65536, arrived := false, lockRun := if l.arrived then l.lockRun else 0
    air := f.air, airHistory := (l.air :: l.airHistory).take 3 }

/-- R156, R157: a held frame is passed on, or the period counts as one without. -/
def Link.settle (l : Link) : Link × ProgFrame :=
  match l.holding.find? fun f => f.seq == l.expected with
  | some f =>
    (({ l with holding := l.holding.filter fun g => g.seq != l.expected, consecutive := 0 } : Link).period f, f)
  | none =>
    (({ l with
        state := l.missed, consecutive := min 2001 (l.consecutive + 1)
        counts := { l.counts with holdover := countUp l.counts.holdover 1 } } : Link).period l.substitute, l.substitute)

/-! ## Message receipt (R165, R169) -/

/-- R169: one message tested against the address and placed, or discarded. -/
def Agent.receive (address : Nat) (a : Agent) (m : Message) : Agent :=
  if m.target = address ∨ m.target = 255 then
    if a.input.length < Config.inputMax then { a with input := a.input ++ [m] } else { a with inputDiscarded := true }
  else a

/-- R165, R169: the messages of a management field. -/
def Agent.receiveField (address : Nat) (a : Agent) (field : List Byte) : Agent :=
  (readMessages field.length field).foldl (Agent.receive address) a

/-! ## The frame boundary -/

/-- R89, R90, R97, R99: the gates are tested and the waiting group requests begun. DESIGN CHOICE (log 83): a gate that GATE_DEADLINE or
JOIN_DEADLINE has tested at this boundary already is tested again. -/
def State.boundaryTests (s : State) : State :=
  { s with play := s.play.gateTests s.now, levels := mapGroups s.levels GroupRec.atBoundary }

/-- R2, R11: the cues of the frame passed on: the re-test of a relock, then the intake. -/
def State.takeCues (s : State) (f : ProgFrame) : State :=
  let x : CueUnit × Play := ({ s.cues with intake := f.cues }, s.play)
  let y := if s.link.retest then retest s.now f.seq x else x
  let z := intake s.now f.seq y
  { s with cues := z.1, play := z.2, link := { s.link with retest := false } }

/-- R16: a period is opened: the regions have its 48 samples to form. -/
def State.openPeriod (s : State) (f : ProgFrame) : State :=
  { s with
    period := some ⟨f.seq, s.link.state, s.link.air, f.bed⟩, sample := 0, midSample := false, settled := false
    returnFormed := false
    play := { s.play with
      agent := s.play.agent.receiveField s.link.address f.management
      regions := s.play.regions.map fun x => { x with out := [] } } }

/-- R157: the frame of the period is settled and passed on. -/
def State.passFrame (s : State) : State :=
  let x := s.link.settle
  (({ s with link := x.1 } : State).takeCues x.2).openPeriod x.2

/-- The frame boundary, in the model's order (log 13): the period at hand is finished, the return frame formed, a pending soft reset
taken, the gates and group levels tested, and the frame of the next period passed on. -/
def State.boundary (s : State) : State :=
  let t := State.formSamples (48 - s.sample) s
  t.withReturn.resetIfDue.boundaryTests.passFrame

/-- FRAME_PERIOD_EVENT (R157). -/
def execFramePeriodEvent (s : State) : Host.Outcome State Fault Refusal := .next s.boundary.settleArray

/-! ## Gate deadlines at the boundary (R97, R99) -/

/-- Whether the regions have finished a frame, and the next has not begun: between two periods. -/
def State.atBoundary (s : State) : Bool := s.sample == 48

/-- GATE_DEADLINE (R97). DESIGN CHOICE (log 83): the frame period event of this boundary tests the gate again. -/
def execGateDeadline (g : LinkGroup) (s : State) : Host.Outcome State Fault Refusal :=
  .next (if s.atBoundary && s.play.gateDeadlineDue s.now g then { s with play := s.play.gateTest s.now g } else s)

/-- JOIN_DEADLINE (R99). -/
def execJoinDeadline (g : LinkGroup) (s : State) : Host.Outcome State Fault Refusal :=
  .next (if s.atBoundary && s.play.joinDeadlineDue s.now g then { s with play := s.play.closeTest s.now g } else s)

/-! ## Power-on (R13, R15, R40, R77, R88, R92, R93, R104, R134, R139, R142, R154, R166, R168, R175) -/

/-- What a loss of power leaves of the Settings Area: a write that is cut off has taken effect or has not (log 25). -/
def State.cutWrite (s : State) : State := match s.store.current with
  | some c =>
    if c.started && c.stage.writesSettings then
      { s with
        settings := if Config.writeSurvives s.occasion then s.settings.written c else s.settings, occasion := s.occasion + 1 }
    else s
  | none => s

/-- Power-on with the value on the address pins: every block from its initial state, the flash array and the Settings Area kept. -/
def State.powerOn (s : State) (pins : BitVec 8) : State :=
  let t := s.cutWrite.abandonStep
  { t.resetBlocks with
    link := Link.reset pins, period := none, sample := 48, midSample := false, settled := false, inFlight := none, egress := none
    returnFrame := none, returnFormed := false }

/-- POWER_ON (R166, R168). -/
def execPowerOn (pins : BitVec 8) (s : State) : Host.Outcome State Fault Refusal := .next (s.powerOn pins)

end Sys2Proof.Machine
end

