-- ==== Sys2Proof/Machine/Operands.lean ====
section
/-! DEFINITION. The fields of requests: the numbers they name, the clamps, and the tests of spec/02, spec/03, spec/05 and spec/06
that a request's fields undergo. -/

namespace Sys2Proof.Machine

/-- A region 0..23. -/
def regionOf (n : Nat) : Option Region := if h : n < 24 then some ⟨n, h⟩ else none

/-- A plan slot 0..15. -/
def slotOf (n : Nat) : Option (Fin 16) := if h : n < 16 then some ⟨n, h⟩ else none

/-- A voice 0..31. -/
def voiceOf (n : Nat) : Option VoiceNo := if h : n < 32 then some ⟨n, h⟩ else none

/-- A link group 1..7. -/
def linkGroupOf (n : Nat) : Option LinkGroup := if h : 1 ≤ n ∧ n ≤ 7 then some ⟨n - 1, by omega⟩ else none

/-- A gain group 0..7. -/
def gainGroupOf (n : Nat) : Option GainGroup := if h : n < 8 then some ⟨n, h⟩ else none

/-- A value brought into a range. -/
def clampTo (lo hi n : Nat) : Nat := min hi (max lo n)

/-- The code of the first test that fails, of tests in the order that a rule gives them. -/
def firstRefusal : List (Bool × Code) → Option Code
  | [] => none
  | (fails, code) :: rest => if fails then some code else firstRefusal rest

/-- R36: the configuration that Configure Region gives, clamped. -/
def configOf (f : ConfigureRegionFields) : RegionConfig :=
  { enabled := f.enabled, fillerClip := f.fillerClip, fillerLevel := f.fillerLevel, duckLevel := f.duckLevel,
    overrunMs := clampTo 0 10000 f.overrunMs, maxBreakMs := clampTo 1000 600000 f.maxBreakMs,
    armTimeoutS := clampTo 1 60 f.armTimeoutS }

/-- R42: a fill policy, where its code is defined. -/
def fillOf : FillCode → Option FillPolicy
  | .filler => some .filler
  | .earlyNetwork => some .earlyNetwork
  | .undefined _ => none

/-- R43: a length choice, where its code is defined. -/
def lengthOf : LengthCode → Option LengthChoice
  | .full => some .full
  | .short => some .short
  | .undefined _ => none

/-- R43: a transition, where its code is defined. -/
def transitionOf : TransitionCode → Option Transition
  | .cut => some .cut
  | .mix => some .mix
  | .undefined _ => none

/-- R42: the plan that Open Plan begins, clamped. -/
def planOf (f : OpenPlanFields) (fill : FillPolicy) : Plan :=
  ⟨f.breakId, min 5000 f.leadInMs, min 5000 f.leadOutMs, fill, f.singleUse, []⟩

/-- R43: the transition duration held: 0 for a CUT, at most 2,000 ms for a MIX. -/
def transitionMsOf (t : Transition) (ms : Nat) : Nat := match t with
  | .cut => 0
  | .mix => min 2000 ms

/-- R43: the item that Append Item adds, where every field passes its test. Link group 0 means none. -/
def itemOf (f : AppendItemFields) : Option PlanItem :=
  match lengthOf f.length, transitionOf f.transition, gainGroupOf f.group with
  | some len, some tr, some g =>
    if f.clip = 0 ∨ 1023 < f.clip ∨ 1023 < f.substitute ∨ 7 < f.link then none
    else some
      { clip := f.clip, substitute := f.substitute, length := len, transition := tr,
        transitionMs := transitionMsOf tr f.transitionMs, level := if f.levelGiven then f.level else 231, group := g,
        droppable := f.droppable, link := linkGroupOf f.link }
  | _, _, _ => none

/-- R151: the count of a Fetch As-Run: 0 is taken as 16, and a count above 16 is clamped. -/
def fetchCount (n : Nat) : Nat := if n = 0 then 16 else min 16 n

end Sys2Proof.Machine
end

