-- ==== Sys2Proof/Machine/Management.lean ====
section
/-! DEFINITION. The Management Agent (spec/12) and the requests of its catalogue, each by its owning rule. -/

namespace Sys2Proof.Machine

/-! ## Taking a request (R170) and answering it (R171) -/

/-- The catalogue of requests (spec/12). -/
def catalogue : List Nat :=
  [0x01, 0x02, 0x03, 0x10, 0x11, 0x12, 0x13, 0x20, 0x21, 0x22, 0x23, 0x24, 0x30, 0x38, 0x39, 0x40, 0x41, 0x48, 0x49, 0x50, 0x51,
    0x52, 0x53, 0x54, 0x55, 0x58, 0x59, 0x5A, 0x60, 0x61, 0x68]

/-- R169: a broadcast message. -/
def Message.broadcast (m : Message) : Bool := m.target == 255

/-- R170: the agent may take a message. -/
def Agent.mayTake (a : Agent) (m : Message) : Bool :=
  a.inHand.isNone && a.resetPending.isNone && (m.broadcast || a.returns.length < Config.returnMax)

/-- R170: the agent with the head message taken; a message other than Reset Enable clears the reset-enable latch. -/
def Agent.taking (a : Agent) (m : Message) (rest : List Message) : Agent :=
  { a with input := rest, resetEnable := a.resetEnable && m.kind == 0x02 }

/-- R170: the head message of the input queue, where it may be taken and its kind meets a test. -/
def Agent.head (a : Agent) (kind : Nat → Bool) : Option (Message × List Message) := match a.input with
  | m :: rest => if kind m.kind && a.mayTake m then some (m, rest) else none
  | [] => none

/-- The Management Agent changed. -/
def State.modAgent (s : State) (f : Agent → Agent) : State := { s with play := { s.play with agent := f s.play.agent } }

/-- R170, R171: the reply placed, or formed and discarded for a broadcast. -/
def State.answer (s : State) (m : Message) (code : Code) (body : Body) : State :=
  if m.broadcast then s else s.modAgent fun a => a.reply s.link.address m.tag m.kind code body s.link.count

/-- What a request leaves and answers. -/
structure Answer where
  state : State
  code : Code
  body : Body
deriving DecidableEq, Repr

/-- A request refused. -/
def State.refuse (s : State) (code : Code) : Answer := ⟨s, code, .none⟩

/-- A request carried out in full, with an empty body. -/
def State.done (s : State) : Answer := ⟨s, .ok, .none⟩

/-- R16, R170: the head message of the input queue, where a request may be taken: between two samples, and by `Agent.head`. -/
def State.headOf (s : State) (kind : Nat → Bool) : Option (Message × List Message) :=
  if s.midSample then none else s.play.agent.head kind

/-- R170: a request of a kind taken and answered; without one at the head of the input queue, or while it may not be taken,
nothing happens (log 2). -/
def State.serve (s : State) (kind : Nat → Bool) (act : Message → State → Answer) : State :=
  match s.headOf kind with
  | none => s
  | some (m, rest) =>
    let x := act m (s.modAgent fun a => a.taking m rest)
    x.state.answer m x.code x.body

/-- R170: a request without parameters: its body has length 0 (log 5). -/
def State.servePlain (s : State) (kind : Nat) (act : Message → State → Answer) : State :=
  s.serve (fun k => k == kind) fun m t => if m.body.isEmpty then act m t else t.refuse .badArgument

/-- R170: a request with fields; `none` says that the body has not the length its kind requires (log 4). -/
def State.serveWith {α : Type} (s : State) (kind : Nat) (f : Option α) (act : α → Message → State → Answer) : State :=
  s.serve (fun k => k == kind) fun m t => match f with
    | some x => act x m t
    | none => t.refuse .badArgument

/-- UNKNOWN_KIND (R170). -/
def execUnknownKind (s : State) : Host.Outcome State Fault Refusal :=
  .next (s.serve (fun k => !catalogue.contains k) fun _ t => t.refuse .unknownKind)

/-! ## The agent's own requests (R173, R174) -/

/-- R173: the Identify record. -/
def State.identity (s : State) : IdentifyRecord :=
  { vendor := Config.vendorCode, part := Config.partCode, revision := Config.revision, address := s.link.address,
    regions := 24, voices := 32, blocks := Config.logicalBlocks, spares := Config.spareBlocks,
    sparesUsed := s.settings.sparesUsed, boundary := s.settings.boundary, floor := s.settings.floor,
    directory := s.play.dir.state }

/-- IDENTIFY (R173). -/
def execIdentify (s : State) : Host.Outcome State Fault Refusal :=
  .next (s.servePlain 0x01 fun _ t => ⟨t, .ok, .identify t.identity⟩)

/-- RESET_ENABLE (R174). -/
def execResetEnable (s : State) : Host.Outcome State Fault Refusal :=
  .next (s.servePlain 0x02 fun _ t => (t.modAgent fun a => { a with resetEnable := true }).done)

/-- R174: a Reset with the latch set: pending on its reply, or on the next frame boundary for a broadcast. -/
def State.pendReset (s : State) (m : Message) : State :=
  s.modAgent fun a => { a with resetPending := some (if m.broadcast then .nextBoundary else .onReply) }

/-- RESET (R174). The latch is tested as it stood when the message was taken. -/
def execReset (s : State) : Host.Outcome State Fault Refusal :=
  .next (s.servePlain 0x03 fun m t => if s.play.agent.resetEnable then (t.pendReset m).done else t.refuse .refusedState)

/-! ## Regions (R35 to R37) -/

/-- R36: Configure Region on a region that it names. -/
def State.configure (s : State) (r : Region) (f : ConfigureRegionFields) : Answer :=
  let x := s.play.region r
  if x.state != .network && x.state != .bypass then s.refuse .refusedState
  else if 1023 < f.fillerClip then s.refuse .badArgument
  else
    let st := if f.enabled then x.state else .bypass
    ({ s with play := s.play.setRegion r { x with config := configOf f, state := st } } : State).done

/-- CONFIGURE_REGION (R35, R36). -/
def execConfigureRegion (f : Option ConfigureRegionFields) (s : State) : Host.Outcome State Fault Refusal :=
  .next (s.serveWith 0x10 f fun f _ t => match regionOf f.region with
    | some r => t.configure r f
    | none => t.refuse .badArgument)

/-- R37: what a Region Status reply says of an open break. DESIGN CHOICE (log 76): once a break end has stopped the break timer, the reply
carries no samples left to run. -/
def RegionRec.breakStatus (x : RegionRec) (b : OpenBreak) (count : Nat) : BreakStatus :=
  { breakId := b.breakId, slot := b.slot, split := b.split.map SplitPoint.pos, leadInStart := b.leadInStart,
    timerLeft := if b.timerRuns then b.deadline.map fun d => d - count else none, lateStart := b.lateStart,
    fillSamples := b.fillSamples, itemsAired := b.itemsAired, endCause := b.endCause, lead := x.lead, pool := x.pool,
    run := b.run }

/-- R37: a Region Status reply. -/
def RegionRec.status (x : RegionRec) (count : Nat) : RegionStatusRecord :=
  { state := x.state, config := x.config, bed := x.bed.level, clampCount := x.clampCount, peakL := x.peakL, peakR := x.peakR,
    armLeft := if x.state = .primed then x.armDeadline.map fun d => d - count else none,
    brk := x.brk.map fun b => x.breakStatus b count }

/-- R37, R84: reading the status clears the clamp count and the peaks. -/
def RegionRec.clearPeaks (x : RegionRec) : RegionRec := { x with clampCount := 0, peakL := 0, peakR := 0 }

/-- REGION_STATUS (R37). -/
def execRegionStatus (f : Option Nat) (s : State) : Host.Outcome State Fault Refusal :=
  .next (s.serveWith 0x11 f fun n _ t => match regionOf n with
    | some r =>
      ⟨{ t with play := t.play.modRegion r RegionRec.clearPeaks }, .ok, .regionStatus ((t.play.region r).status t.link.count)⟩
    | none => t.refuse .badArgument)

/-- FORCE_NETWORK (R35); a pool voice that it returns is granted at once (R68). The reply takes its entry at the taking, before any notice
that the records raise (R171). -/
def execForceNetwork (f : Option Nat) (s : State) : Host.Outcome State Fault Refusal :=
  match f.bind regionOf, s.headOf fun k => k == 0x12 with
  | some r, some (m, rest) =>
    let t := (s.modAgent fun a => a.taking m rest).answer m .ok .none
    .next ({ t with play := t.play.forceNetwork t.now r } : State).grantReturned.settleArray
  | _, _ => .next (s.serveWith 0x12 f fun _ _ t => t.refuse .badArgument)

/-- RELEASE_BYPASS (R35). DESIGN CHOICE (log 49): a region above 23 is refused BAD_ARGUMENT. -/
def execReleaseBypass (f : Option Nat) (s : State) : Host.Outcome State Fault Refusal :=
  .next (s.serveWith 0x13 f fun n _ t => match regionOf n with
    | some r =>
      if (t.play.region r).state != .bypass || !(t.play.region r).config.enabled then t.refuse .refusedState
      else ({ t with play := t.play.setState r .network } : State).done
    | none => t.refuse .badArgument)

/-! ## Plans (R41 to R46) -/

/-- R41: a plan request on the region and slot that it names. -/
def State.onSlot (s : State) (region slot : Nat) (act : Region → Fin 16 → Slot → Answer) : Answer :=
  match regionOf region, slotOf slot with
  | some r, some n => act r n (s.play.slot r n)
  | _, _ => s.refuse .badArgument

/-- A slot written. -/
def State.putSlot (s : State) (r : Region) (n : Fin 16) (x : Slot) : State := { s with play := s.play.setSlot r n x }

/-- OPEN_PLAN (R42). -/
def execOpenPlan (f : Option OpenPlanFields) (s : State) : Host.Outcome State Fault Refusal :=
  .next (s.serveWith 0x20 f fun f _ t => t.onSlot f.region f.slot fun r n x =>
    if x.state != .empty then t.refuse .refusedState
    else match fillOf f.fillPolicy with
      | some fill => (t.putSlot r n ⟨.loading, some (planOf f fill)⟩).done
      | none => t.refuse .badArgument)

/-- R43: an item added at the end of a LOADING plan. -/
def State.append (s : State) (r : Region) (n : Fin 16) (pl : Plan) (it : PlanItem) : Answer :=
  if 12 ≤ pl.items.length then s.refuse .tableFull
  else ⟨s.putSlot r n ⟨.loading, some { pl with items := pl.items ++ [it] }⟩, .ok, .itemIndex pl.items.length⟩

/-- APPEND_ITEM (R43). Mark (log 78, DEDUCED): the fields are tested before the room in the plan. -/
def execAppendItem (f : Option AppendItemFields) (s : State) : Host.Outcome State Fault Refusal :=
  .next (s.serveWith 0x21 f fun f _ t => t.onSlot f.region f.slot fun r n x =>
    match x.state, x.plan with
    | .loading, some pl => match itemOf f with
      | some it => t.append r n pl it
      | none => t.refuse .badArgument
    | _, _ => t.refuse .refusedState)

/-- R44: a LOADING plan closed. Mark (log 82, DEDUCED): a plan with no items is refused before the break ID is compared. -/
def State.closePlan (s : State) (r : Region) (n : Fin 16) (pl : Plan) : Answer :=
  if pl.items.isEmpty then s.refuse .badArgument
  else if s.play.duplicateReady r n pl.breakId then s.refuse .duplicateBreak
  else (s.putSlot r n ⟨.ready, some pl⟩).done

/-- CLOSE_PLAN (R44). -/
def execClosePlan (f : Option SlotFields) (s : State) : Host.Outcome State Fault Refusal :=
  .next (s.serveWith 0x22 f fun f _ t => t.onSlot f.region f.slot fun r n x =>
    match x.state, x.plan with
    | .loading, some pl => t.closePlan r n pl
    | _, _ => t.refuse .refusedState)

/-- R45: what a Clear Plan makes of a slot. -/
def Slot.cleared (x : Slot) : Slot := match x.state with
  | .empty => Slot.reset
  | .loading => Slot.reset
  | .ready => Slot.reset
  | .inUse => { x with state := .retiring }
  | .retiring => x

/-- CLEAR_PLAN (R45). -/
def execClearPlan (f : Option SlotFields) (s : State) : Host.Outcome State Fault Refusal :=
  .next (s.serveWith 0x23 f fun f _ t => t.onSlot f.region f.slot fun r n x => (t.putSlot r n x.cleared).done)

/-- READ_PLAN (R46). -/
def execReadPlan (f : Option SlotFields) (s : State) : Host.Outcome State Fault Refusal :=
  .next (s.serveWith 0x24 f fun f _ t => t.onSlot f.region f.slot fun _ _ x =>
    ⟨t, .ok, .plan x.state (if x.state = .empty then none else x.plan)⟩)

/-! ## Voices (R76) -/

/-- R76: a Voice Status reply. DESIGN CHOICE (log 72): a voice that carries no ramp is returned without target and increments. -/
def Play.voiceStatus (p : Play) (v : VoiceNo) : VoiceStatusRecord :=
  let x := p.voice v
  { state := x.state, holder := x.holder, clip := x.clip, format := x.format, pos := x.pos, endPos := x.endPos, loop := x.loop,
    successor := x.successor, fader := x.fader, group := x.group, releaseAtRampEnd := x.releaseAtRampEnd, ring := x.ring,
    pending := x.pending, readClass := x.pending.map fun _ => x.readClass, dropout := x.dropout, underrun := x.underrun,
    poolFree := p.freePool.length, waiting := p.waiters }

/-- VOICE_STATUS (R76). -/
def execVoiceStatus (f : Option Nat) (s : State) : Host.Outcome State Fault Refusal :=
  .next (s.serveWith 0x30 f fun n _ t => match voiceOf n with
    | some v => ⟨t, .ok, .voiceStatus (t.play.voiceStatus v)⟩
    | none => t.refuse .badArgument)

/-! ## Levels (R90, R91) -/

/-- R90: a group request waits for the next frame boundary; a later one replaces it. -/
def State.fade (s : State) (g : GainGroup) (target ms : Nat) : State :=
  { s with levels := setGroup s.levels g { s.levels[g] with waiting := some (target, min 10000 ms) } }

/-- SET_GROUP_LEVEL (R90). -/
def execSetGroupLevel (f : Option GroupLevelFields) (s : State) : Host.Outcome State Fault Refusal :=
  .next (s.serveWith 0x38 f fun f _ t => match gainGroupOf f.group with
    | some g => if g = 0 then t.refuse .badArgument else (t.fade g f.target f.durationMs).done
    | none => t.refuse .badArgument)

/-- R91: the levels as Read Levels returns them. -/
def State.levelsShown (s : State) : List LevelRecord := allGainGroups.map fun g => s.levels[g].record

/-- READ_LEVELS (R91). -/
def execReadLevels (s : State) : Host.Outcome State Fault Refusal :=
  .next (s.servePlain 0x39 fun _ t => ⟨t, .ok, .levels t.levelsShown⟩)

/-! ## Link groups (R92, R101) -/

/-- CONFIGURE_LINK_GROUP (R92). -/
def execConfigureLinkGroup (f : Option LinkGroupFields) (s : State) : Host.Outcome State Fault Refusal :=
  .next (s.serveWith 0x40 f fun f _ t => match linkGroupOf f.group with
    | some g =>
      if (t.play.gate g).state != .closed then t.refuse .refusedState
      else ({ t with play := t.play.modGate g fun x => { x with mask := f.mask, waitMs := min 5000 f.waitMs } } : State).done
    | none => t.refuse .badArgument)

/-- GATE_STATUS (R101). -/
def execGateStatus (f : Option Nat) (s : State) : Host.Outcome State Fault Refusal :=
  .next (s.serveWith 0x41 f fun n _ t => match linkGroupOf n with
    | some g => ⟨t, .ok, .gate (t.play.gate g) t.link.count⟩
    | none => t.refuse .badArgument)

/-! ## The directory (R117, R118) -/

/-- R117: the fields of an entry that a Directory Query returns. -/
def DirEntry.line (e : DirEntry) (holders : Nat) : DirectoryLine :=
  ⟨e.clip, e.state, e.firstBlock, e.extent, e.header.format, e.header.length, e.faults, holders⟩

/-- R117: the Directory Query reply from a clip number on. -/
def Play.query (p : Play) (start : Nat) : Body :=
  let found := p.dir.entries.filter fun e => start ≤ e.clip
  let page := found.take 16
  let next := if found.length ≤ 16 then 0 else match page.getLast? with | some e => e.clip + 1 | none => 0
  .directory (page.map fun e => e.line (p.holders e.clip)) p.dir.state next

/-- DIRECTORY_QUERY (R117). -/
def execDirectoryQuery (f : Option Nat) (s : State) : Host.Outcome State Fault Refusal :=
  .next (s.serveWith 0x48 f fun n _ t =>
    if 1023 < n then t.refuse .badArgument else ⟨t, .ok, t.play.query (max 1 n)⟩)

/-- R118: the place of a clip number in the verify queue, counted from the head. DESIGN CHOICE (log 55): the head is at place 0. -/
def placeOf (clip : Nat) : Nat → List (Nat × Option Nat) → Option Nat
  | _, [] => none
  | i, q :: rest => if q.1 = clip then some i else placeOf clip (i + 1) rest

/-- The Verify Unit is verifying a clip. -/
def State.verifying (s : State) (clip : Nat) : Bool := match s.verify with
  | some j => j.clip == clip
  | none => false

/-- R118: a Clip Status reply. -/
def State.clipStatus (s : State) (clip : Nat) : ClipStatusRecord :=
  { entry := s.play.dir.find clip, holders := if (s.play.dir.find clip).isSome then s.play.holders clip else 0,
    queuePlace := placeOf clip 0 s.play.dir.queue, verifying := s.verifying clip, usable := s.play.dir.usable clip s.link.air }

/-- CLIP_STATUS (R118). -/
def execClipStatus (f : Option Nat) (s : State) : Host.Outcome State Fault Refusal :=
  .next (s.serveWith 0x49 f fun n _ t =>
    if n = 0 ∨ 1023 < n then t.refuse .badArgument else ⟨t, .ok, .clipStatus (t.clipStatus n)⟩)

/-! ## The store (R121 to R125, R131, R132) -/

/-- The Store Controller changed. -/
def State.modStore (s : State) (f : Store → Store) : State := { s with store := f s.store }

/-- Whether the directory is SCANNING (R116). -/
def State.scanning (s : State) : Bool := s.play.dir.state == .scanning

/-- STORE_UNLOCK (R121). -/
def execStoreUnlock (s : State) : Host.Outcome State Fault Refusal :=
  .next (s.servePlain 0x50 fun _ t =>
    if t.scanning then t.refuse .refusedState else (t.modStore fun st => { st with unlocked := true }).done)

/-- R122: the tests of Load Page Data. -/
def State.loadRefusal (s : State) (f : LoadFields) : Option Code :=
  firstRefusal [(s.scanning, .refusedState), (s.store.holds.isSome, .stagingBusy),
    (4095 < f.offset || f.count == 0 || 480 < f.count || f.data.length != f.count, .badArgument)]

/-- LOAD_PAGE_DATA (R122); the held buffer is tested before the arguments (log 40). -/
def execLoadPageData (f : Option LoadFields) (s : State) : Host.Outcome State Fault Refusal :=
  .next (s.serveWith 0x51 f fun f _ t => match t.loadRefusal f with
    | some c => t.refuse c
    | none => (t.modStore fun st => { st with staging := writeCells st.staging f.offset f.data }).done)

/-- R121: the unlock latch cleared. -/
def State.lock (s : State) : State := s.modStore fun st => { st with unlocked := false }

/-- R121: one of the four requests that need the latch: refused while SCANNING, then without the latch, then by its own tests; the
latch is cleared in every case. -/
def State.storeRequest {α : Type} (s : State) (kind : Nat) (f : Option α) (tests : α → State → List (Bool × Code))
    (act : α → Message → State → Answer) : State :=
  s.serve (fun k => k == kind) fun m t => match f with
    | none => t.lock.refuse .badArgument
    | some x =>
      match firstRefusal ((t.scanning, .refusedState) :: (!t.store.unlocked, .notUnlocked) :: tests x t) with
      | some c => t.lock.refuse c
      | none => act x m t.lock

/-- R127: the queue is full. -/
def Store.full (st : Store) : Bool := Config.storeQueueMax ≤ st.queue.length

/-- An operation joins the tail of the queue. -/
def State.enqueue (s : State) (op : StoreOp) : State := s.modStore fun st => { st with queue := st.queue ++ [op] }

/-- A block inside the extent of a registered entry. -/
def Directory.taken (d : Directory) (block : Nat) : Bool := d.entries.any fun e => e.covers block

/-- A run of blocks that meets the extent of a registered entry. -/
def Directory.meets (d : Directory) (first extent : Nat) : Bool :=
  d.entries.any fun e => e.firstBlock < first + extent && first < e.firstBlock + e.extent

/-- R123, tests 7a to 7c: what a head page in the buffer is refused for. -/
def State.headTests (s : State) (page : Nat) : List (Bool × Code) :=
  if page % Config.pagesPerBlock = 0 then
    match s.store.stagedHeader with
    | .noMagic => []
    | .malformed => [(true, .badHeader)]
    | .header clip h =>
      let block := page / Config.pagesPerBlock
      [((s.play.dir.find clip).isSome, .duplicateClip),
        (!extentFits block h.extent || s.play.dir.meets block h.extent, .overlap)]
  else []

/-- R123: the tests of Commit Page in their order, after the latch. -/
def State.commitTests (page : Nat) (s : State) : List (Bool × Code) :=
  let block := page / Config.pagesPerBlock
  [(s.store.holds.isSome, .stagingBusy), (Config.logicalPages ≤ page, .badArgument), (block < s.store.pStar, .protectedBlock),
    (s.settings.worn.contains block, .worn), (s.play.dir.taken block, .clipPresent)] ++ s.headTests page ++
    [(s.store.full, .storeFull)]

/-- R123: the note of a head header that the commit carries. -/
def State.headNote (s : State) (page : Nat) : Option (Nat × Nat) :=
  if page % Config.pagesPerBlock = 0 then match s.store.stagedHeader with
    | .header clip h => some (clip, h.extent)
    | _ => none
  else none

/-- COMMIT_PAGE (R121, R123). -/
def execCommitPage (f : Option Nat) (s : State) : Host.Outcome State Fault Refusal :=
  .next (s.storeRequest 0x52 f State.commitTests fun page m t =>
    ⟨(t.enqueue (.commit page m.tag (t.headNote page))).modStore fun st => { st with holds := some page }, .accepted, .none⟩)

/-- The current operation and the waiting ones. -/
def Store.operations (st : Store) : List StoreOp := (st.current.map Current.op).toList ++ st.queue

/-- R125, test 5: a block in the extent that a queued or current head commit will register. -/
def StoreOp.claims (op : StoreOp) (block : Nat) : Bool := match op with
  | .commit _ _ (some (_, extent)) => op.block ≤ block && block < op.block + extent
  | _ => false

/-- R125: the tests of Erase Block in their order, after the latch. -/
def State.eraseTests (block : Nat) (s : State) : List (Bool × Code) :=
  let first := s.play.dir.ofFirstBlock block
  [(Config.logicalBlocks ≤ block, .badArgument), (block < s.store.pStar, .protectedBlock),
    (s.settings.worn.contains block, .worn),
    ((s.play.dir.taken block && first.isNone) || s.store.operations.any fun op => op.claims block, .clipPresent),
    ((match first with | some e => e.state == .retiring | none => false), .clipPresent),
    ((match first with | some e => 0 < s.play.holders e.clip | none => false), .clipInUse),
    (s.store.full, .storeFull)]

/-- R112: the entry whose first block is to be erased goes to RETIRING. -/
def State.retire (s : State) (block : Nat) : State := match s.play.dir.ofFirstBlock block with
  | some e => (s.modDir fun d => d.modify e.clip fun x => { x with state := .retiring }).cancelVerify e.clip
  | none => s

/-- ERASE_BLOCK (R112, R121, R125). -/
def execEraseBlock (f : Option Nat) (s : State) : Host.Outcome State Fault Refusal :=
  .next (s.storeRequest 0x53 f State.eraseTests fun block m t =>
    ⟨(t.enqueue (.erase block m.tag)).retire block, .accepted, .none⟩)

/-- R131: the tests of Set Protect Boundary, after the latch. -/
def State.boundaryRefusals (value : Nat) (s : State) : List (Bool × Code) :=
  [(Config.logicalBlocks < value, .badArgument), (s.store.full, .storeFull)]

/-- R131: the boundary in effect: not below L*. -/
def Store.effective (st : Store) (value : Nat) : Nat := max st.lStar value

/-- SET_PROTECT_BOUNDARY (R121, R130, R131). -/
def execSetProtectBoundary (f : Option Nat) (s : State) : Host.Outcome State Fault Refusal :=
  .next (s.storeRequest 0x54 f State.boundaryRefusals fun value m t =>
    let v := t.store.effective value
    ⟨(t.enqueue (.boundary v m.tag)).modStore fun st => { st with pStar := v }, .accepted, .boundary v⟩)

/-- R132: the tests of Raise Lock Floor, after the latch. -/
def State.floorRefusals (value : Nat) (s : State) : List (Bool × Code) :=
  [(Config.logicalBlocks < value, .badArgument), (value < s.store.lStar, .badArgument), (s.store.full, .storeFull)]

/-- RAISE_LOCK_FLOOR (R121, R130, R132). -/
def execRaiseLockFloor (f : Option Nat) (s : State) : Host.Outcome State Fault Refusal :=
  .next (s.storeRequest 0x55 f State.floorRefusals fun value m t =>
    let p := max t.store.pStar value
    ⟨(t.enqueue (.floor value p m.tag)).modStore fun st => { st with pStar := p, lStar := value }, .accepted,
      .lockFloor value p⟩)

/-! ## Verify Clip, Read Page, Remap Status (R140, R141, R146) -/

/-- A clip number waits in the verify queue. -/
def Directory.queued (d : Directory) (clip : Nat) : Bool := d.queue.any fun q => q.1 == clip

/-- R140: the tests of Verify Clip. -/
def State.verifyTests (s : State) (clip : Nat) : List (Bool × Code) :=
  let e := s.play.dir.find clip
  [(s.scanning, .refusedState), (clip == 0 || 1023 < clip, .badArgument), (e.isNone, .notFound),
    ((match e with | some e => e.state == .unverified || e.state == .retiring | none => false), .refusedState),
    (s.play.dir.queued clip || s.verifying clip, .refusedState)]

/-- VERIFY_CLIP (R107, R140). -/
def execVerifyClip (f : Option Nat) (s : State) : Host.Outcome State Fault Refusal :=
  .next (s.serveWith 0x58 f fun clip m t => match firstRefusal (t.verifyTests clip) with
    | some c => t.refuse c
    | none => ⟨t.modDir fun d => { d with queue := d.queue ++ [(clip, some m.tag)] }, .accepted, .none⟩)

/-- R141: the tests of Read Page. -/
def badReadPage (f : ReadPageFields) : Bool :=
  Config.logicalPages ≤ f.page || 4095 < f.offset || f.count == 0 || 480 < f.count || 4096 < f.offset + f.count

/-- R141: an accepted Read Page stays in hand until its read is delivered. -/
def State.holdRead (s : State) (m : Message) (f : ReadPageFields) : State :=
  s.modAgent fun a => { a with inHand := some ⟨m.broadcast, m.tag, f⟩ }

/-- READ_PAGE (R141). -/
def execReadPage (f : Option ReadPageFields) (s : State) : Host.Outcome State Fault Refusal :=
  .next (match f, s.headOf fun k => k == 0x59 with
    | some g, some (m, rest) =>
      let t := s.modAgent fun a => a.taking m rest
      if badReadPage g then t.answer m .badArgument .none else t.holdRead m g
    | _, _ => s.serveWith 0x59 f fun _ _ t => t.refuse .badArgument)

/-- R146: the kind and the target of an operation at a step: the block of a relocation or remap, once its failed program or erase has
ended (log 62). -/
def StoreOp.shown (op : StoreOp) : Stage → OperationKind × Option Nat
  | .program => (.commit, match op with | .commit page .. => some page | _ => none)
  | .erase => (.erase, some op.block)
  | .settings => (match op with | .floor .. => .floor | _ => .boundary, none)
  | .relocErase _ => (.relocation, some op.block)
  | .relocRead .. => (.relocation, some op.block)
  | .relocProgram .. => (.relocation, some op.block)
  | .relocStaged _ => (.relocation, some op.block)
  | .relocInstall _ => (.relocation, some op.block)
  | .relocWorn _ => (.relocation, some op.block)
  | .remapInstall _ => (.remap, some op.block)
  | .remapErase _ => (.remap, some op.block)
  | .remapWorn _ => (.remap, some op.block)

/-- R146: the current array operation in a Remap Status reply. -/
def Current.record (c : Current) : OperationRecord :=
  ⟨(c.op.shown c.stage).1, (c.op.shown c.stage).2, c.op.tag, c.phase, c.suspensions⟩

/-- R146: a Remap Status reply from an entry position on. -/
def State.remapBody (s : State) (start : Nat) : Body :=
  .remap s.settings.remap.length s.settings.spent.length (Config.spareBlocks - s.settings.sparesUsed)
    ((s.settings.remap.drop start).take 32) s.settings.worn s.settings.boundary s.settings.floor
    (s.store.current.map Current.record)

/-- REMAP_STATUS (R146). -/
def execRemapStatus (f : Option Nat) (s : State) : Host.Outcome State Fault Refusal :=
  .next (s.serveWith 0x5A f fun n _ t => if 255 < n then t.refuse .badArgument else ⟨t, .ok, t.remapBody n⟩)

/-! ## The As-Run Log (R151 to R153) -/

/-- R151, R153: `n` records leave the log; below 2,048 held it is ARMED again. -/
def AsRunLog.fetch (l : AsRunLog) (n : Nat) : AsRunLog :=
  let k := min n l.records.length
  { l with
    records := l.records.drop k, fetched := l.fetched + BitVec.ofNat 48 k
    raised := l.raised && decide (2048 ≤ l.records.length - k) }

/-- FETCH_AS_RUN (R151, R153). -/
def execFetchAsRun (f : Option Nat) (s : State) : Host.Outcome State Fault Refusal :=
  .next (s.serveWith 0x60 f fun n _ t =>
    let l := t.play.log.fetch (fetchCount n)
    ⟨{ t with play := { t.play with log := l } }, .ok, .records (t.play.log.records.take (fetchCount n)) l.records.length⟩)

/-- R152: the log sequence of the next record. -/
def AsRunLog.nextSeq (l : AsRunLog) : Nat := l.appended.toNat % 2 ^ 32

/-- R152: the log sequence of the oldest record held. -/
def AsRunLog.oldestSeq (l : AsRunLog) : Nat := match l.records with
  | r :: _ => r.seq
  | [] => l.nextSeq

/-- AS_RUN_STATUS (R152). -/
def execAsRunStatus (s : State) : Host.Outcome State Fault Refusal :=
  .next (s.servePlain 0x61 fun _ t =>
    let l := t.play.log
    ⟨t, .ok, .asRun l.records.length l.appended l.fetched l.overwritten l.oldestSeq l.nextSeq l.raised⟩)

/-! ## Link Status (R167) -/

/-- LINK_STATUS (R10, R167). -/
def execLinkStatus (s : State) : Host.Outcome State Fault Refusal :=
  .next (s.servePlain 0x68 fun _ t =>
    let l := t.link
    ⟨t, .ok, .link l.state l.expected l.consecutive l.lockRun l.air l.count l.counts t.cues.dropped t.cues.table.length⟩)

end Sys2Proof.Machine
end

