-- ==== Sys2Proof/Machine/Dispatch.lean ====
section
/-! DEFINITION. The meaning of every command, one arm per constructor. -/

namespace Sys2Proof.Machine

def exec (i : Instr) (s : State) : Host.Outcome State Fault Refusal :=
  match i with
  | .powerOn pins => Sys2Proof.Machine.execPowerOn pins s
  | .programmeFrameArrival bytes => Sys2Proof.Machine.execProgrammeFrameArrival bytes s
  | .framePeriodEvent => Sys2Proof.Machine.execFramePeriodEvent s
  | .gateDeadline g => Sys2Proof.Machine.execGateDeadline g s
  | .joinDeadline g => Sys2Proof.Machine.execJoinDeadline g s
  | .gateOpening g => Sys2Proof.Machine.execGateOpening g s
  | .cueDispatch r => Sys2Proof.Machine.execCueDispatch r s
  | .leadInStart r => Sys2Proof.Machine.execLeadInStart r s
  | .armTimerExpiry r => Sys2Proof.Machine.execArmTimerExpiry r s
  | .breakTimerExpiry r => Sys2Proof.Machine.execBreakTimerExpiry r s
  | .rampCompletion h => Sys2Proof.Machine.execRampCompletion h s
  | .itemEnd v => Sys2Proof.Machine.execItemEnd v s
  | .loopWrap v => Sys2Proof.Machine.execLoopWrap v s
  | .primedEntryStart r => Sys2Proof.Machine.execPrimedEntryStart r s
  | .fillerStartAfterSkip r => Sys2Proof.Machine.execFillerStartAfterSkip r s
  | .poolRequest r => Sys2Proof.Machine.execPoolRequest r s
  | .decisionPoint r => Sys2Proof.Machine.execDecisionPoint r s
  | .mixStart r => Sys2Proof.Machine.execMixStart r s
  | .lateCrossfadeStart r => Sys2Proof.Machine.execLateCrossfadeStart r s
  | .readStart => Sys2Proof.Machine.execReadStart s
  | .readDelivery first second third => Sys2Proof.Machine.execReadDelivery first second third s
  | .verifyTake => Sys2Proof.Machine.execVerifyTake s
  | .storeOperationStart => Sys2Proof.Machine.execStoreOperationStart s
  | .pageProgramComplete pass => Sys2Proof.Machine.execPageProgramComplete pass s
  | .blockEraseComplete pass => Sys2Proof.Machine.execBlockEraseComplete pass s
  | .eraseSuspended => Sys2Proof.Machine.execEraseSuspended s
  | .settingsWriteComplete => Sys2Proof.Machine.execSettingsWriteComplete s
  | .softReset => Sys2Proof.Machine.execSoftReset s
  | .unknownKind => Sys2Proof.Machine.execUnknownKind s
  | .identify => Sys2Proof.Machine.execIdentify s
  | .resetEnable => Sys2Proof.Machine.execResetEnable s
  | .reset => Sys2Proof.Machine.execReset s
  | .configureRegion f => Sys2Proof.Machine.execConfigureRegion f s
  | .regionStatus f => Sys2Proof.Machine.execRegionStatus f s
  | .forceNetwork f => Sys2Proof.Machine.execForceNetwork f s
  | .releaseBypass f => Sys2Proof.Machine.execReleaseBypass f s
  | .openPlan f => Sys2Proof.Machine.execOpenPlan f s
  | .appendItem f => Sys2Proof.Machine.execAppendItem f s
  | .closePlan f => Sys2Proof.Machine.execClosePlan f s
  | .clearPlan f => Sys2Proof.Machine.execClearPlan f s
  | .readPlan f => Sys2Proof.Machine.execReadPlan f s
  | .voiceStatus f => Sys2Proof.Machine.execVoiceStatus f s
  | .setGroupLevel f => Sys2Proof.Machine.execSetGroupLevel f s
  | .readLevels => Sys2Proof.Machine.execReadLevels s
  | .configureLinkGroup f => Sys2Proof.Machine.execConfigureLinkGroup f s
  | .gateStatus f => Sys2Proof.Machine.execGateStatus f s
  | .directoryQuery f => Sys2Proof.Machine.execDirectoryQuery f s
  | .clipStatus f => Sys2Proof.Machine.execClipStatus f s
  | .storeUnlock => Sys2Proof.Machine.execStoreUnlock s
  | .loadPageData f => Sys2Proof.Machine.execLoadPageData f s
  | .commitPage f => Sys2Proof.Machine.execCommitPage f s
  | .eraseBlock f => Sys2Proof.Machine.execEraseBlock f s
  | .setProtectBoundary f => Sys2Proof.Machine.execSetProtectBoundary f s
  | .raiseLockFloor f => Sys2Proof.Machine.execRaiseLockFloor f s
  | .verifyClip f => Sys2Proof.Machine.execVerifyClip f s
  | .readPage f => Sys2Proof.Machine.execReadPage f s
  | .remapStatus f => Sys2Proof.Machine.execRemapStatus f s
  | .fetchAsRun f => Sys2Proof.Machine.execFetchAsRun f s
  | .asRunStatus => Sys2Proof.Machine.execAsRunStatus s
  | .linkStatus => Sys2Proof.Machine.execLinkStatus s

end Sys2Proof.Machine
end

