-- ==== Sys2Proof/Safety.lean ====
section
/-! DEFINITION. The words in which claims about the block are made: a request that is taken and answered, and the invariants that
every step keeps. -/

namespace Sys2Proof.Machine

/-! ## Requests -/

/-- The Management Agent may take its head message, which has a kind (R170): between two samples (R16), with no request in hand and no
reset pending, and with room for the reply. -/
structure Takes (s : State) (kind : Nat) (m : Message) (rest : List Message) : Prop where
  between : s.midSample = false
  input : s.play.agent.input = m :: rest
  kind : m.kind = kind
  free : s.play.agent.inHand = none
  calm : s.play.agent.resetPending = none
  room : m.target = 255 ∨ s.play.agent.returns.length < 32

/-- The agent once the head message has been taken: the message gone, the reset-enable latch clear unless the message is a Reset
Enable (R170). -/
def Agent.less (a : Agent) (m : Message) (rest : List Message) : Agent :=
  { a with input := rest, resetEnable := a.resetEnable && m.kind == 2 }

/-- The replies that a request adds to the return queue: one, or none for a broadcast (R170, R171). -/
def repliesTo (s : State) (m : Message) (code : Code) (body : Body) : List QueueEntry :=
  if m.target = 255 then [] else [⟨s.link.address, m.tag, .reply m.kind code body, s.link.count⟩]

/-- The agent after a request that is answered at its taking. -/
def State.agentAfter (s : State) (m : Message) (rest : List Message) (code : Code) (body : Body) : Agent :=
  { s.play.agent.less m rest with returns := s.play.agent.returns ++ repliesTo s m code body }

/-- The state after a request that changes nothing but the Management Agent. -/
def State.answered (s : State) (m : Message) (rest : List Message) (code : Code) (body : Body) : State :=
  { s with play := { s.play with agent := s.agentAfter m rest code body } }

/-! ## Region events -/

/-- The state after a region event that leaves the on-air blocks `p`: the sample begun, its arrivals and pool requests settled where no
other event of it is due, and the array turned to what is pending (log 23). -/
def State.after (s : State) (p : Play) : State := ({ s with play := p, midSample := true } : State).settle

/-- The state after something outside a region event that leaves the on-air blocks `p`: a pool voice that it has returned granted (R68),
and the array turned to what is pending. -/
def State.between (s : State) (p : Play) : State := ({ s with play := p } : State).grantReturned.settleArray

/-- A notice raised by the part at the present sample stands in the return queue. Between two samples that is the next one (log 71). -/
def State.notified (s : State) (p : Play) (tag : Nat) (n : Notice) : Prop :=
  (⟨s.link.address, tag, .notice n, s.link.count⟩ : QueueEntry) ∈ p.agent.returns

/-- A held entry has started on its region: the region in LOCAL with the bed cut to 0, its lead voice PLAYING, and the entry PLAYING
from the present sample. -/
def HeldStarted (s : State) (r : Region) (p : Play) : Prop :=
  ∀ b v e, (s.play.region r).brk = some b → (s.play.region r).lead = some v → nextPending b.run = some e →
    (p.region r).state = .localPlay ∧ (p.region r).bed = ⟨0, none⟩ ∧ (p.voice v).state = .playing ∧
      (p.region r).lead = some v ∧
      ∃ b', (p.region r).brk = some b' ∧ b'.itemsAired = b.itemsAired + 1 ∧
        ∀ x ∈ b'.run, x.index = e.index → x.status = .playing ∧ x.start = some ⟨s.periodSeq, s.sample⟩

/-- The entry of an index, which no voice of the region was playing, is SKIPPED with reason GATE in the open break (R98, R99). -/
def GateSkipped (p q : Play) (r : Region) (i : Nat) : Prop :=
  ∃ b, (q.region r).brk = some b ∧ (∃ x ∈ b.run, x.index = i) ∧ ∀ x ∈ b.run, x.index = i → x.status ≠ .pending ∧
    ((∀ u ∈ p.voicesOf r, (p.voice u).state = .playing → (p.voice u).run ≠ some i) → x.status = .skipped .gate)

/-- A held entry has been started at a gate, `skip` samples in (R96, R98): the region in LOCAL with the bed cut to 0, its lead voice
PLAYING from the advanced position, and the entry PLAYING from the instant, with JOINED_LATE as given. -/
def JoinedAt (p q : Play) (t : Now) (r : Region) (v : VoiceNo) (e : RunEntry) (skip : Nat) (late : Bool) : Prop :=
  (q.region r).state = .localPlay ∧ (q.region r).bed = ⟨0, none⟩ ∧ (q.region r).lead = some v ∧ (q.voice v).state = .playing ∧
    (q.voice v).pos = (p.voice v).pos + skip ∧ (q.voice v).endPos = (p.voice v).endPos ∧
    ∃ b, (q.region r).brk = some b ∧ (∃ x ∈ b.run, x.index = e.index) ∧
      ∀ x ∈ b.run, x.index = e.index → x.status = .playing ∧ x.start = some t.pos ∧ (e.flags.joinedLate = false → x.flags.joinedLate = late)

/-- A run entry of the list that a warm split leaves, against what fitting gave: only its start may have changed. -/
def SameFit (e x : RunEntry) : Prop :=
  x.index = e.index ∧ x.clip = e.clip ∧ x.effective = e.effective ∧ x.overlap = e.overlap ∧ x.level = e.level ∧ x.link = e.link ∧
    (x.status = e.status ∨ e.status = .pending ∧ x.status = .playing)

/-- The ITEM records that a split appends for the entries that fitting skipped, in run order, each with the split air time and no sample
played (R21, R147). -/
def skipRecords (r : Region) (breakId : Nat) (run : List RunEntry) (air : AirTime) : List AsRunBody := run.filterMap fun e =>
  match e.status with
  | .skipped why => some (.item ⟨r, breakId, e.index, e.clip, air, e.played, .skipped why, { e.flags with substituted := false }⟩)
  | _ => none

/-- Records appended one behind the other. -/
def Play.appendAll (p : Play) (t : Now) (l : List AsRunBody) : Play := l.foldl (fun q x => q.appendRecord t x) p

/-- The split air time of a break that has been split. -/
def OpenBreak.splitAir (b : OpenBreak) : AirTime := match b.split with
  | some x => x.air
  | none => ⟨0, 0⟩

/-- The air time at a position that lies some samples before the present one (R21): the present air time at the position itself, and
otherwise that of the period, of the three held, in which the position lies (log 17). -/
def State.airOf (s : State) (lateness : Nat) : AirTime :=
  if lateness = 0 then s.link.air
  else if lateness ≤ 48 then s.link.airHistory.getD 0 s.link.air
  else if lateness ≤ 96 then s.link.airHistory.getD 1 s.link.air
  else s.link.airHistory.getD 2 s.link.air

/-- A break split by a cue (R21, R22): the split point at the cue's target, with the count that lies the lateness back and the air time
there, and the break timer running to its deadline. -/
def SplitBy (s : State) (r : Region) (c : PendingCue) (b : OpenBreak) : Prop :=
  let at' := s.link.count - c.lateness s.periodSeq
  b.breakId = c.breakId ∧ b.timerRuns = true ∧
    (∃ x, b.split = some x ∧ x.pos = c.target ∧ x.count = at' ∧ x.air = s.airOf (c.lateness s.periodSeq)) ∧
    b.deadline = some (at' +
      ((if c.nominal = 0 then (s.play.region r).config.maxBreakMs else c.nominal) + (s.play.region r).config.overrunMs) * 48)

/-- The home voice of a region is being primed with a kept entry (R17, R60). -/
def PrimedWith (p : Play) (r : Region) (e : RunEntry) : Prop :=
  let v := p.voice (homeVoice r)
  v.state = .priming ∧ v.clip = some e.clip ∧ v.pos = 0 ∧ v.endPos = e.effective.getD 0 ∧ v.fader = ⟨e.level, none⟩ ∧ v.group = e.group ∧
    v.loop = false ∧ v.ring = []

/-- The home voice of a region is being primed with the filler: from its head to the clip's length, looping, at the filler level in
group 0 (R17, R29). -/
def FillerPrimed (s : State) (p : Play) (r : Region) : Prop :=
  let v := p.voice (homeVoice r)
  let c := (s.play.region r).config
  v.state = .priming ∧ v.clip = some c.fillerClip ∧ v.pos = 0 ∧ v.fader = ⟨c.fillerLevel, none⟩ ∧ v.group = 0 ∧ v.loop = true ∧
    v.ring = [] ∧ ∀ x, s.play.dir.find c.fillerClip = some x → v.endPos = x.header.length

/-- A break has been closed with a cause (R33): the region in NETWORK with no break open, and the BREAK record at the tail of the log. -/
def BreakClosed (s : State) (p : Play) (r : Region) (b : OpenBreak) (cause : EndCause) : Prop :=
  (p.region r).state = .network ∧ (p.region r).brk = none ∧ (p.region r).bed = ⟨231, none⟩ ∧
    ∃ l n x, p.log.records = l ++ [⟨n, .brk x⟩] ∧ x.region = r ∧ x.breakId = b.breakId ∧ x.cause = cause ∧ x.close = s.link.air

/-- A closing lead-out is under way while only voices still ramp (R32): the bed at 231, the timer stopped, no entry left PENDING. -/
def LeadOutOpen (p : Play) (r : Region) (cause : EndCause) : Prop :=
  (p.region r).state = .leadout ∧ (p.region r).bed = ⟨231, none⟩ ∧
    ∃ b, (p.region r).brk = some b ∧ b.endCause = some cause ∧ b.closing = true ∧ b.timerRuns = false ∧ ∀ e ∈ b.run, e.status ≠ .pending

/-- A voice that a lead-out of this sample ramps out (R32): PLAYING above level 0, not at its item end, and no start of the sample to be
undone. -/
def RampsOut (s : State) (b : OpenBreak) (v : VoiceNo) : Prop :=
  let x := s.play.voice v
  x.state = .playing ∧ x.itemEndDue = false ∧ x.startedAt ≠ some s.link.count ∧ x.fader.level ≠ 0 ∧
    ∀ k, b.before = some k → k.count ≠ s.link.count

/-- The bed at a break end: as it was before a start of the same sample, which the break end undoes (R32, log 60). -/
def OpenBreak.bedBefore (b : OpenBreak) (count : Nat) (bed : Fader) : Fader := match b.before with
  | some k => if k.count = count then k.bed else bed
  | none => bed

/-! ## Ramps and the log -/

/-- `n` samples of a fader. -/
def faderAfter (f : Fader) : Nat → Fader
  | 0 => f
  | n + 1 => (faderAfter f n).advance

/-- The log balances: records appended equal those fetched, overwritten and held, at most 4,096 are held, and their log sequences run
on by 1 up to the appended count, modulo 2^32. -/
def AsRunLog.Balanced (l : AsRunLog) : Prop :=
  l.appended.toNat = l.fetched.toNat + l.overwritten.toNat + l.records.length ∧ l.records.length ≤ 4096 ∧
    ∀ i x, l.records[i]? = some x → x.seq = (l.appended.toNat - l.records.length + i) % 2 ^ 32

/-- The records of the log after an append but for the new one: all that were held, or all but the oldest of a full log (R150). -/
def AsRunLog.room (l : AsRunLog) : List AsRunRecord := if l.records.length < 4096 then l.records else l.records.drop 1

/-! ## The state after power-on (the table of spec/12) -/

/-- A region as power-on and soft reset leave it (R15, R38). -/
def RegionAtReset (x : RegionRec) : Prop :=
  x.state = .network ∧ x.bed = ⟨231, none⟩ ∧ x.config = ⟨true, 0, 231, 151, 2000, 360000, 30⟩ ∧ x.brk = none ∧
    x.armDeadline = none ∧ x.lead = none ∧ x.pool = none ∧ x.clampCount = 0 ∧ x.peakL = 0 ∧ x.peakR = 0

/-- A voice as power-on and soft reset leave it (R77): IDLE, a home voice held by its region, a pool voice by none. -/
def VoiceAtReset (v : VoiceNo) (x : Voice) : Prop :=
  x.state = .idle ∧ x.holder = (if h : v.val < 24 then some ⟨v.val, h⟩ else none) ∧ x.clip = none ∧ x.successor = none ∧
    x.fader.ramp = none ∧ x.ring = [] ∧ x.pending = none ∧ x.dropout = false ∧ x.underrun = false

/-- A gate as power-on and soft reset leave it (R92, R93). -/
def GateAtReset (x : Gate) : Prop :=
  x.mask = 0 ∧ x.waitMs = 2000 ∧ x.state = .closed ∧ x.breakId = none ∧ x.expected = 0 ∧ x.arrived = [] ∧ x.missed = [] ∧
    x.deadline = none ∧ x.openPoint = none ∧ x.joinDeadline = none

/-- The blocks that power-on and soft reset take to one state (the table of spec/12), over the Settings Area that stands. -/
structure BlocksAtReset (t : State) : Prop where
  cues : t.cues = ⟨[], [], [], 0⟩
  regions : ∀ r, RegionAtReset (t.play.region r)
  slots : ∀ r n, t.play.slot r n = ⟨.empty, none⟩
  voices : ∀ v, VoiceAtReset v (t.play.voice v)
  waiters : t.play.waiters = []
  levels : ∀ g : GainGroup, t.levels[g] = ⟨⟨231, none⟩, none, 231⟩
  gates : ∀ g, GateAtReset (t.play.gate g)
  dirState : t.play.dir.state = .scanning
  entries : t.play.dir.entries = []
  verifyQueue : t.play.dir.queue = []
  scan : t.play.dir.scan.registered = 0 ∧ t.play.dir.scan.duplicates = 0 ∧ t.play.dir.scan.unreadable = 0
  verify : t.verify = none
  store : t.store = ⟨false, [], none, [], none, t.settings.boundary, t.settings.floor⟩
  log : t.play.log = ⟨[], 0, 0, 0, false⟩
  agent : t.play.agent = ⟨[], none, [], false, none, false, false⟩

/-- The link after a valid frame has been counted (R155). -/
def Link.counted (l : Link) : Link :=
  { l with arrived := true, counts := { l.counts with valid := min (2 ^ 32 - 1) (l.counts.valid + 1) } }

/-- The catalogue code of a command that is a request (spec/12). -/
def requestKind : Instr → Option Nat
  | .identify => some 0x01
  | .resetEnable => some 0x02
  | .reset => some 0x03
  | .configureRegion _ => some 0x10
  | .regionStatus _ => some 0x11
  | .forceNetwork _ => some 0x12
  | .releaseBypass _ => some 0x13
  | .openPlan _ => some 0x20
  | .appendItem _ => some 0x21
  | .closePlan _ => some 0x22
  | .clearPlan _ => some 0x23
  | .readPlan _ => some 0x24
  | .voiceStatus _ => some 0x30
  | .setGroupLevel _ => some 0x38
  | .readLevels => some 0x39
  | .configureLinkGroup _ => some 0x40
  | .gateStatus _ => some 0x41
  | .directoryQuery _ => some 0x48
  | .clipStatus _ => some 0x49
  | .storeUnlock => some 0x50
  | .loadPageData _ => some 0x51
  | .commitPage _ => some 0x52
  | .eraseBlock _ => some 0x53
  | .setProtectBoundary _ => some 0x54
  | .raiseLockFloor _ => some 0x55
  | .verifyClip _ => some 0x58
  | .readPage _ => some 0x59
  | .remapStatus _ => some 0x5A
  | .fetchAsRun _ => some 0x60
  | .asRunStatus => some 0x61
  | .linkStatus => some 0x68
  | _ => none

/-! ## The lock floor (R130) -/

/-- The protect boundary and lock floor that a store operation will leave. -/
def StoreOp.leaves (now : Nat × Nat) : StoreOp → Nat × Nat
  | .boundary v _ => (v, now.2)
  | .floor f b _ => (b, f)
  | .commit .. => now
  | .erase .. => now

/-- A run of store operations takes the pair `now` to the pair `last`, at no point with the boundary below the floor, above 32,768, or
with the floor lowered. -/
def climbs : Nat × Nat → List StoreOp → Nat × Nat → Prop
  | now, [], last => now = last
  | now, op :: rest, last =>
    (op.leaves now).2 ≤ (op.leaves now).1 ∧ (op.leaves now).1 ≤ 32768 ∧ now.2 ≤ (op.leaves now).2 ∧
      climbs (op.leaves now) rest last

/-- Whether an operation is a settings write of Set Protect Boundary or Raise Lock Floor. -/
def StoreOp.setting : StoreOp → Bool
  | .boundary .. => true
  | .floor .. => true
  | .commit .. => false
  | .erase .. => false

/-- The lock invariant: the boundary is not below the floor, the current and waiting operations keep it so and end in P* and L*,
and a current operation is at the stage of its kind. -/
structure LockInv (s : State) : Prop where
  fence : s.settings.floor ≤ s.settings.boundary
  range : s.settings.boundary ≤ 32768
  queue : climbs (s.settings.boundary, s.settings.floor) s.store.operations (s.store.pStar, s.store.lStar)
  stage : ∀ c, s.store.current = some c → (c.stage = .settings ↔ c.op.setting = true)

/-! ## The tables and queues -/

/-- Two cues are the same (R4). -/
def SameCue (a b : PendingCue) : Prop := a.kind = b.kind ∧ a.breakId = b.breakId ∧ a.target = b.target

/-- The Cue Unit in its bounds: at most 8 pending cues, no two the same, at most 16 in the history, the dropped count at most 65,535
(R5, R9, R10). -/
structure CueInv (u : CueUnit) : Prop where
  table : u.table.length ≤ 8
  distinct : u.table.Pairwise fun a b => ¬ SameCue a b
  history : u.history.length ≤ 16
  dropped : u.dropped ≤ 65535

/-- A slot is held by an open break. -/
def SlotState.held : SlotState → Prop
  | .inUse => True
  | .retiring => True
  | .empty => False
  | .loading => False
  | .ready => False

/-- The slots of one region: no two READY with one break ID (R44); a break open exactly outside NETWORK and BYPASS, its slot the one that
is held (R39), its run entries in item order (R48); a plan in every slot that is not EMPTY. -/
structure SlotInv (p : Play) (r : Region) : Prop where
  ready : ∀ n m pl pl', n ≠ m → p.slot r n = ⟨.ready, some pl⟩ → p.slot r m = ⟨.ready, some pl'⟩ → pl.breakId ≠ pl'.breakId
  states : (p.region r).brk = none ↔ (p.region r).state = .network ∨ (p.region r).state = .bypass
  held : ∀ n, (p.slot r n).state.held ↔ ∃ b, (p.region r).brk = some b ∧ b.slot = n
  plan : ∀ n, (p.slot r n).plan = none ↔ (p.slot r n).state = .empty
  run : ∀ b, (p.region r).brk = some b → (b.run.map RunEntry.index).Pairwise (· < ·)

/-- A store operation is a commit. -/
def StoreOp.commits : StoreOp → Bool
  | .commit .. => true
  | .erase .. => false
  | .boundary .. => false
  | .floor .. => false

/-- The queues in their bounds (R127, R169, R171, R172): at most 16 messages waiting; at most 32 return entries, the one held for an
addressed Read Page counted; at most 24 notices; at most 8 store operations waiting. -/
structure QueueInv (s : State) : Prop where
  input : s.play.agent.input.length ≤ 16
  returns : s.play.agent.returns.length +
    (match s.play.agent.inHand with | some j => if j.broadcast then 0 else 1 | none => 0) ≤ 32
  notices : (s.play.agent.returns.filter QueueEntry.isNotice).length ≤ 24
  store : s.store.queue.length ≤ 8

/-- Two runs of blocks have none in common. -/
def apart (a n b m : Nat) : Prop := a + n ≤ b ∨ b + m ≤ a

/-- The directory (R104, R123): entries in ascending clip number with disjoint extents; a scan ahead of all it has registered, with no
commit waiting; and one commit at most, which holds the staging buffer, and whose staged header names a clip and an extent that are
free. -/
structure DirInv (s : State) : Prop where
  sorted : s.play.dir.entries.Pairwise fun a b => a.clip < b.clip
  disjoint : s.play.dir.entries.Pairwise fun a b => apart a.firstBlock a.extent b.firstBlock b.extent
  scan : s.play.dir.state = .scanning → (∀ e ∈ s.play.dir.entries, e.firstBlock + e.extent ≤ s.play.dir.scan.next) ∧
    ∀ op ∈ s.store.operations, op.commits = false
  read : ∀ f, s.inFlight = some f → f.who = .scan → s.play.dir.state = .scanning
  one : (s.store.operations.filter StoreOp.commits).length ≤ 1
  holds : ∀ page tag head, StoreOp.commit page tag head ∈ s.store.operations → s.store.holds = some page
  claim : ∀ page tag x clip h, StoreOp.commit page tag (some x) ∈ s.store.operations → s.store.stagedHeader = .header clip h →
    s.play.dir.find clip = none ∧ ∀ e ∈ s.play.dir.entries, apart e.firstBlock e.extent (page / 64) h.extent

/-- The scan goes on from a block (R114, R116): to the first block from it on that is not worn, or to its end above 32,767, with
SCAN_DONE where a notice finds room. -/
def ScanGoesOn (s : State) (c : ScanState) (block : Nat) (t : State) : Prop :=
  block ≤ t.play.dir.scan.next ∧ (∀ k, block ≤ k → k < t.play.dir.scan.next → k ∈ s.settings.worn) ∧
    t.play.dir.scan.next ∉ s.settings.worn ∧
    if t.play.dir.scan.next < 32768 then
      t.play.dir.state = s.play.dir.state ∧ t.play.dir.scan = { c with next := t.play.dir.scan.next, reading := true }
    else t.play.dir.state = .complete ∧ t.play.dir.scan = { c with next := t.play.dir.scan.next, reading := false } ∧
      (s.play.agent.noticeRoom = true → s.play.agent.returns.length + 2 ≤ 24 →
        s.notified t.play 0 (.scanDone c.registered c.duplicates c.unreadable))

/-! ## Messages on the link -/

/-- A message as the management field carries it (spec/11, "Management message header"). -/
def Message.bytes (m : Message) : List Byte :=
  toLE 1 m.target ++ toLE 2 m.tag ++ toLE 1 m.kind ++ toLE 1 m.flags ++ toLE 2 m.body.length ++ m.body

/-- A message whose fields have the widths of its header, and which does not read as the end of the field. -/
def Message.fits (m : Message) : Prop :=
  m.target < 256 ∧ m.tag < 65536 ∧ m.kind < 256 ∧ m.flags < 256 ∧ m.body.length < 65536 ∧ ¬ (m.target = 255 ∧ m.kind = 255)

/-! ## Group 0 (R88) -/

/-- Group 0 stands at unity, with no ramp and no request waiting. -/
def UnityInv (s : State) : Prop := s.levels[0] = ⟨.still 231, none, 231⟩

/-! ## The addressed stores -/

/-- The copy that a relocation holds is of a programmed page, its bytes in canonical form. -/
def Current.copyOk (c : Current) : Prop := match c.stage with
  | .relocProgram _ _ image => image.tag = true ∧ cellsWf image.cells = true
  | _ => True

/-- The staging buffer, the flash array and the bytes of each of its pages are in their canonical form. -/
structure MemoryInv (s : State) : Prop where
  staging : cellsWf s.store.staging = true
  flash : flashWf s.flash = true
  pages : ∀ c ∈ s.flash, cellsWf c.2.cells = true
  copy : ∀ c, s.store.current = some c → c.copyOk

end Sys2Proof.Machine
end

