-- ==== Sys2Proof/Certificates/Slice0/Obligations.lean ====
section
/-! DEFINITION. The statements for the provers. A statement about a command says that it completes, under hypotheses on the state and
the operands alone, and what its next state holds. An equation for the next state says with it that everything else stays as it was.
Where a statement ends in `s.after p`, the on-air blocks are `p` when the event itself has acted; what settling the sample does then
is said by SettlingFrame. Where a statement has a notice raised between two samples or at a frame boundary, that it carries the count of
the next sample is the model's choice (log 71). -/

open Sys2Proof Sys2Proof.Machine

/-! ## The machine -/

/-- A step takes the command at the front of the queue and is exec of it with the queue's rest. -/
def Obligations.StepRunsFrontCommand : Prop :=
  ∀ (s : State) (c : Instr) (rest : List Instr), s.pending = c :: rest → step s = exec c { s with pending := rest }

/-- On an empty queue one sample of the open period is formed, and between two periods nothing happens. This is the model's choice
(log 1). A sample formed on an empty queue raises the sample index and the station sample count by 1, and leaves the flash array,
the Settings Area, the store queue, the link but for its count, and group 0 as they were. At the 48-bit limit the count is the
free value (log 15). -/
def Obligations.TickOnEmptyQueue : Prop :=
  (∀ s : State, s.pending = [] →
     step s = .next s.formSample ∧ (s.period = none ∨ 48 ≤ s.sample → step s = .next s)) ∧
  (∀ (s : State) (p : Period), s.pending = [] → s.period = some p → s.sample < 48 →
     ∃ t, step s = .next t ∧ t.sample = s.sample + 1 ∧ t.period = s.period ∧
       t.link = { s.link with count := t.link.count } ∧
       (s.link.count + 1 < 2 ^ 48 → t.link.count = s.link.count + 1) ∧
       t.flash = s.flash ∧ t.settings = s.settings ∧ t.store.queue = s.store.queue ∧ t.levels[0] = s.levels[0] ∧
       t.pending = [])

/-! ## Invariants -/

/-- Every step keeps the lock invariant, and none lowers the lock floor. -/
def Obligations.LockFenceKept : Prop :=
  ∀ s t : State, LockInv s → step s = .next t → LockInv t ∧ s.settings.floor ≤ t.settings.floor

/-- Every step keeps group 0 at unity, with no ramp and no request waiting. -/
def Obligations.UnityGroupKept : Prop := ∀ s t : State, UnityInv s → step s = .next t → UnityInv t

/-- Every step keeps the staging buffer and the flash array in their canonical form. -/
def Obligations.MemoryFormKept : Prop := ∀ s t : State, MemoryInv s → step s = .next t → MemoryInv t

/-- The invariants hold after reset, and no command waits. That the flash array is erased there is the model's choice (log 9). -/
def Obligations.InvariantsAtReset : Prop :=
  LockInv State.reset ∧ UnityInv State.reset ∧ MemoryInv State.reset ∧ CueInv State.reset.cues ∧ (∀ r, SlotInv State.reset.play r) ∧
    QueueInv State.reset ∧ DirInv State.reset ∧ State.reset.play.log.Balanced ∧ State.reset.pending = []

/-! ## Power-on, soft reset and the link -/

/-- POWER_ON: every block from its initial state, the link ACQUIRING with the address that the pins give, the Settings Area kept where
no settings write was under way, and the flash array where no store operation was. That POWER_ON keeps the array is the model's choice
(log 9). -/
def Obligations.PowerOnState : Prop :=
  ∀ (s : State) (pins : BitVec 8), ∃ t, exec (.powerOn pins) s = .next t ∧ BlocksAtReset t ∧
    t.link.state = .acquiring ∧ t.link.expected = 0 ∧ t.link.holding = [] ∧ t.link.lockRun = 0 ∧ t.link.consecutive = 0 ∧
    t.link.counts = ⟨0, 0, 0, 0, 0, 0, 0⟩ ∧ t.link.air = ⟨0, 0⟩ ∧ t.link.count = 0 ∧
    t.link.address = (if pins.toNat = 255 then 254 else pins.toNat) ∧ t.inFlight = none ∧ t.period = none ∧
    t.pending = s.pending ∧
    ((∀ c, s.store.current = some c → c.started = true → c.stage.writesSettings = false) → t.settings = s.settings) ∧
    (s.store.current = none → t.flash = s.flash)

/-- The address pins are sampled at POWER_ON alone, 255 taken as 254; every return frame that a later step forms carries the address,
and Identify reports it. -/
def Obligations.AddressSampledOnce : Prop :=
  (∀ (s : State) (pins : BitVec 8), ∃ t, exec (.powerOn pins) s = .next t ∧
    t.link.address = if pins.toNat = 255 then 254 else pins.toNat) ∧
  (∀ s t : State, (∀ pins, s.pending.head? ≠ some (.powerOn pins)) → step s = .next t →
    t.link.address = s.link.address ∧
      (t.returnFrame = s.returnFrame ∨ ∃ f, t.returnFrame = some f ∧ f.address = s.link.address)) ∧
  (∀ (s : State) (m : Message) (rest : List Message), Takes s 0x01 m rest → m.body = [] →
    ∃ r, exec .identify s = .next (s.answered m rest .ok (.identify r)) ∧ r.address = s.link.address)

/-- SOFT_RESET at a frame boundary at which a reset is due: pending on the boundary (a broadcast Reset), or on its OK reply, which
leaves in the return frame of this boundary; and no settings write current. The return frame is formed with the entries that fit from
the head of the return queue, that reply among them; then every block but the Link Receiver, the Frame Clock and the Settings Area
reaches its state after power-on. That this command forms the return frame, and the frame period event then no second one, is the
model's choice (log 14), as is that the egress frame being sent stands (log 69) and that a settings write which has become current
meanwhile is waited for too (log 70). Within a frame, with no reset pending, or with a settings write current that keeps the reset
waiting, the command does nothing (log 2). -/
def Obligations.SoftResetState : Prop :=
  (∀ s : State, s.sample = 48 → s.returnFormed = false →
    let a := s.play.agent
    let sent := (takeEntries 496 a.returns).1
    (a.resetPending = some .nextBoundary ∨
      a.resetPending = some .onReply ∧ ∃ e ∈ sent, ∃ body, e.payload = .reply 0x03 .ok body) →
    (∀ c, s.store.current = some c → c.started = true → c.stage.writesSettings = false) →
    ∃ t, exec .softReset s = .next t ∧ BlocksAtReset t ∧ t.link = s.link ∧ t.period = s.period ∧ t.sample = s.sample ∧
      t.settings = s.settings ∧ t.egress = s.egress ∧ t.pending = s.pending ∧ t.returnFormed = true ∧
      t.returnFrame = some ⟨a.noticesDropped, a.inputDiscarded, s.play.dir.state == .scanning, s.link.address, s.link.expected, sent⟩ ∧
      (∀ f, t.inFlight = some f → f.who = .discarded) ∧ (s.store.current = none → t.flash = s.flash)) ∧
  (∀ s : State, s.sample ≠ 48 ∨ s.play.agent.resetPending = none ∨
      (∃ c, s.store.current = some c ∧ c.started = true ∧ c.stage.writesSettings = true) →
    exec .softReset s = .next s)

/-- FRAME_PERIOD_EVENT completes in every state in which a return frame already formed stands: the frame held for the expected sequence,
or a substitute frame, becomes the frame of the period, with the counting of holdover periods; the expected sequence rises by 1; a lock
run before which no valid frame has arrived since the last event ends; a return frame stands. That a HOLDOVER link which passes a held
frame on keeps its state is the model's choice (log 41), and so is the air time of the first substitute frame (log 42); the order of
what is done at the boundary is the model's too (log 13). At the end of a frame, with no return frame formed and no reset due: the
return frame carries this event's sequence, the flags, and the entries taken whole from the head of the return queue while the next one
fits in 496 bytes, its bytes end in the frame check; the messages of the frame passed on that are addressed to the part or broadcast
join the input queue up to 16, and the rest set the input-discarded flag; the waiting fade of a group begins; and each gate is tested: a
WAITING gate with nobody expected closes, one with its arrived set complete opens with the starts given and closes, without a notice,
and one that is short before its deadline waits on; an OPEN gate whose arrived set is complete closes, and one that is short before its
join deadline stays open. Messages laid back to back in a management field are read back in order, whatever follows the end mark. The
sample that ends a frame forms the egress frame; that a step on an empty queue forms it is the model's choice (log 1). -/
def Obligations.FramePeriodEventOpensPeriod : Prop :=
  (∀ s : State, (s.returnFormed = true → s.returnFrame ≠ none) → ∃ t, exec .framePeriodEvent s = .next t ∧ t.sample = 0 ∧
    t.link.expected = (s.link.expected + 1) % 65536 ∧ t.link.address = s.link.address ∧ t.pending = s.pending ∧
    t.link.lockRun = (if s.link.arrived then s.link.lockRun else 0) ∧ t.link.arrived = false ∧
    t.settings = s.settings ∧ t.returnFrame ≠ none ∧
    match s.link.holding.find? fun f => f.seq == s.link.expected with
    | some f => t.period = some ⟨f.seq, s.link.state, f.air, f.bed⟩ ∧ t.link.air = f.air ∧ t.link.consecutive = 0 ∧
        t.link.state = s.link.state ∧ t.link.counts = s.link.counts
    | none => t.period = some ⟨s.link.expected, t.link.state, s.link.air.next, List.replicate 48 (0, 0)⟩ ∧
        t.link.air = s.link.air.next ∧ t.link.consecutive = min 2001 (s.link.consecutive + 1) ∧
        t.link.state = (match s.link.state with
          | .locked => .holdover
          | .holdover => if 2001 ≤ s.link.consecutive + 1 then .free else .holdover
          | .acquiring => .acquiring
          | .free => .free) ∧
        t.link.counts = { s.link.counts with holdover := min (2 ^ 32 - 1) (s.link.counts.holdover + 1) }) ∧
  (∀ s : State, s.sample = 48 → s.returnFormed = false → s.play.agent.resetPending = none →
    let a := s.play.agent
    let x := takeEntries 496 a.returns
    let f := (s.link.holding.find? fun f => f.seq == s.link.expected).getD s.link.substitute
    let ms := (readMessages f.management.length f.management).filter fun m => m.target == s.link.address || m.target == 255
    ∃ t, exec .framePeriodEvent s = .next t ∧ t.returnFormed = false ∧
      t.returnFrame = some ⟨a.noticesDropped, a.inputDiscarded, s.play.dir.state == .scanning, s.link.address, s.link.expected, x.1⟩ ∧
      a.returns = x.1 ++ x.2 ∧ (x.1.map QueueEntry.size).sum ≤ 496 ∧
      (∀ e, x.2.head? = some e → 496 < (x.1.map QueueEntry.size).sum + e.size) ∧
      t.play.agent.input = a.input ++ ms.take (16 - a.input.length) ∧
      t.play.agent.inputDiscarded = decide (16 - a.input.length < ms.length) ∧
      t.play.voices = s.play.voices ∧ t.play.plans = s.play.plans ∧ t.play.log = s.play.log ∧ t.play.dir = s.play.dir ∧
      t.play.gates = (s.play.gateTests s.now).gates ∧ t.levels = s.boundaryTests.levels ∧
      t.levels[(0 : GainGroup)] = s.levels[(0 : GainGroup)] ∧
      (∀ (g : GainGroup) (target ms : Nat), g ≠ 0 → s.levels[g].waiting = some (target, ms) →
        t.levels[g] = ⟨s.levels[g].fader.begin target ms, none, (s.levels[g].fader.begin target ms).level⟩) ∧
      ∀ r, t.play.region r = { (s.play.gateTests s.now).region r with out := [] }) ∧
  (∀ f : ReturnFrame, f.bytes.length = 14 + f.payload ∧
    f.bytes = f.header ++ f.entries.flatMap QueueEntry.bytes ++ toLE 4 (sum32 (f.header ++ f.entries.flatMap QueueEntry.bytes))) ∧
  (∀ (p : Play) (t : Now) (g : LinkGroup), (p.gate g).state = .waiting →
    let x := p.gate g
    (x.expected = 0 → p.gateTest t g = p.setGate g { x with state := .closed }) ∧
    (x.expected ≠ 0 → x.arrivedSet = x.expected →
      (p.gateTest t g).gate g = { x with
        state := .closed, openPoint := some t.count, joinDeadline := some (t.count + x.waitMs * 48)
        missed := (p.gateTest t g |>.gate g).missed } ∧
      (∀ a, a ∈ (p.gateTest t g |>.gate g).missed → a ∈ x.missed) ∧ (p.gateTest t g).agent = p.agent ∧
      ∀ r, (p.gateTest t g).region r =
        if x.arrived.any (fun a => a.1 == r) then { p.region r with opening := some g } else p.region r) ∧
    (x.expected ≠ 0 → x.arrivedSet ≠ x.expected → (∀ d, x.deadline = some d → t.count ≤ d) → p.gateTest t g = p)) ∧
  (∀ (p : Play) (t : Now) (g : LinkGroup), (p.gate g).state = .opened →
    let x := p.gate g
    (x.arrivedSet = x.expected → p.gateTest t g = p.setGate g { x with state := .closed }) ∧
    (x.arrivedSet ≠ x.expected → (∀ d, x.joinDeadline = some d → t.count < d) → p.gateTest t g = p)) ∧
  (∀ (ms : List Message) (tail : List Byte) (n : Nat), (∀ m ∈ ms, m.fits) → ms.length < n →
    (tail.length < 7 ∨ ∃ b c d rest, tail = [0xFF, b, c, 0xFF, d] ++ rest) →
    readMessages n (ms.flatMap Message.bytes ++ tail) = ms) ∧
  (∀ (s : State) (p : Period), s.pending = [] → s.period = some p → s.sample = 47 →
    ∃ t, step s = .next t ∧ t.sample = 48 ∧ t.egress = some
      { link := p.link, seq := p.seq, air := p.air, states := allRegions.map fun r => (t.play.region r).state
        blocks := allRegions.map fun r => (t.play.region r).out })

/-- PROGRAMME_FRAME_ARRIVAL of an invalid frame: the invalid count rises by 1, a lock run ends in ACQUIRING and FREE, and nothing else
changes. A frame is valid where its first three bytes are the sync marker, its length field lies in 330..842 and equals the bytes
received, its cue count is at most 2, its air millisecond at most 86,399,999, and its frame check equals the sum modulo 2^32 of the
bytes before it as little-endian 32-bit words. A valid frame is read at the places of its layout, with the cue records that its count
gives. -/
def Obligations.InvalidFrameChangesCountOnly : Prop :=
  (∀ (s : State) (bs : List Byte), frameValid bs = false →
    exec (.programmeFrameArrival bs) s = .next { s with link :=
      { s.link with
        counts := { s.link.counts with invalid := min (2 ^ 32 - 1) (s.link.counts.invalid + 1) }
        lockRun := if s.link.state = .acquiring ∨ s.link.state = .free then 0 else s.link.lockRun } }) ∧
  (∀ bs : List Byte,
    let y := fun i => bs.getD i 0
    let x := fun i => (y i).toNat
    let two := fun i => x i + 256 * x (i + 1)
    let four := fun i => two i + 65536 * two (i + 2)
    let n := bs.length
    (frameValid bs = true ↔ bs.take 3 = [0xB4, 0x2D, 0x71] ∧ x 3 ≤ 2 ∧ two 4 = n ∧ 330 ≤ n ∧ n ≤ 842 ∧ four 8 ≤ 86399999 ∧
      four (n - 4) = ((List.range (n - 4)).map fun i => x i * 256 ^ (i % 4)).sum % 2 ^ 32) ∧
    (frameValid bs = true →
      let f := readFrame bs
      f.seq = two 6 ∧ f.air = ⟨two 12, four 8⟩ ∧ f.management = (bs.drop 326).take (n - 330) ∧ f.bed.length = 48 ∧
        (∀ i, i < 48 → f.bed[i]? = some
          ((y (6 * i + 16) ++ y (6 * i + 15) ++ y (6 * i + 14)).toInt, (y (6 * i + 19) ++ y (6 * i + 18) ++ y (6 * i + 17)).toInt)) ∧
        f.cues.length = x 3 ∧
        ∀ k, k < x 3 →
          let o := 302 + 12 * k
          f.cues[k]? = some ⟨x o, two (o + 2), ⟨two (o + 4), x (o + 1)⟩, y (o + 8) ++ y (o + 7) ++ y (o + 6),
            two (o + 9) + 65536 * x (o + 11)⟩))

/-- PROGRAMME_FRAME_ARRIVAL of a valid frame in LOCKED or HOLDOVER: held, discarded, late, or a relock with a sequence step, by
its distance. PROGRAMME_FRAME_ARRIVAL of a valid frame in ACQUIRING or FREE: it extends the lock run or starts a new one, and the
fourth frame of a run takes the link to LOCKED. -/
def Obligations.ValidFrameMovesLink : Prop :=
  (∀ (s : State) (bs : List Byte), frameValid bs = true → s.link.state = .locked ∨ s.link.state = .holdover →
     s.link.expected < 65536 →
     let f := readFrame bs
     let d := (f.seq + 65536 - s.link.expected) % 65536
     let l := s.link.counted
     exec (.programmeFrameArrival bs) s = .next { s with link :=
       if d ≤ 1 then
         (if s.link.holding.any fun g => g.seq == f.seq then
           { l with state := .locked
                    counts := { l.counts with outOfSequence := min (2 ^ 32 - 1) (l.counts.outOfSequence + 1) } }
         else { l with state := .locked, holding := s.link.holding ++ [f] })
       else if d ≤ 32767 then
         (if s.link.state = .holdover then
           { l with
             state := .locked, expected := f.seq, holding := [f], retest := true
             counts :=
               { l.counts with
                 outOfSequence := min (2 ^ 32 - 1) (l.counts.outOfSequence + s.link.holding.length)
                 relocks := min (2 ^ 32 - 1) (l.counts.relocks + 1), steps := min (2 ^ 32 - 1) (l.counts.steps + 1) } }
         else { l with counts := { l.counts with outOfSequence := min (2 ^ 32 - 1) (l.counts.outOfSequence + 1) } })
       else { l with counts := { l.counts with late := min (2 ^ 32 - 1) (l.counts.late + 1) } } }) ∧
  (∀ (s : State) (bs : List Byte), frameValid bs = true → s.link.state = .acquiring ∨ s.link.state = .free →
     s.link.lockRun ≤ 3 →
     let f := readFrame bs
     let l := s.link.counted
     let extends_ := 0 < s.link.lockRun ∧ f.seq = (s.link.lockLast + 1) % 65536
     (¬ (extends_ ∧ s.link.lockRun = 3) → exec (.programmeFrameArrival bs) s = .next { s with link :=
       { l with lockRun := if extends_ then s.link.lockRun + 1 else 1, lockLast := f.seq } }) ∧
     (extends_ ∧ s.link.lockRun = 3 → exec (.programmeFrameArrival bs) s = .next { s with link :=
       { l with
         state := .locked, expected := f.seq, holding := [f], lockRun := 0, lockLast := f.seq, retest := true
         counts :=
           { l.counts with
             relocks := min (2 ^ 32 - 1) (l.counts.relocks + 1)
             steps := if f.seq = s.link.expected then l.counts.steps else min (2 ^ 32 - 1) (l.counts.steps + 1) } } }))

/-! ## Region events -/

/-- Settling after an event changes nothing but the on-air blocks and the phase of the current array step, and marks the sample as begun
(logs 23, 58), and as settled where no other event of it is due: no start that waits for a READY voice falls at a settled sample (log
21), so that the lowest region makes the first arrival; with another event due it leaves the on-air blocks too, and also where no region
has arrived at a gate, no pool request is due and no entry waits for a pool voice. Otherwise it takes the sample's arrivals, in
ascending region number, and then the pool requests and the grants; afterwards no pool voice is free while an entry waits. What the Gate
Unit decides about an arrival: a region that the gate has missed with this break ID skips its entry; at a CLOSED gate the first arrival
makes it WAITING, with its break ID, its expected set and its deadline; at a WAITING gate an awaited region joins with offset 0; at an
OPEN gate it starts the entry part-way through, or skips it where it has ended; and every other arrival is unexpected, starts at once,
and raises GATE_UNEXPECTED. That an arrival takes the region out of the missed set with another break ID too is the model's choice (log
33). A grant gives the lowest free pool voice to the first waiting entry, which the region primes at once with R at 0. What a delivery
or a Force Network leaves is settled by the grants alone, made at once unless an event of a sample already begun is still due, and
nothing else but the phase of the current array step changes. -/
def Obligations.SettlingFrame : Prop :=
  (∀ (s : State) (p : Play),
    (s.after p).link = s.link ∧ (s.after p).period = s.period ∧ (s.after p).sample = s.sample ∧ (s.after p).cues = s.cues ∧
    (s.after p).levels = s.levels ∧ (s.after p).verify = s.verify ∧ (s.after p).inFlight = s.inFlight ∧
    (s.after p).settings = s.settings ∧ (s.after p).flash = s.flash ∧ (s.after p).pending = s.pending ∧
    (s.after p).store.queue = s.store.queue ∧ (s.after p).store.staging = s.store.staging ∧
    (s.after p).store.unlocked = s.store.unlocked ∧ (s.after p).store.holds = s.store.holds ∧
    (s.after p).store.pStar = s.store.pStar ∧ (s.after p).store.lStar = s.store.lStar ∧
    (s.after p).store.current.map (fun c => (c.op, c.stage)) = s.store.current.map (fun c => (c.op, c.stage)) ∧
    (s.after p).egress = s.egress ∧ (s.after p).returnFrame = s.returnFrame ∧ (s.after p).returnFormed = s.returnFormed ∧
    (s.after p).occasion = s.occasion ∧ (s.after p).midSample = true ∧
    ((∀ r, (p.region r).arriving = none) → (∀ r, p.requestDue r = false) → p.waiters = [] → (s.after p).play = p) ∧
    let u : State := { s with play := p, midSample := true }
    (u.quiet = false → (s.after p).play = p ∧ (s.after p).settled = s.settled) ∧
    (u.quiet = true → (s.after p).settled = true ∧ (s.after p).play = (p.settleArrivals s.now).poolRound s.now ∧
      ((s.after p).play.freePool = [] ∨ (s.after p).play.waiters = []) ∧
      ∀ r g, (p.region r).arriving = some g → (∀ q, q ≠ r → (p.region q).arriving = none) →
        ((p.resolveArrival s.now r g).region r).arriving = none →
        (s.after p).play = (p.resolveArrival s.now r g).poolRound s.now)) ∧
  (∀ (p : Play) (t : Now) (r : Region) (g : LinkGroup) (b : OpenBreak) (v : VoiceNo) (e : RunEntry),
    (p.region r).brk = some b → (p.region r).lead = some v → nextPending b.run = some e →
    (b.run.map RunEntry.index).Pairwise (· < ·) →
    let x := p.gate g
    let missed := x.missed.filter fun m => m.1 != r
    let skips := (x.missed.any fun m => m.1 == r && m.2 == b.breakId) = true
    let awaited := inMask x.expected r = true ∧ (x.arrived.any fun a => a.1 == r) = false
    let q := p.resolveArrival t r g
    (∀ h, h ≠ g → q.gate h = p.gate h) ∧ (q.gate g).missed = missed ∧
    (skips → q.gate g = { x with missed := missed } ∧ GateSkipped p q r e.index) ∧
    (¬ skips → x.state = .closed →
      (∃ m, q.gate g = { x with
          state := .waiting, breakId := some b.breakId, expected := m, arrived := [(r, 0)], deadline := some (t.count + x.waitMs * 48)
          openPoint := none, joinDeadline := none, missed := missed } ∧
        ∀ y, inMask m y = true ↔ inMask x.mask y = true ∧ (missed.any fun m => m.1 == y) = false ∧
          ∃ c, (p.region y).brk = some c ∧ c.breakId = b.breakId ∧ ∃ z ∈ c.run, z.status = .pending ∧ z.link = some g) ∧
      q.voices = p.voices ∧ q.region r = { p.region r with arriving := none } ∧ q.agent = p.agent) ∧
    (¬ skips → x.state = .waiting → awaited →
      q.gate g = { x with arrived := x.arrived ++ [(r, 0)], missed := missed } ∧ q.voices = p.voices ∧
        q.region r = { p.region r with arriving := none } ∧ q.agent = p.agent) ∧
    (¬ skips → x.state = .opened → awaited →
      let elapsed := t.count - x.openPoint.getD t.count
      q.gate g = { x with arrived := x.arrived ++ [(r, elapsed)], missed := missed } ∧
        (elapsed < e.effective.getD 0 → JoinedAt p q t r v e elapsed (decide (0 < elapsed))) ∧
        (e.effective.getD 0 ≤ elapsed → GateSkipped p q r e.index)) ∧
    (¬ skips → x.state = .waiting ∨ x.state = .opened → ¬ awaited →
      q.gate g = { x with missed := missed } ∧ JoinedAt p q t r v e 0 false ∧
        (p.agent.noticeRoom = true →
          (⟨t.address, 0, .notice (.gateUnexpected g r b.breakId x.state x.breakId), t.count⟩ : QueueEntry) ∈ q.agent.returns))) ∧
  (∀ (s : State) (p : Play),
    let t := s.between p
    let u : State := { s with play := p }
    t = { s with play := t.play, store := { s.store with current := t.store.current } } ∧
    t.store.current.map (fun c => (c.op, c.stage)) = s.store.current.map (fun c => (c.op, c.stage)) ∧
    (p.waiters = [] → t.play = p) ∧ (s.midSample = true → u.quiet = false → t.play = p) ∧
    (s.midSample = false ∨ u.quiet = true → t.play = p.grants ∧ (t.play.freePool = [] ∨ t.play.waiters = []))) ∧
  (∀ (p : Play) (v : VoiceNo) (free : List VoiceNo) (w : Waiter) (rest : List Waiter) (b : OpenBreak) (e : RunEntry),
    p.freePool = v :: free → p.waiters = w :: rest → (p.region w.region).brk = some b → findEntry b.run w.run = some e →
    let q := p.grantOne
    24 ≤ v.val ∧ (∀ u ∈ free, v < u) ∧ q.waiters = rest ∧ q.freePool = free ∧
      q.region w.region = { p.region w.region with pool := some v, brk := some { b with prep := .incoming v } } ∧
      (q.voice v).holder = some w.region ∧ (q.voice v).state = .priming ∧ (q.voice v).clip = some e.clip ∧
      (q.voice v).fader = ⟨0, none⟩ ∧ (q.voice v).pos = 0 ∧ (q.voice v).endPos = e.effective.getD 0 ∧
      (∀ u, u ≠ v → q.voice u = p.voice u) ∧ (∀ y, y ≠ w.region → q.region y = p.region y) ∧ q.log = p.log ∧ q.gates = p.gates) ∧
  (∀ (s : State) (p : Play) (r : Region), s.settled = true → p.leadInDue s.now r = false ∧ p.primedDue s.now r = false ∧
    p.fillerDue s.now r = false ∧ p.lateMixDue s.now r = false)

/-- CUE_DISPATCH completes for an entry that is due: the entry is marked as dispatched to the region; dispatched to every region of its
mask it leaves the table for the history of 16. A region in BYPASS sets the cue aside. The entry that is due names the region, has not
been dispatched to it, and has its target here, or is late and the sample is 0; its lateness is 0, or the samples from its target. The
intake of frame S: a malformed record and a stale cue are dropped, with the dropped count up to 65,535 and a CUE_DROPPED notice; a
repeat of the table or the history changes nothing; every other cue enters the table before the first entry of a greater key, and a full
table loses its latest entry for it, or drops the new cue where its key is not less. The re-test at a relock drops the stale entries and
keeps the others in their order. The frame period event makes the intake of the frame that it passes on, after a re-test where the link
has relocked; their places in the order of the boundary are the model's choice (log 13). Every step keeps the Cue Unit in its bounds: at
most 8 entries, no two the same, at most 16 in the history. -/
def Obligations.CueDispatchMarks : Prop :=
  (∀ (s : State) (r : Region) (c : PendingCue), s.assembling = true → s.dueCue r = some c →
    let d := { c with dispatched := c.dispatched ||| oneRegion r }
    let u : CueUnit := if d.dispatched &&& c.mask = c.mask then
      { s.cues with
        table := s.cues.table.filter fun x => !(x.kind == c.kind && x.breakId == c.breakId && x.target == c.target)
        history := (if s.cues.history.length < 16 then s.cues.history else s.cues.history.drop 1) ++ [⟨c.kind, c.breakId, c.target⟩] }
      else { s.cues with
        table := s.cues.table.map fun x => if x.kind == c.kind && x.breakId == c.breakId && x.target == c.target then d else x }
    ∃ p, exec (.cueDispatch r) s = .next (({ s with cues := u } : State).after p) ∧
      ((s.play.region r).state = .bypass → p = s.play)) ∧
  (∀ (s : State) (r : Region) (c : PendingCue), s.dueCue r = some c → s.periodSeq < 65536 → c.target.seq < 65536 →
    let d := (s.periodSeq + 65536 - c.target.seq) % 65536
    let late := 1 ≤ d ∧ d ≤ 3
    c ∈ s.cues.table ∧ inMask c.mask r = true ∧ inMask c.dispatched r = false ∧
      (c.target = ⟨s.periodSeq, s.sample⟩ ∨ late ∧ s.sample = 0) ∧
      c.lateness s.periodSeq = if late then d * 48 - c.target.sample else 0) ∧
  (∀ x : CueRecord, (x.cue = none ↔ x.kind = 0 ∨ 4 < x.kind ∨ x.breakId = 0 ∨ 47 < x.target.sample ∨ x.mask = 0) ∧
    ∀ c, x.cue = some c → c.kind.code = x.kind ∧ c.breakId = x.breakId ∧ c.target = x.target ∧ c.mask = x.mask ∧ c.dispatched = 0 ∧
      c.nominal = if x.kind ≤ 2 then min 600000 x.nominal else 0) ∧
  (∀ (t : Now) (n : Nat) (u : CueUnit) (p : Play) (x : CueRecord), n < 65536 →
    let drop := fun (v : CueUnit) (why : DropReason) (y : CueRecord) =>
      (({ v with dropped := min 65535 (v.dropped + 1) } : CueUnit), p.raise t 0 (.cueDropped why y n))
    (∀ why y, p.agent.noticeRoom = true →
      (⟨t.address, 0, .notice (.cueDropped why y n), t.count⟩ : QueueEntry) ∈ (p.raise t 0 (.cueDropped why y n)).agent.returns) ∧
    (x.cue = none → takeCue t n (u, p) x = drop u .malformed x) ∧
    ∀ c, x.cue = some c →
      let d := (c.target.seq + 65536 - n) % 65536
      let repeats := (∃ y ∈ u.table, SameCue y c) ∨ ⟨c.kind, c.breakId, c.target⟩ ∈ u.history
      (256 ≤ d → d ≤ 65532 → takeCue t n (u, p) x = drop u .stale ⟨x.kind, c.breakId, c.target, c.mask, c.nominal⟩) ∧
      (d < 256 ∨ 65532 < d →
        c.key n = (if d < 256 then (d : Int) else (d : Int) - 65536) * 48 + c.target.sample ∧
        (repeats → takeCue t n (u, p) x = (u, p)) ∧
        (¬ repeats → u.table.length < 8 → ∃ a b, u.table = a ++ b ∧ takeCue t n (u, p) x = ({ u with table := a ++ c :: b }, p) ∧
          (∀ y ∈ a, y.key n ≤ c.key n) ∧ ∀ y, b.head? = some y → c.key n < y.key n) ∧
        (∀ init last, ¬ repeats → u.table = init ++ [last] → u.table.length = 8 →
          (last.key n ≤ c.key n → takeCue t n (u, p) x = drop u .full ⟨x.kind, c.breakId, c.target, c.mask, c.nominal⟩) ∧
          (c.key n < last.key n → ∃ a b, init = a ++ b ∧
            takeCue t n (u, p) x = drop { u with table := a ++ c :: b } .full
              ⟨last.kind.code, last.breakId, last.target, last.mask, last.nominal⟩ ∧
            (∀ y ∈ a, y.key n ≤ c.key n) ∧ ∀ y, b.head? = some y → c.key n < y.key n)))) ∧
  (∀ (t : Now) (n : Nat) (u : CueUnit) (p : Play), n < 65536 → u.dropped ≤ 65535 →
    let kept := u.table.filter fun c => decide ((c.target.seq + 65536 - n) % 65536 < 256 ∨ 65532 < (c.target.seq + 65536 - n) % 65536)
    (retest t n (u, p)).1 = { u with table := kept, dropped := min 65535 (u.dropped + (u.table.length - kept.length)) }) ∧
  (∀ s : State, s.sample = 48 → s.play.agent.resetPending = none →
    let f := (s.link.holding.find? fun f => f.seq == s.link.expected).getD s.link.substitute
    ∃ t n p, exec .framePeriodEvent s = .next t ∧ t.cues.intake = [] ∧
      let u : CueUnit := { s.cues with intake := f.cues }
      let y := if s.link.retest then retest n f.seq (u, p) else (u, p)
      t.cues = { (f.cues.foldl (takeCue n f.seq) y).1 with intake := [] }) ∧
  (∀ s t : State, CueInv s.cues → step s = .next t → CueInv t.cues)

/-- The plan that a PREPARE or a cold SPLIT takes: a READY slot of the region with the cue's break ID, failing that the READY default
plan; none only where there is neither. Every step keeps the slots of every region in order: no two READY with one break ID, and one held
exactly while a break is open, which is outside NETWORK and BYPASS, with its run entries in item order. -/
def Obligations.PlanLookup : Prop :=
  (∀ (p : Play) (r : Region) (breakId : Nat),
    let readyWith := fun (n : Fin 16) (id : Nat) =>
      (p.slot r n).state = .ready ∧ ∃ pl, (p.slot r n).plan = some pl ∧ pl.breakId = id
    match p.findPlan r breakId with
    | some n => readyWith n breakId ∨ ((∀ m, ¬ readyWith m breakId) ∧ readyWith n 0)
    | none => ∀ m, ¬ readyWith m breakId ∧ ¬ readyWith m 0) ∧
  (∀ s t : State, (∀ r, SlotInv s.play r) → step s = .next t → ∀ r, SlotInv t.play r)

/-- A PREPARE dispatched to a region in NETWORK: without a plan nothing happens; with one the slot is IN_USE, the plan is fitted at the
dispatch sample's air time with the cue's nominal length, the region is PRIMED with its arm deadline, and the first kept entry is being
primed on an IDLE home voice. That a first kept MIX has its own level at the priming is the model's choice (log 51).
What fitting gives: one entry for each item, in order, with the item's fields; the main clip where it is usable, else a usable substitute
with SUBSTITUTED, else SKIPPED with the reason that the main clip's entry gives; the effective length by the length choice, with
SHORT_ABSENT where the short end is missing; a kept MIX behind a kept entry overlaps by the least of its transition, what is left of the
entry before, and its own length, and every other entry by 0; with nominal length 0 nothing is dropped; otherwise only droppable entries
are, and each only while the run list with every later droppable one gone is still longer than the window; afterwards the planned duration
is in the window or no droppable entry is left. -/
def Obligations.PrepareArmsRegion : Prop :=
  (∀ (s : State) (r : Region) (c : PendingCue), s.assembling = true → s.dueCue r = some c → c.kind = .prepare →
    (s.play.region r).state = .network →
    ∃ p, exec (.cueDispatch r) s = .next (({ s with cues := s.cues.mark c r } : State).after p) ∧
      (s.play.findPlan r c.breakId = none → p = s.play) ∧
      ∀ (n : Fin 16) (pl : Plan), s.play.findPlan r c.breakId = some n → (s.play.slot r n).plan = some pl →
        p.slot r n = ⟨.inUse, some pl⟩ ∧ (∀ q m, q ≠ r ∨ m ≠ n → p.slot q m = s.play.slot q m) ∧
        (p.region r).state = .primed ∧ (p.region r).bed = (s.play.region r).bed ∧
        (p.region r).config = (s.play.region r).config ∧
        (p.region r).armDeadline = some (s.link.count + (s.play.region r).config.armTimeoutS * 48000) ∧
        (∃ b, (p.region r).brk = some b ∧ b.breakId = c.breakId ∧ b.slot = n ∧ b.split = none ∧ b.endCause = none ∧
          b.run = fit pl s.play.dir s.link.air c.nominal ∧
          ∀ e, (b.run.find? fun e => e.status == .pending) = some e → (s.play.voice (homeVoice r)).state = .idle →
            let v := p.voice (homeVoice r)
            v.state = .priming ∧ v.clip = some e.clip ∧ v.pos = 0 ∧ v.endPos = e.effective.getD 0 ∧ v.fader = ⟨e.level, none⟩ ∧
              v.group = e.group ∧ v.loop = false ∧ v.ring = []) ∧
        (∀ q, q ≠ r → p.region q = s.play.region q) ∧ (∀ v, v ≠ homeVoice r → p.voice v = s.play.voice v) ∧
        p.log = s.play.log ∧ p.gates = s.play.gates ∧ p.dir = s.play.dir) ∧
  (∀ (pl : Plan) (d : Directory) (a : AirTime) (w i : Nat) (it : PlanItem), pl.items[i]? = some it →
    ∃ e, (fit pl d a w)[i]? = some e ∧ (fit pl d a w).length = pl.items.length ∧
      e.index = i ∧ e.length = it.length ∧ e.transition = it.transition ∧ e.transitionSamples = it.transitionMs * 48 ∧
      e.level = it.level ∧ e.group = it.group ∧ e.link = it.link ∧ e.start = none ∧ e.startAir = none ∧ e.played = 0 ∧
      let main := d.usable it.clip a = true
      let other := d.usable it.substitute a = true
      (e.flags.substituted = true ↔ ¬ main ∧ other) ∧
      e.clip = (if e.flags.substituted = true then it.substitute else it.clip) ∧
      (¬ main → ¬ other → e.status = .skipped
        (if d.state = .scanning then .absent
        else match d.find it.clip with
          | none => .absent
          | some x => match x.state with
            | .unverified => .absent
            | .retiring => .absent
            | .suspect => .faulty
            | .bad => .faulty
            | .ready => .window)) ∧
      (main ∨ other → e.status = .pending ∨ e.status = .skipped .dropped ∧ w ≠ 0 ∧ it.droppable = true) ∧
      (e.status ≠ .pending → e.effective = none ∧ e.overlap = 0) ∧
      ∀ x, main ∨ other → d.find e.clip = some x →
        (e.flags.shortAbsent = true ↔ it.length = .short ∧ x.header.shortEnd = none) ∧
        (e.status = .pending →
          e.effective = some (if it.length = .short then x.header.shortEnd.getD x.header.length else x.header.length))) ∧
  (∀ (d : Directory) (a : AirTime) (clip : Nat), d.usable clip a = true ↔
    clip ≠ 0 ∧ d.state = .complete ∧ ∃ x, d.find clip = some x ∧ x.state = .ready ∧
      (∀ b, x.header.notBefore = some b → b.le a = true) ∧ ∀ b, x.header.notAfter = some b → a.le b = true) ∧
  (∀ (pl : Plan) (d : Directory) (a : AirTime) (w : Nat),
    let kept := fun (pl : Plan) (w : Nat) => (fit pl d a w).filter fun e => e.status == .pending
    let planned := fun (pl : Plan) (w : Nat) => ((kept pl w).map fun e => e.effective.getD 0).sum - ((kept pl w).map RunEntry.overlap).sum
    (∀ e, (kept pl w)[0]? = some e → e.overlap = 0) ∧
    (∀ i x e, (kept pl w)[i]? = some x → (kept pl w)[i + 1]? = some e → e.overlap =
      match e.transition with
      | .cut => 0
      | .mix => min e.transitionSamples (min (x.effective.getD 0 - x.overlap) (e.effective.getD 0))) ∧
    (w ≠ 0 → planned pl w ≤ w * 48 ∨
      ∀ (e : RunEntry) (it : PlanItem), e ∈ kept pl w → pl.items[e.index]? = some it → it.droppable = false) ∧
    (∀ e ∈ fit pl d a w, e.status = .skipped .dropped →
      w * 48 < planned { pl with items := pl.items.mapIdx fun j it => if j ≤ e.index then { it with droppable := false } else it } w))

/-- LEAD_IN_START completes where it is due: the lead-in start and the late-start samples are recorded, the home voice becomes the lead
voice, and the first kept entry starts with the bed ramping to 0 over the plan's lead-in, or is held at its gate in GATED, or the
filler starts and the region is in FILL. -/
def Obligations.LeadInStartRecords : Prop :=
  ∀ (s : State) (r : Region) (b : OpenBreak), s.assembling = true → s.play.leadInDue s.now r = true →
    (s.play.region r).brk = some b →
    let ms := (s.play.heldPlan r b).leadInMs
    let late := match b.split with | some x => s.link.count - x.count | none => 0
    ∃ p, exec (.leadInStart r) s = .next (s.after p) ∧ (p.region r).lead = some (homeVoice r) ∧
      (∀ q, q ≠ r → p.region q = s.play.region q) ∧ (∀ v, v ≠ homeVoice r → p.voice v = s.play.voice v) ∧ p.log = s.play.log ∧
      ∃ b', (p.region r).brk = some b' ∧ b'.leadInStart = some ⟨s.periodSeq, s.sample⟩ ∧ b'.lateStart = late ∧
        match b.run.find? fun e => e.status == .pending with
        | none => (p.region r).state = .fill ∧ (p.voice (homeVoice r)).state = .playing ∧ (p.region r).bed =
            (s.play.region r).bed.begin 0 ms ∧ b'.itemsAired = b.itemsAired
        | some e => match s.play.linkedTo r e with
          | some _ => (p.region r).state = .gated ∧ b'.run = b.run ∧ b'.itemsAired = b.itemsAired ∧
              p.voice (homeVoice r) = s.play.voice (homeVoice r) ∧
              (p.region r).bed = (s.play.region r).bed.begin (s.play.region r).config.duckLevel ms
          | none => (p.region r).state = (if ms = 0 ∨ (s.play.region r).bed.level = 0 then .localPlay else .leadin) ∧
              (p.region r).bed = (s.play.region r).bed.begin 0 ms ∧ b'.itemsAired = b.itemsAired + 1 ∧
              (p.voice (homeVoice r)).state = .playing ∧ (p.voice (homeVoice r)).pos = (s.play.voice (homeVoice r)).pos ∧
              (p.voice (homeVoice r)).fader =
                (if e.transition = .mix then (⟨0, none⟩ : Fader).begin e.level (e.transitionSamples / 48) else ⟨e.level, none⟩) ∧
              ∀ x ∈ b'.run, x.index = e.index → x.status = .playing ∧ x.start = some ⟨s.periodSeq, s.sample⟩ ∧
                x.startAir = some s.link.air

/-- ARM_TIMER_EXPIRY completes where it falls and is not set aside: the armed break is disarmed, no record is kept, the region goes to
NETWORK, the slot to READY or EMPTY, and ARM_EXPIRED is raised. -/
def Obligations.ArmExpiryDisarms : Prop :=
  ∀ (s : State) (r : Region) (b : OpenBreak) (pl : Plan), s.assembling = true → s.play.armDue s.now r = true →
    s.armSetAside r = false → (s.play.region r).brk = some b → (s.play.slot r b.slot).plan = some pl →
    ∃ p, exec (.armTimerExpiry r) s = .next (s.after p) ∧
      (p.region r).state = .network ∧ (p.region r).brk = none ∧ (p.region r).armDeadline = none ∧ (p.region r).lead = none ∧
      (p.region r).bed = (s.play.region r).bed ∧ (p.region r).config = (s.play.region r).config ∧
      (p.slot r b.slot).state =
        (if (s.play.slot r b.slot).state = .retiring ∨ s.play.duplicateReady r b.slot pl.breakId = true then .empty else .ready) ∧
      (∀ q m, q ≠ r ∨ m ≠ b.slot → p.slot q m = s.play.slot q m) ∧
      (p.voice (homeVoice r)).active = false ∧ (∀ w ∈ p.waiters, w.region ≠ r) ∧ p.log = s.play.log ∧ p.dir = s.play.dir ∧
      (s.play.agent.noticeRoom = true → s.notified p 0 (.armExpired r b.breakId b.slot))

/-- BREAK_TIMER_EXPIRY completes where it falls: in LEADIN, LOCAL, GATED and FILL it begins a closing lead-out with cause TIMEOUT, no
entry left PENDING, from the bed level before a start of this sample, which it undoes; where the bed stands at 231 already, the lead-out
is complete at once where no voice plays, and stays open while one ramps out; with lead-out duration 0 the break is closed at once; in
the early-network lead-out it marks the lead-out as closing; in RETURNED it closes the break with a BREAK record of cause TIMEOUT. That
a deadline already past expires at once (log 46), that the region keeps its gates where the early-network lead-out is only marked (log
53), that the bed level is the one before the start (log 60), and that a lead-out that is complete at its start stays open where a
REJOIN of this sample is still to come (log 61), is the model's choice. -/
def Obligations.BreakExpiryEnds : Prop :=
  ∀ (s : State) (r : Region) (b : OpenBreak), s.assembling = true → s.play.breakDue s.now r = true →
    (s.play.region r).brk = some b →
    ∃ p, exec (.breakTimerExpiry r) s = .next (s.after p) ∧
      ((s.play.region r).state ∈ [RegionState.leadin, .localPlay, .gated, .fill] →
        0 < (s.play.heldPlan r b).leadOutMs →
        (b.bedBefore s.link.count (s.play.region r).bed).level ≠ 231 ∨ s.rejoinDue r = true →
        (p.region r).state = .leadout ∧
          (p.region r).bed = (b.bedBefore s.link.count (s.play.region r).bed).begin 231 (s.play.heldPlan r b).leadOutMs ∧
          ∃ b', (p.region r).brk = some b' ∧ b'.endCause = some .timeout ∧ b'.closing = true ∧ b'.timerRuns = false ∧
            ∀ e ∈ b'.run, e.status ≠ .pending) ∧
      ((s.play.region r).state ∈ [RegionState.leadin, .localPlay, .gated, .fill] → 0 < (s.play.heldPlan r b).leadOutMs →
        (b.bedBefore s.link.count (s.play.region r).bed).level = 231 → s.rejoinDue r = false →
        ((∀ v ∈ s.play.voicesOf r, (s.play.voice v).state ≠ .playing) → BreakClosed s p r b .timeout) ∧
        ∀ v ∈ s.play.voicesOf r, RampsOut s b v → LeadOutOpen p r .timeout) ∧
      ((s.play.region r).state ∈ [RegionState.leadin, .localPlay, .gated, .fill] → (s.play.heldPlan r b).leadOutMs = 0 →
        (p.region r).state = .network ∧ (p.region r).brk = none ∧ (p.region r).bed = ⟨231, none⟩ ∧
          ∃ l n x, p.log.records = l ++ [⟨n, .brk x⟩] ∧ x.region = r ∧ x.breakId = b.breakId ∧ x.cause = .timeout ∧
            x.close = s.link.air) ∧
      ((s.play.region r).state = .leadout → b.closing = false →
        p = s.play.setRegion r { s.play.region r with
          brk := some { b with endCause := some .timeout, closing := true, timerRuns := false, endedAt := some s.link.count } }) ∧
      ((s.play.region r).state = .returned →
        (p.region r).state = .network ∧ (p.region r).brk = none ∧ (p.region r).bed = (s.play.region r).bed ∧
          ∃ l x, p.log.records = l ++ [⟨s.play.log.appended.toNat % 2 ^ 32, .brk x⟩] ∧ x.region = r ∧ x.breakId = b.breakId ∧
            x.cause = .timeout ∧ x.close = s.link.air ∧ x.lateStart = b.lateStart ∧ x.fillSamples = b.fillSamples ∧
            x.itemsAired = b.itemsAired)

/-- RAMP_COMPLETION completes for every holder: a group's ramp ends at its target and nothing else changes; the lead-in's bed ramp takes
the region to LOCAL; a lead-out's, once every voice of the region is released, closes the break with its BREAK record where the lead-out
is closing, and takes the region to RETURNED where it is not; any other bed ramp only ends; a voice ramp without the release flag only
ends; one with it releases its voice: the entry goes to TRIMMED and its ITEM record is appended with AIRED_TRIMMED and the samples it
played, behind that of the voice before it in run order where both ramps end at this sample, and before the BREAK record where the
lead-out is complete with it. The place among the sample's records (log 59), that a closing lead-out closes with the cause it has
although a REJOIN of this sample is still to come (log 65), and that the lead voice field is kept in RETURNED (log 48), are the model's
choices. -/
def Obligations.RampCompletion : Prop :=
  (∀ (s : State) (g : GainGroup), ∃ ls, exec (.rampCompletion (.group g)) s = .next { s with levels := ls } ∧
    (∀ h, h ≠ g → ls[h] = s.levels[h]) ∧
    ls[g] = (if g ≠ 0 ∧ s.levels[g].fader.complete = true then
      { s.levels[g] with fader := ⟨s.levels[g].fader.level, none⟩ } else s.levels[g])) ∧
  (∀ (s : State) (r : Region), s.assembling = true → (s.play.region r).bed.complete = true →
    (s.play.region r).state = .leadin →
    exec (.rampCompletion (.bed r)) s = .next (s.after (s.play.setRegion r { s.play.region r with
      state := .localPlay, bed := ⟨(s.play.region r).bed.level, none⟩ }))) ∧
  (∀ (s : State) (r : Region), s.assembling = true → (s.play.region r).bed.complete = true →
    let ended := { s.play.region r with bed := ⟨(s.play.region r).bed.level, none⟩ }
    let still := ∀ v ∈ s.play.voicesOf r, (s.play.voice v).active = false
    ((s.play.region r).state ≠ .leadin → (s.play.region r).state ≠ .leadout →
      exec (.rampCompletion (.bed r)) s = .next (s.after (s.play.setRegion r ended))) ∧
    ∀ b, (s.play.region r).state = .leadout → (s.play.region r).brk = some b →
      (¬ still → exec (.rampCompletion (.bed r)) s = .next (s.after (s.play.setRegion r ended))) ∧
      (still → b.closing = false →
        exec (.rampCompletion (.bed r)) s = .next (s.after (s.play.setRegion r { ended with state := .returned }))) ∧
      (still → b.closing = true → ∃ p, exec (.rampCompletion (.bed r)) s = .next (s.after p) ∧
        (p.region r).state = .network ∧ (p.region r).brk = none ∧ (p.region r).lead = none ∧ (p.region r).bed = ended.bed ∧
        ∃ l x, p.log.records = l ++ [⟨s.play.log.appended.toNat % 2 ^ 32, .brk x⟩] ∧ x.region = r ∧ x.breakId = b.breakId ∧
          (∀ k, b.endCause = some k → x.cause = k) ∧ (∀ y, b.split = some y → x.split = y.air) ∧ x.close = s.link.air ∧
          x.lateStart = b.lateStart ∧ x.fillSamples = b.fillSamples ∧ x.itemsAired = b.itemsAired)) ∧
  (∀ (s : State) (v : VoiceNo) (r : Region), s.assembling = true → (s.play.voice v).holder = some r →
    (s.play.voice v).state = .playing → (s.play.voice v).fader.complete = true →
    ((s.play.voice v).releaseAtRampEnd = false →
      exec (.rampCompletion (.voice v)) s = .next (s.after (s.play.setVoice v { s.play.voice v with
        fader := ⟨(s.play.voice v).fader.level, none⟩ }))) ∧
    ((s.play.voice v).releaseAtRampEnd = true → (s.play.voicesInRunOrder r).head? = some v →
      (s.play.voice v).itemEndDue = false →
      ∃ p, exec (.rampCompletion (.voice v)) s = .next (s.after p) ∧ (p.voice v).active = false)) ∧
  (∀ (s : State) (v : VoiceNo) (r : Region) (b : OpenBreak) (e : RunEntry), s.assembling = true → (s.play.voice v).holder = some r →
    (s.play.voice v).releaseDue = true → (s.play.voice v).itemEndDue = false → (s.play.region r).brk = some b →
    (s.play.voice v).run = some e.index → findEntry b.run e.index = some e →
    let item := fun e : RunEntry => (⟨r, b.breakId, e.index, e.clip, e.startAir.getD s.link.air, e.played, .airedTrimmed,
      { e.flags with substituted := false }⟩ : ItemRecord)
    let runsOn := (s.play.region r).state ≠ .leadout ∨ (s.play.region r).bed.ramp ≠ none
    let first := ∀ u ∈ (s.play.voicesInRunOrder r).takeWhile (· != v), (s.play.voice u).finishDue = false
    ∃ p, exec (.rampCompletion (.voice v)) s = .next (s.after p) ∧ (first → (p.voice v).active = false) ∧
      (first → runsOn → p.log = (s.play.appendItem s.now r (item e)).log ∧ (p.region r).state = (s.play.region r).state ∧
        ∃ b', (p.region r).brk = some b' ∧ b'.itemsAired = b.itemsAired ∧ ∀ x ∈ b'.run, x.index = e.index → x.status = .trimmed) ∧
      (first → ¬ runsOn → (∀ u ∈ s.play.voicesOf r, u ≠ v → (s.play.voice u).active = false) →
        (b.closing = false → p.log = (s.play.appendItem s.now r (item e)).log ∧ (p.region r).state = .returned) ∧
        (b.closing = true → (p.region r).state = .network ∧ (p.region r).brk = none ∧
          ∃ x : BreakRecord, p.log = ((s.play.appendItem s.now r (item e)).appendRecord s.now (.brk x)).log ∧ x.region = r ∧
            x.breakId = b.breakId ∧ (∀ k, b.endCause = some k → x.cause = k) ∧ x.close = s.link.air ∧ x.itemsAired = b.itemsAired)) ∧
      (∀ (u : VoiceNo) (d : RunEntry), s.play.voicesInRunOrder r = [u, v] → u ≠ v → (s.play.voice u).releaseDue = true →
        (s.play.voice u).itemEndDue = false → (s.play.voice u).run = some d.index → findEntry b.run d.index = some d →
        d.index ≠ e.index → runsOn → (p.voice u).active = false ∧ (p.voice v).active = false ∧
          p.log = ((s.play.appendItem s.now r (item d)).appendItem s.now r (item e)).log))

/-- ITEM_END completes for a voice of a region at its item end: the entry is DONE and its ITEM record is appended with the samples it
played, at the tail where its region has appended none at this sample. With a staged successor that waits for no gate, the voice plays
the successor's entry from this sample; one that waits for a gate is held, and the region arrives there in GATED with its bed ramping to
the duck level; the staged filler plays on in FILL; with the run list exhausted, no filler and no other voice active the early-network
lead-out begins, the break open; and an outgoing voice is released, or, where the next entry waits for it, is primed with that entry at
once, or when its read in flight is delivered. In LEADOUT the voice is released, and where the lead-out is complete with it the region
goes to RETURNED, or a closing break is closed, the BREAK record behind the ITEM record. Where the voice before it in run order ends at
this sample too, that one is taken first, and its record stands first. That an item end comes before the completion of a release ramp at
its sample (log 22), that the awaited voice is primed at level 0 (log 51), that the mask is read at the item end (log 24) for an entry
staged as DEGRADED_MIX too (log 79), so that a MIX staged held whose region has left the mask plays as a CUT (log 54), the record's
place among the sample's records (log 59), and that a closing break is closed with the cause it has although a REJOIN of this sample is
still to come (log 65), are the model's choices. -/
def Obligations.ItemEndCloses : Prop :=
  ∀ (s : State) (v : VoiceNo) (r : Region) (b : OpenBreak) (e : RunEntry), s.assembling = true →
    (s.play.voice v).holder = some r → (s.play.voice v).itemEndDue = true → v ∈ s.play.voicesOf r →
    (s.play.region r).brk = some b → (s.play.voice v).run = some e.index → findEntry b.run e.index = some e →
    let done := fun e : RunEntry => (⟨r, b.breakId, e.index, e.clip, e.startAir.getD s.link.air, e.played,
      (if e.flags.substituted then .substitutedAired else .airedFull), { e.flags with substituted := false }⟩ : ItemRecord)
    let item := done e
    let recorded := fun l : AsRunLog => l = (s.play.appendItem s.now r item).log ∧
      ((∀ k, b.logged = some k → k.count ≠ s.link.count) → l = (s.play.appendRecord s.now (.item item)).log)
    let first := ∀ u ∈ (s.play.voicesInRunOrder r).takeWhile (· != v), (s.play.voice u).finishDue = false
    ∃ p, exec (.itemEnd v) s = .next (s.after p) ∧ (first →
      (∀ u e2, (s.play.region r).lead = some v → (s.play.voice v).successor = some u → u.prime.run = some e2.index →
        findEntry b.run e2.index = some e2 → s.play.linkedTo r e2 = none → e2.index ≠ e.index →
        recorded p.log ∧ (p.voice v).state = .playing ∧ (p.voice v).clip = some u.prime.clip ∧
          (p.voice v).pos = u.prime.startPos ∧ (p.voice v).endPos = u.prime.endPos ∧ (p.voice v).fader = ⟨u.prime.level, none⟩ ∧
          (p.voice v).group = u.prime.group ∧ (p.voice v).startedAt = some s.link.count ∧ (p.region r).lead = some v ∧
          ∃ b2, (p.region r).brk = some b2 ∧ b2.itemsAired = b.itemsAired + 1 ∧
            ∀ x ∈ b2.run, (x.index = e.index → x.status = .done) ∧
              (x.index = e2.index → x.status = .playing ∧ x.start = some ⟨s.periodSeq, s.sample⟩)) ∧
      (∀ u e2 g, (s.play.region r).lead = some v → (s.play.voice v).successor = some u → u.prime.run = some e2.index →
        findEntry b.run e2.index = some e2 → s.play.linkedTo r e2 = some g → e2.index ≠ e.index →
        recorded p.log ∧ (p.voice v).state = .ready ∧ (p.voice v).clip = some u.prime.clip ∧ (p.voice v).pos = u.prime.startPos ∧
          (p.voice v).endPos = u.prime.endPos ∧ (p.voice v).fader = ⟨u.prime.level, none⟩ ∧ (p.region r).lead = some v ∧
          (p.region r).state = .gated ∧ (p.region r).arriving = some g ∧
          (p.region r).bed = (s.play.region r).bed.begin (s.play.region r).config.duckLevel (s.play.heldPlan r b).leadInMs ∧
          ∃ b2, (p.region r).brk = some b2 ∧ b2.itemsAired = b.itemsAired ∧ ∀ x ∈ b2.run, x.index = e.index → x.status = .done) ∧
      (∀ u, (s.play.region r).lead = some v → (s.play.voice v).successor = some u → u.prime.run = none →
        recorded p.log ∧ (p.voice v).state = .playing ∧ (p.voice v).clip = some u.prime.clip ∧ (p.voice v).pos = u.prime.startPos ∧
          (p.voice v).endPos = u.prime.endPos ∧ (p.voice v).loop = u.prime.loop ∧ (p.voice v).fader = ⟨u.prime.level, none⟩ ∧
          (p.region r).state = .fill ∧ (p.region r).lead = some v ∧ (p.region r).bed = (s.play.region r).bed ∧
          ∃ b2, (p.region r).brk = some b2 ∧ b2.itemsAired = b.itemsAired ∧ ∀ x ∈ b2.run, x.index = e.index → x.status = .done) ∧
      ((s.play.region r).lead = some v → (s.play.voice v).successor = none →
        (s.play.region r).state = .leadin ∨ (s.play.region r).state = .localPlay →
        (∀ u ∈ s.play.voicesOf r, u ≠ v → (s.play.voice u).active = false) →
        (∀ x ∈ b.run, x.index ≠ e.index → x.status ≠ .pending ∧ x.status ≠ .playing) → 0 < (s.play.heldPlan r b).leadOutMs →
        (s.play.region r).bed.level ≠ 231 →
        recorded p.log ∧ (p.voice v).active = false ∧ (p.region r).state = .leadout ∧
          (p.region r).bed = (s.play.region r).bed.begin 231 (s.play.heldPlan r b).leadOutMs ∧
          ∃ b2, (p.region r).brk = some b2 ∧ b2.closing = false ∧ b2.endCause = b.endCause ∧ b2.timerRuns = b.timerRuns ∧
            b2.deadline = b.deadline ∧ ∀ x ∈ b2.run, x.index = e.index → x.status = .done) ∧
      ((s.play.region r).lead ≠ some v → b.prep ≠ .awaiting v → (s.play.region r).state = .localPlay →
        recorded p.log ∧ (p.voice v).active = false) ∧
      (∀ e2, (s.play.region r).lead ≠ some v → b.prep = .awaiting v → nextPending b.run = some e2 → e2.index ≠ e.index →
        recorded p.log ∧ (p.region r).lead = (s.play.region r).lead ∧ (p.region r).state = (s.play.region r).state ∧
          (∃ b2, (p.region r).brk = some b2 ∧ b2.prep = .incoming v ∧ b2.itemsAired = b.itemsAired ∧
            ∀ x ∈ b2.run, x.index = e.index → x.status = .done) ∧
          ((s.play.voice v).reading = false → (p.voice v).state = .priming ∧ (p.voice v).clip = some e2.clip ∧ (p.voice v).pos = 0 ∧
            (p.voice v).endPos = e2.effective.getD 0 ∧ (p.voice v).fader = ⟨0, none⟩ ∧ (p.voice v).group = e2.group ∧
            (p.voice v).run = some e2.index ∧ (p.voice v).ring = []) ∧
          ((s.play.voice v).reading = true → (p.voice v).state = .releasing ∧ ∃ u, (p.voice v).waiting = some u ∧ u.clip = e2.clip ∧
            u.startPos = 0 ∧ u.endPos = e2.effective.getD 0 ∧ u.level = 0 ∧ u.group = e2.group ∧ u.run = some e2.index)) ∧
      ((s.play.region r).state = .leadout →
        (s.play.region r).lead = some v ∧ (s.play.voice v).successor = none ∨
          (s.play.region r).lead ≠ some v ∧ b.prep ≠ .awaiting v →
        let runsOn := (s.play.region r).bed.ramp ≠ none ∨ ∃ u ∈ s.play.voicesOf r, u ≠ v ∧ (s.play.voice u).active = true
        (p.voice v).active = false ∧
        (runsOn ∨ b.closing = false → recorded p.log ∧ (p.region r).state = (if runsOn then .leadout else .returned) ∧
          (p.region r).bed = (s.play.region r).bed ∧
          ∃ b2, (p.region r).brk = some b2 ∧ b2.itemsAired = b.itemsAired ∧ b2.endCause = b.endCause ∧
            ∀ x ∈ b2.run, x.index = e.index → x.status = .done) ∧
        (¬ runsOn → b.closing = true → (p.region r).state = .network ∧ (p.region r).brk = none ∧
          ∃ x : BreakRecord, p.log = ((s.play.appendItem s.now r item).appendRecord s.now (.brk x)).log ∧ x.region = r ∧
            x.breakId = b.breakId ∧ (∀ k, b.endCause = some k → x.cause = k) ∧ x.close = s.link.air ∧ x.itemsAired = b.itemsAired))) ∧
      ∀ (u : VoiceNo) (d : RunEntry), s.play.voicesInRunOrder r = [u, v] → u ≠ v → (s.play.voice u).itemEndDue = true →
        (s.play.voice u).run = some d.index → findEntry b.run d.index = some d → d.index ≠ e.index →
        (s.play.region r).state = .localPlay → (s.play.region r).lead = some v →
        p.log = ((s.play.appendItem s.now r (done d)).appendItem s.now r item).log ∧
          (b.prep ≠ .awaiting u → (p.voice u).active = false) ∧
          ∀ w e2, b.prep ≠ .awaiting u → (s.play.voice v).successor = some w → w.prime.run = some e2.index → b.prep = .staged →
            findEntry b.run e2.index = some e2 → e2.status = .pending → e2.index ≠ e.index → e2.index ≠ d.index →
            s.play.linkedTo r e2 = none →
            (p.voice v).state = .playing ∧ (p.voice v).clip = some w.prime.clip ∧ (p.voice v).pos = w.prime.startPos

/-- LOOP_WRAP completes where it is due: the voice plays on from position 0 with a new play begun, and its last page has left the ring. -/
def Obligations.LoopWrapRestarts : Prop :=
  ∀ (s : State) (v : VoiceNo), s.assembling = true → (s.play.voice v).state = .playing → (s.play.voice v).loop = true →
    (s.play.voice v).endPos ≤ (s.play.voice v).pos →
    ∃ pending, exec (.loopWrap v) s = .next (s.after (s.play.setVoice v { s.play.voice v with
        pos := 0, reported := false, pending := pending
        ring := match (s.play.voice v).ring with
          | pg :: rest => if pg.ref.index = pageIndex (s.play.voice v).format ((s.play.voice v).endPos - 1) then rest else pg :: rest
          | [] => [] }))

/-- GATE_OPENING starts the held entry of every region that the gate has given a start, on one sample, and PRIMED_ENTRY_START the
entry primed after a skip. FILLER_START_AFTER_SKIP completes where it is due: the filler plays on the lead voice from its present
position, and the region stays in FILL. -/
def Obligations.HeldAndFillerStarts : Prop :=
  ((∀ (s : State) (g : LinkGroup), s.assembling = true → (∃ r, s.play.openingDue s.now r g = true) →
     ∃ p, exec (.gateOpening g) s = .next (s.after p) ∧
       ∀ r, (s.play.openingDue s.now r g = true → HeldStarted s r p) ∧
         (s.play.openingDue s.now r g = false → p.region r = s.play.region r)) ∧
   (∀ (s : State) (r : Region), s.assembling = true → s.play.primedDue s.now r = true →
     ∃ p, exec (.primedEntryStart r) s = .next (s.after p) ∧ HeldStarted s r p ∧ ∀ q, q ≠ r → p.region q = s.play.region q)) ∧
  (∀ (s : State) (r : Region) (v : VoiceNo), s.assembling = true → s.play.fillerDue s.now r = true →
     (s.play.region r).lead = some v →
     ∃ p, exec (.fillerStartAfterSkip r) s = .next (s.after p) ∧ (p.voice v).state = .playing ∧
       (p.voice v).pos = (s.play.voice v).pos ∧ (p.voice v).startedAt = some s.link.count ∧ (p.region r).state = .fill ∧
       (∀ u, u ≠ v → p.voice u = s.play.voice u) ∧ (∀ q, q ≠ r → p.region q = s.play.region q) ∧ p.log = s.play.log)

/-- POOL_REQUEST completes at the request point: a region that leads with its home voice and holds no pool voice enters the waiting list
with its decision point, 4,800 samples before the mix start, or the request sample where the mix start lies at or before it; one that
leads with its pool voice primes its home voice, and one that leads with its home voice while it still holds a pool voice primes that,
or waits for its item end. That a decision point before the request sample is reached at once, and is 0 where it would lie before count
0, is the model's choice (log 37), as are the levels at these primings (log 51) and that a waiting entry stays as requested when its
region joins the mask (log 64). DECISION_POINT completes for a waiting entry that no free voice reaches, the requests due at the sample
ahead of it counted: the entry is withdrawn, staged on the lead voice as a CUT at its own level, and flagged DEGRADED_MIX. Where the
free voices reach the entry, it waits for the settling of the sample (log 23), and is granted one there: the voice is held by the region
and being primed with it at level 0. -/
def Obligations.PoolRequestAndDecision : Prop :=
  (∀ (s : State) (r : Region) (b : OpenBreak) (lead : VoiceNo) (e : RunEntry), s.assembling = true →
     s.play.requestDue r = true → s.play.moving r = some (b, lead, e) →
     ∃ p, exec (.poolRequest r) s = .next (s.after p) ∧
       (lead = homeVoice r → (s.play.region r).pool = none →
         let left := (s.play.voice lead).endPos - (s.play.voice lead).pos
         p.waiters = insertWaiter
           ⟨r, e.index, if left ≤ e.overlap then s.link.count else s.link.count + left - (e.overlap + 4800)⟩ s.play.waiters ∧
         p.voices = s.play.voices ∧ p.region r = { s.play.region r with brk := some { b with prep := .waiting } }) ∧
       (lead ≠ homeVoice r → (s.play.voice (homeVoice r)).state = .idle →
         (p.voice (homeVoice r)).state = .priming ∧ (p.voice (homeVoice r)).clip = some e.clip ∧
         (p.voice (homeVoice r)).fader = ⟨0, none⟩ ∧ (∀ v, v ≠ homeVoice r → p.voice v = s.play.voice v) ∧
         p.region r = { s.play.region r with brk := some { b with prep := .incoming (homeVoice r) } } ∧
         p.waiters = s.play.waiters) ∧
       (∀ v, lead = homeVoice r → (s.play.region r).pool = some v → v ≠ homeVoice r →
         ((s.play.voice v).state = .playing → p = s.play.setRegion r { s.play.region r with brk := some { b with prep := .awaiting v } }) ∧
         ((s.play.voice v).state = .idle →
           (p.voice v).state = .priming ∧ (p.voice v).clip = some e.clip ∧ (p.voice v).fader = ⟨0, none⟩ ∧
           (∀ u, u ≠ v → p.voice u = s.play.voice u) ∧
           p.region r = { s.play.region r with brk := some { b with prep := .incoming v } } ∧ p.waiters = s.play.waiters)) ∧
       (∀ q, q ≠ r → p.region q = s.play.region q) ∧ p.log = s.play.log) ∧
  (∀ (s : State) (r : Region) (b : OpenBreak) (lead : VoiceNo) (e : RunEntry), s.assembling = true →
     s.play.decisionDue s.now r = true → (s.play.requests s.now).wouldBeGranted r = false → s.play.moving r = some (b, lead, e) →
     ∃ p, exec (.decisionPoint r) s = .next (s.after p) ∧ p.waiters = s.play.waiters.filter (fun w => w.region != r) ∧
       (∃ u, (p.voice lead).successor = some u ∧ u.held = false ∧ u.prime.clip = e.clip ∧ u.prime.startPos = 0 ∧
         u.prime.endPos = e.effective.getD 0 ∧ u.prime.level = e.level ∧ u.prime.group = e.group ∧ u.prime.run = some e.index) ∧
       (p.voice lead).state = .playing ∧ (∀ v, v ≠ lead → p.voice v = s.play.voice v) ∧
       (∃ b', (p.region r).brk = some b' ∧ b'.prep = .staged ∧ ∀ x ∈ b'.run, x.index = e.index → x.flags.degradedMix = true) ∧
       (∀ q, q ≠ r → p.region q = s.play.region q) ∧ p.log = s.play.log) ∧
  (∀ (s : State) (r : Region), s.assembling = true → s.play.decisionDue s.now r = true →
     (s.play.requests s.now).wouldBeGranted r = true → exec (.decisionPoint r) s = .next (s.after s.play)) ∧
  (∀ (s : State) (r : Region) (b : OpenBreak) (w : Waiter) (e : RunEntry), s.assembling = true → s.play.decisionDue s.now r = true →
     ({ s with midSample := true } : State).quiet = true → (∀ q, (s.play.region q).arriving = none) →
     s.play.waiters.Pairwise (fun x y => x.region ≠ y.region) → (∀ q, s.play.requestDue q = false) →
     s.play.wouldBeGranted r = true → w ∈ s.play.waiters → w.region = r →
     (s.play.region r).brk = some b → findEntry b.run w.run = some e →
     ∃ t v, exec (.decisionPoint r) s = .next t ∧ v ∈ s.play.freePool ∧ let p := t.play
       p.region r = { s.play.region r with pool := some v, brk := some { b with prep := .incoming v } } ∧
       (p.voice v).holder = some r ∧ (p.voice v).state = .priming ∧ (p.voice v).clip = some e.clip ∧ (p.voice v).pos = 0 ∧
       (p.voice v).endPos = e.effective.getD 0 ∧ (p.voice v).fader = ⟨0, none⟩ ∧ (p.voice v).run = some e.index ∧
       (∀ u ∉ s.play.freePool, p.voice u = s.play.voice u) ∧ (∀ x ∈ p.waiters, x.region ≠ r) ∧ p.waiters <:+ s.play.waiters ∧
       (p.freePool = [] ∨ p.waiters = []) ∧ p.log = s.play.log)

/-- MIX_START completes at the mix start: with the incoming voice READY the crossfade begins over the overlap, the incoming voice
becoming the lead voice and the outgoing one playing on; otherwise the mix has become late and nothing else happens.
LATE_CROSSFADE_START completes where it is due: the entry carries LATE_MIX with its overlap shortened to what the outgoing entry has
left, and starts with a crossfade over that; after a gap it starts at its own level with overlap 0. That LATE_MIX is set at the late
start and not at the mix start (log 80), that there is no lead voice in the gap (log 52), and that the member mask is not read again
after the request point (log 64), are the model's choices. -/
def Obligations.MixesStart : Prop :=
  (∀ (s : State) (r : Region) (b : OpenBreak) (lead v : VoiceNo) (e : RunEntry), s.assembling = true → s.play.mixDue r = true →
     s.play.moving r = some (b, lead, e) → b.incoming = some v → v ≠ lead →
     ((s.play.voice v).state ≠ .ready →
       exec (.mixStart r) s = .next (s.after (s.play.setRegion r { s.play.region r with brk := some { b with mixLate := true } }))) ∧
     ((s.play.voice v).state = .ready →
       ∃ p, exec (.mixStart r) s = .next (s.after p) ∧ (p.region r).lead = some v ∧ (p.voice v).state = .playing ∧
         (p.voice v).fader = (⟨0, none⟩ : Fader).begin e.level (e.overlap / 48) ∧ (p.voice v).pos = (s.play.voice v).pos ∧
         p.voice lead = { s.play.voice lead with
           fader := (s.play.voice lead).fader.begin 0 (e.overlap / 48), releaseAtRampEnd := false } ∧
         (∃ b', (p.region r).brk = some b' ∧ b'.itemsAired = b.itemsAired + 1 ∧
           ∀ x ∈ b'.run, x.index = e.index → x.status = .playing ∧ x.start = some ⟨s.periodSeq, s.sample⟩) ∧
         (∀ u, u ≠ v → u ≠ lead → p.voice u = s.play.voice u) ∧ (∀ q, q ≠ r → p.region q = s.play.region q) ∧
         p.log = s.play.log)) ∧
  (∀ (s : State) (r : Region) (b : OpenBreak) (v : VoiceNo) (e : RunEntry), s.assembling = true →
     s.play.lateMixDue s.now r = true → (s.play.region r).brk = some b → b.incoming = some v → nextPending b.run = some e →
     ∃ p, exec (.lateCrossfadeStart r) s = .next (s.after p) ∧ (p.region r).lead = some v ∧ (p.voice v).state = .playing ∧
       (∀ q, q ≠ r → p.region q = s.play.region q) ∧ p.log = s.play.log ∧
       (∀ o, (s.play.region r).lead = some o → o ≠ v → (s.play.voice o).state = .playing →
         (s.play.voice o).pos < (s.play.voice o).endPos →
         let left := (s.play.voice o).endPos - (s.play.voice o).pos
         (p.voice v).fader = (⟨0, none⟩ : Fader).begin e.level (left / 48) ∧
           (p.voice o).fader = (s.play.voice o).fader.begin 0 (left / 48) ∧ (p.voice o).pos = (s.play.voice o).pos ∧
           ∃ b', (p.region r).brk = some b' ∧ ∀ x ∈ b'.run, x.index = e.index →
             x.status = .playing ∧ x.overlap = left ∧ x.flags.lateMix = true) ∧
       ((s.play.region r).lead = none → (p.voice v).fader = ⟨e.level, none⟩ ∧
         ∃ b', (p.region r).brk = some b' ∧ ∀ x ∈ b'.run, x.index = e.index →
           x.status = .playing ∧ x.overlap = 0 ∧ x.flags.lateMix = true))

/-- GATE_DEADLINE at the frame boundary opens a gate whose deadline has passed with the arrived set short: the open point is the next
frame's first sample, every arrived region is given its start, and GATE_DEADLINE is raised. JOIN_DEADLINE closes an open gate: each
region still awaited enters the missed set with the gate's break ID. -/
def Obligations.GateBoundaries : Prop :=
  (∀ (s : State) (g : LinkGroup), s.sample = 48 → s.play.gateDeadlineDue s.now g = true →
    let x := s.play.gate g
    ∃ p, exec (.gateDeadline g) s = .next { s with play := p } ∧ (p.gate g).openPoint = some s.link.count ∧
      (p.gate g).joinDeadline = some (s.link.count + x.waitMs * 48) ∧ (p.gate g).arrived = x.arrived ∧
      (p.gate g).expected = x.expected ∧ (p.gate g).state = (if x.waitMs = 0 then .closed else .opened) ∧
      (∀ h, h ≠ g → p.gate h = s.play.gate h) ∧ p.voices = s.play.voices ∧
      (∀ r, p.region r = if x.arrived.any (fun a => a.1 == r) then { s.play.region r with opening := some g } else s.play.region r) ∧
      (s.play.agent.noticeRoom = true → s.notified p 0 (.gateDeadline g x.breakId x.expected x.arrived))) ∧
  (∀ (s : State) (g : LinkGroup), s.sample = 48 → s.play.joinDeadlineDue s.now g = true →
    let x := s.play.gate g
    ∃ y, exec (.joinDeadline g) s = .next { s with play := s.play.setGate g y } ∧ y.state = .closed ∧
      y = { x with state := .closed, missed := y.missed } ∧
      (∀ r, inMask x.expected r = true → (x.arrived.any fun a => a.1 == r) = false → (r, x.breakId.getD 0) ∈ y.missed))

/-- The cues of a break. A SPLIT with the armed break ID in PRIMED: the split point is the target with the dispatch count less the
lateness, the break deadline lies the SPLIT's nominal length (the region's maximum break where that is 0) and the overrun allowance
after it, the timer runs, the arm deadline is cleared, the region leaves PRIMED, every run entry keeps what the PREPARE fitted, and the
ITEM records of the skipped entries are appended in run order with the split air time. Its lead-in begins at once with the home voice
READY, or with nothing primed, which goes to RETURNED; with the home voice PRIMING, or a priming that waits on it, the region waits in
LEADIN. A SPLIT in NETWORK takes the plan and fits it, does the same, and primes the home voice with the first kept entry, or with the
filler where there is none; with nothing to prime the region goes to RETURNED. That a first kept MIX has its own level at the priming is
the model's choice (log 51), as is the air time of a late split point (log 17). A PREPARE with the armed break ID counts the arm
deadline anew; a PREPARE or SPLIT with another ID disarms and looks for a plan afresh. In a running state a PREPARE, and a SPLIT with
another ID, is answered CUE_SEQUENCE alone, and a SPLIT with the open ID is ignored. A REJOIN or CANCEL with another ID or no break open
is ignored. In PRIMED it disarms, a REJOIN with CUE_SEQUENCE; that this carries PRIMED and the armed ID is the model's choice (log 47).
In LEADIN, LOCAL, GATED and FILL it begins the closing lead-out, complete at once where the bed stands at 231 and no voice plays; it
marks an early-network one closing, where the region keeps its gates by the model's choice (log 53); in a closing one it is ignored, but
a REJOIN amends a TIMEOUT of its sample; in RETURNED it closes the break. That a lead-out which is complete when it is amended closes
there is the model's choice (log 61), as is the bed level from which a lead-out undoes a start of its sample (log 60). -/
def Obligations.WarmSplitSetsTimer : Prop :=
  (∀ (s : State) (r : Region) (c : PendingCue) (b : OpenBreak), s.assembling = true → s.dueCue r = some c → c.kind = .split →
    (s.play.region r).state = .primed → (s.play.region r).brk = some b → b.breakId = c.breakId →
    ∃ p, exec (.cueDispatch r) s = .next (({ s with cues := s.cues.mark c r } : State).after p) ∧
      (p.region r).armDeadline = none ∧
      (p.region r).state ∈ [RegionState.leadin, .localPlay, .gated, .fill, .returned] ∧
      ∃ b', (p.region r).brk = some b' ∧ b'.slot = b.slot ∧ b'.closing = b.closing ∧ b'.endCause = b.endCause ∧
        SplitBy s r c b' ∧
        ((b.run.map RunEntry.index).Pairwise (· < ·) → List.Forall₂ SameFit b.run b'.run ∧
          (b.logged = none → p.log = (s.play.appendAll s.now (skipRecords r c.breakId b.run b'.splitAir)).log)) ∧
        let home := s.play.voice (homeVoice r)
        let first := b.run.find? fun e => e.status == .pending
        let ms := (s.play.heldPlan r b).leadInMs
        (home.state = .ready ∨ home.active = false ∧ home.waiting = none →
          b'.leadInStart = some ⟨s.periodSeq, s.sample⟩ ∧ b'.lateStart = s.link.count - (s.link.count - c.lateness s.periodSeq)) ∧
        (home.state = .ready → (p.region r).lead = some (homeVoice r) ∧
          match first with
          | none => (p.region r).state = .fill ∧ (p.voice (homeVoice r)).state = .playing
          | some e => match s.play.linkedTo r e with
            | some g => (p.region r).state = .gated ∧ (p.region r).arriving = some g ∧ p.voice (homeVoice r) = home
            | none => (p.region r).state = (if ms = 0 ∨ (s.play.region r).bed.level = 0 then .localPlay else .leadin) ∧
                (p.voice (homeVoice r)).state = .playing ∧ b'.itemsAired = b.itemsAired + 1 ∧ (p.region r).bed =
                (s.play.region r).bed.begin 0 ms) ∧
        (home.active = false → home.waiting = none → first = none → (p.region r).state = .returned) ∧
        (home.state = .priming ∨ home.active = false ∧ home.waiting ≠ none →
          (p.region r).state = .leadin ∧ b'.leadInStart = b.leadInStart ∧ p.voice (homeVoice r) = home ∧
            (p.region r).bed = (s.play.region r).bed)) ∧
  (∀ (s : State) (r : Region) (c : PendingCue), s.assembling = true → s.dueCue r = some c → c.kind = .split →
    (s.play.region r).state = .network →
    ∃ p, exec (.cueDispatch r) s = .next (({ s with cues := s.cues.mark c r } : State).after p) ∧
      (s.play.findPlan r c.breakId = none → p = s.play) ∧
      ∀ (n : Fin 16) (pl : Plan), s.play.findPlan r c.breakId = some n → (s.play.slot r n).plan = some pl →
        (s.play.voice (homeVoice r)).state = .idle → (s.play.voice (homeVoice r)).waiting = none →
        let run := fit pl s.play.dir s.link.air c.nominal
        p.slot r n = ⟨.inUse, some pl⟩ ∧ (∀ q m, q ≠ r ∨ m ≠ n → p.slot q m = s.play.slot q m) ∧ (p.region r).armDeadline = none ∧
        (∃ b', (p.region r).brk = some b' ∧ b'.slot = n ∧ b'.run = run ∧ b'.endCause = none ∧ SplitBy s r c b' ∧
          p.log = (s.play.appendAll s.now (skipRecords r c.breakId run b'.splitAir)).log ∧
          (∀ e, (run.find? fun e => e.status == .pending) = some e →
            (p.region r).state = .leadin ∧ b'.leadInStart = none ∧ PrimedWith p r e) ∧
          ((∀ e ∈ run, e.status ≠ .pending) → pl.fill = .filler →
            s.play.dir.usable (s.play.region r).config.fillerClip s.link.air = true →
            (p.region r).state = .leadin ∧ b'.leadInStart = none ∧ FillerPrimed s p r) ∧
          ((∀ e ∈ run, e.status ≠ .pending) →
            pl.fill = .earlyNetwork ∨ s.play.dir.usable (s.play.region r).config.fillerClip s.link.air = false →
            (p.region r).state = .returned ∧ b'.leadInStart = some ⟨s.periodSeq, s.sample⟩ ∧
              (p.voice (homeVoice r)).active = false)) ∧
        (p.region r).bed = (s.play.region r).bed ∧ (∀ q, q ≠ r → p.region q = s.play.region q)) ∧
  (∀ (s : State) (r : Region) (c : PendingCue) (b : OpenBreak), s.assembling = true → s.dueCue r = some c →
    c.kind = .prepare ∨ c.kind = .split → (s.play.region r).brk = some b →
    ∃ p, exec (.cueDispatch r) s = .next (({ s with cues := s.cues.mark c r } : State).after p) ∧
      ((s.play.region r).state = .primed → c.kind = .prepare → b.breakId = c.breakId →
        p = s.play.setRegion r { s.play.region r with
          armDeadline := some (s.link.count + (s.play.region r).config.armTimeoutS * 48000) }) ∧
      ((s.play.region r).state = .primed → b.breakId ≠ c.breakId →
        ((p.region r).brk = none ∧ (p.region r).state = .network ∧ (s.play.disarm r .network).findPlan r c.breakId = none ∨
          ∃ b' n, (p.region r).brk = some b' ∧ b'.breakId = c.breakId ∧ b'.slot = n ∧
            (s.play.disarm r .network).findPlan r c.breakId = some n ∧
            (c.kind = .prepare → (p.region r).state = .primed) ∧
            (c.kind = .split → (p.region r).state = .leadin ∨ (p.region r).state = .returned))) ∧
      ((s.play.region r).state ∈ [RegionState.leadin, .localPlay, .gated, .fill, .leadout, .returned] →
        (c.kind = .split → b.breakId = c.breakId → p = s.play) ∧
        (c.kind = .prepare ∨ b.breakId ≠ c.breakId →
          p = s.play.raise s.now 0
            (.cueSequence r c.kind c.breakId c.target (s.play.region r).state b.breakId ⟨s.periodSeq, s.sample⟩)))) ∧
  (∀ (s : State) (r : Region) (c : PendingCue), s.assembling = true → s.dueCue r = some c → c.kind = .rejoin ∨ c.kind = .cancel →
    let cause := if c.kind = .rejoin then EndCause.rejoinCue else .cancel
    let x := s.play.region r
    ∃ p, exec (.cueDispatch r) s = .next (({ s with cues := s.cues.mark c r } : State).after p) ∧
      ((∀ b, x.brk = some b → b.breakId ≠ c.breakId) → p = s.play) ∧
      ∀ b, x.brk = some b → b.breakId = c.breakId →
        let ms := (s.play.heldPlan r b).leadOutMs
        let bed := b.bedBefore s.link.count x.bed
        (x.state = .primed → (p.region r).state = .network ∧ (p.region r).brk = none ∧ (p.region r).armDeadline = none ∧
          (p.region r).bed = x.bed ∧ (p.voice (homeVoice r)).active = false ∧ (∀ w ∈ p.waiters, w.region ≠ r) ∧ p.log = s.play.log ∧
          p.agent = (if c.kind = .rejoin then (s.play.raise s.now 0
            (.cueSequence r .rejoin c.breakId c.target .primed c.breakId ⟨s.periodSeq, s.sample⟩)).agent else s.play.agent)) ∧
        (x.state ∈ [RegionState.leadin, .localPlay, .gated, .fill] → 0 < ms → bed.level ≠ 231 →
          (p.region r).state = .leadout ∧ (p.region r).bed = bed.begin 231 ms ∧
            ∃ b', (p.region r).brk = some b' ∧ b'.endCause = some cause ∧ b'.closing = true ∧ b'.timerRuns = false ∧
              ∀ e ∈ b'.run, e.status ≠ .pending) ∧
        (x.state ∈ [RegionState.leadin, .localPlay, .gated, .fill] → 0 < ms → bed.level = 231 →
          ((∀ v ∈ s.play.voicesOf r, (s.play.voice v).state ≠ .playing) → BreakClosed s p r b cause) ∧
          ∀ v ∈ s.play.voicesOf r, RampsOut s b v → LeadOutOpen p r cause) ∧
        (x.state ∈ [RegionState.leadin, .localPlay, .gated, .fill] → ms = 0 →
          (p.region r).state = .network ∧ (p.region r).brk = none ∧ (p.region r).bed = ⟨231, none⟩ ∧
            ∃ l n y, p.log.records = l ++ [⟨n, .brk y⟩] ∧ y.region = r ∧ y.breakId = b.breakId ∧ y.cause = cause ∧
              y.close = s.link.air) ∧
        (x.state = .leadout → b.closing = false → p = s.play.setRegion r { x with
          brk := some { b with endCause := some cause, closing := true, timerRuns := false, endedAt := some s.link.count } }) ∧
        (x.state = .leadout → b.closing = true →
          let amends := c.kind = .rejoin ∧ b.endCause = some .timeout ∧ b.endedAt = some s.link.count
          let still := x.bed.ramp = none ∧ ∀ v ∈ s.play.voicesOf r, (s.play.voice v).active = false
          (¬ amends → p = s.play) ∧
          (amends → ¬ still → p = s.play.setRegion r { x with brk := some { b with endCause := some .rejoinCue } }) ∧
          (amends → still → (p.region r).state = .network ∧ (p.region r).brk = none ∧
            ∃ l n y, p.log.records = l ++ [⟨n, .brk y⟩] ∧ y.region = r ∧ y.breakId = b.breakId ∧ y.cause = .rejoinCue)) ∧
        (x.state = .returned → (p.region r).state = .network ∧ (p.region r).brk = none ∧ (p.region r).bed = x.bed ∧
          ∃ l n y, p.log.records = l ++ [⟨n, .brk y⟩] ∧ y.region = r ∧ y.breakId = b.breakId ∧ y.cause = cause ∧
            y.close = s.link.air ∧ y.lateStart = b.lateStart ∧ y.fillSamples = b.fillSamples ∧ y.itemsAired = b.itemsAired))

/-! ## Levels and the mix -/

/-- A ramp begun from level R toward Rt over d milliseconds: complete at its start where the span or d is 0; otherwise, with the step
interval k the larger of 1 and floor(d × 48 / span), its level m samples on is R moved floor(m / k) steps toward Rt, up to k × span
samples, where it stands at Rt and is complete. -/
def Obligations.RampFollowsItsSteps : Prop :=
  ∀ (f : Fader) (target ms : Nat),
    let span := (target - f.level) + (f.level - target)
    let k := max 1 (ms * 48 / span)
    (span = 0 ∨ ms = 0 → f.begin target ms = ⟨target, none⟩) ∧
    (span ≠ 0 → ms ≠ 0 → ∀ m, m ≤ k * span →
      (faderAfter (f.begin target ms) m).level = (if f.level < target then f.level + m / k else f.level - m / k) ∧
      ((faderAfter (f.begin target ms) m).complete = true ↔ m = k * span)) ∧
    (span ≠ 0 → ms ≠ 0 → (faderAfter (f.begin target ms) (k * span)).level = target)

/-- The contribution of a term is floor((s × G + 16,384) / 32,768) with G the gain of its level: the exact quotient to the nearest whole
number, half-way upward. A term of gain 0 contributes 0, one at level 231 the sample itself, and the gain rises strictly from level 1
to level 255. -/
def Obligations.ContributionRounds : Prop :=
  (∀ (x : Int) (e : Nat), 32768 * contribution x e ≤ x * lin e + 16384 ∧ x * lin e + 16384 < 32768 * (contribution x e + 1)) ∧
  (∀ x : Int, contribution x 0 = 0 ∧ contribution x 231 = x) ∧
  (∀ e, 1 ≤ e → e < 255 → lin e < lin (e + 1)) ∧ (∀ e, e ≤ 255 → lin e ≤ 65382)

/-- One sample of a region that holds one voice, or two: the output of each channel is the sum of the contributions of the bed and of
each PLAYING voice, brought into the 24-bit range; the peaks and the clamp count take it in; and every output lies in the range. The
effective level of a voice is 0 where its own or its group's level is 0, and otherwise the sum of both and the trim less 231, brought
into 0..255. A voice hands the sample of its ring's first page where that is the page of its play position, read little-endian by the
clip's format; zeros where the page is missing or failed. Each PLAYING voice advances its play position and its ramp by one sample and
sets UNDERRUN or DROPOUT, its run entry counts the sample and takes the flag, a sample in FILL counts as a fill sample, and the first
failed page of a play is reported to the directory: the clip's fault count rises to at most 3, and the third takes a READY entry to
SUSPECT with CLIP_SUSPECT. The samples of a step are formed so, region by region, and the groups above 0 then advance their ramps by one
sample. -/
def Obligations.MixSumsAndClamps : Prop :=
  (∀ (p : Play) (t : Now) (gs : Vector GroupRec 8) (bed : Int × Int) (r : Region),
    let x := p.region r
    let terms := (bed, x.bed.level) :: ((p.voicesOf r).filter fun v => (p.voice v).state == .playing).map fun v =>
      ((p.voice v).hands.1, effectiveLevel (p.voice v).fader.level (groupLevel gs (p.voice v).group) (p.voice v).trim)
    let left := (terms.map fun y => contribution y.1.1 y.2).sum
    let right := (terms.map fun y => contribution y.1.2 y.2).sum
    let clamp := fun z : Int => max (-8388608) (min 8388607 z)
    let y := (p.mixRegion t gs bed r).region r
    y.out = x.out ++ [(clamp left, clamp right)] ∧ y.peakL = max x.peakL (clamp left).natAbs ∧
      y.peakR = max x.peakR (clamp right).natAbs ∧ y.state = x.state ∧ y.bed = x.bed.advance ∧
      y.clampCount = if clamp left ≠ left ∨ clamp right ≠ right then min 65535 (x.clampCount + 1) else x.clampCount) ∧
  (∀ (r f : Nat) (t : Int), (effectiveLevel r f t : Int) = if r = 0 ∨ f = 0 then 0 else max 0 (min 255 ((r : Int) + f + t - 231))) ∧
  (∀ (v : Voice) (pg : RingPage) (rest : List RingPage), v.ring = pg :: rest →
    v.hands = if pg.ref.owner = .current ∧ pg.ref.index = v.pos / v.format.samplesPerPage then
      (if pg.failed = true then ((0, 0), false, true) else (pg.image.sample v.format v.pos, false, false))
    else ((0, 0), true, false)) ∧
  (∀ v : Voice, v.ring = [] → v.hands = ((0, 0), true, false)) ∧
  (∀ (image : PageImage) (pos : Nat),
    let at16 := fun i => (image.byte (i + 1) ++ image.byte i).toInt * 256
    let at24 := fun i => (image.byte (i + 2) ++ image.byte (i + 1) ++ image.byte i).toInt
    image.sample .m16 pos = (at16 (pos % 2048 * 2), at16 (pos % 2048 * 2)) ∧
    image.sample .s16 pos = (at16 (pos % 1024 * 4), at16 (pos % 1024 * 4 + 2)) ∧
    image.sample .s24 pos = (at24 (pos % 512 * 8), at24 (pos % 512 * 8 + 4))) ∧
  (∀ (p : Play) (t : Now) (gs : Vector GroupRec 8) (bed : Int × Int) (r : Region),
    let x := p.region r
    let q := p.mixRegion t gs bed r
    let plays := fun v => v ∈ p.voicesOf r ∧ (p.voice v).state = .playing
    let fails := fun v => plays v ∧ (p.voice v).hands.2.2 = true ∧ (p.voice v).reported = false
    (∀ y, y ≠ r → q.region y = p.region y) ∧ (∀ v, ¬ plays v → q.voice v = p.voice v) ∧ q.log = p.log ∧ q.gates = p.gates ∧
    ((p.voicesOf r).Nodup →
      ((∀ v, ¬ fails v) → q.dir = p.dir ∧ q.agent = p.agent) ∧
      (∀ v, plays v →
        let y := p.voice v
        let z := q.voice v
        z.state = .playing ∧ z.pos = y.pos + 1 ∧ z.endPos = y.endPos ∧ z.clip = y.clip ∧ z.run = y.run ∧ z.successor = y.successor ∧
          z.fader = y.fader.advance ∧ z.underrun = (y.underrun || y.hands.2.1) ∧ z.dropout = (y.dropout || y.hands.2.2) ∧
          z.ring <:+ y.ring) ∧
      (∀ v clip, fails v → (p.voice v).clip = some clip → (∀ u, fails u → u = v) →
        q.dir = (p.reportFault t clip).dir ∧ q.agent = (p.reportFault t clip).agent) ∧
      ∀ b, x.brk = some b → ∃ b', q.region r = { q.region r with brk := some b' } ∧
        b'.fillSamples = (if x.state = .fill then b.fillSamples + 1 else b.fillSamples) ∧ b'.itemsAired = b.itemsAired ∧
        (∀ i, (∀ v, plays v → (p.voice v).run ≠ some i) → findEntry b'.run i = findEntry b.run i) ∧
        ∀ v i, plays v → (p.voice v).run = some i → (∀ u, plays u → (p.voice u).run = some i → u = v) →
          findEntry b'.run i = (findEntry b.run i).map fun e => { e with
            played := e.played + 1
            flags := { e.flags with
              dropout := e.flags.dropout || (p.voice v).hands.2.2, underrun := e.flags.underrun || (p.voice v).hands.2.1 } })) ∧
  (∀ (p : Play) (t : Now) (clip : Nat) (e : DirEntry), p.dir.find clip = some e →
    let q := p.reportFault t clip
    q.dir.find clip = some { e with
      faults := min 3 (e.faults + 1), state := if e.state = .ready ∧ 2 ≤ e.faults then .suspect else e.state } ∧
    (∀ n, n ≠ clip → q.dir.find n = p.dir.find n) ∧ q.voices = p.voices ∧ q.regions = p.regions ∧ q.log = p.log ∧
    (e.state = .ready → 2 ≤ e.faults → p.agent.noticeRoom = true →
      (⟨t.address, 0, .notice (.clipSuspect clip e.firstBlock 3 e.weak), t.count⟩ : QueueEntry) ∈ q.agent.returns) ∧
    (e.state ≠ .ready ∨ e.faults < 2 → q.agent = p.agent)) ∧
  (∀ (s : State) (x : Period), s.period = some x → s.sample < 48 →
    let u := s.takeEvents
    s.formSample.play = allRegions.foldl (fun q r => q.mixRegion u.now u.levels (x.bed.getD s.sample (0, 0)) r) u.play ∧
      u.now = s.now ∧ s.formSample.levels[(0 : GainGroup)] = u.levels[(0 : GainGroup)] ∧
      ∀ g : GainGroup, g ≠ 0 → s.formSample.levels[g] = { u.levels[g] with fader := u.levels[g].fader.advance })

/-! ## The As-Run Log -/

/-- Every append and every fetch keeps the balance, while the appended count is below its 48-bit limit: records appended are those
fetched, overwritten and held, and the log sequences held run on by 1 up to the appended count. An append to a full log overwrites the
oldest record. The ITEM record of an open break stands at the tail, but before those records of later run entries of its break that its
region appended at this sample, which is the model's choice (log 59). A notice that finds fewer than 24 notices and fewer than 32
entries, an addressed Read Page in hand counted, joins the tail of the return queue, before those of its own sample that other blocks
have raised with a greater code, or with the same code and a greater region; without room it is dropped, or the last such one is, and
the notices-dropped flag is set. Which block raises a notice (log 36), to which sample one raised between two samples belongs (log 71),
that it stands behind a reply placed among those of its sample (log 75), and where the rules of order conflict (log 81), is the model's
choice. Every step keeps the queues in their bounds. -/
def Obligations.AsRunLogBalance : Prop :=
  (∀ (p : Play) (t : Now) (b : AsRunBody), p.log.Balanced → p.log.appended.toNat + 1 < 2 ^ 48 →
    (p.appendRecord t b).log.Balanced ∧
    (p.appendRecord t b).log.appended = p.log.appended + 1 ∧
    (p.appendRecord t b).log.records = (if p.log.records.length < 4096 then p.log.records else p.log.records.drop 1) ++
      [⟨p.log.appended.toNat % 2 ^ 32, b⟩] ∧
    (p.appendRecord t b).log.raised = (p.log.raised || decide ((p.appendRecord t b).log.records.length = 3072)) ∧
    (p.appendRecord t b).log.fetched = p.log.fetched ∧
    (p.appendRecord t b).log.overwritten = (if p.log.records.length < 4096 then p.log.overwritten else p.log.overwritten + 1) ∧
    (p.appendRecord t b).dir = p.dir ∧ (p.appendRecord t b).regions = p.regions ∧ (p.appendRecord t b).voices = p.voices) ∧
  (∀ (l : AsRunLog) (n : Nat), l.Balanced → (l.fetch n).Balanced ∧ (l.fetch n).records = l.records.drop n ∧
    (l.fetch n).appended = l.appended ∧ (l.fetch n).overwritten = l.overwritten) ∧
  (∀ (p : Play) (t : Now) (r : Region) (b : OpenBreak) (x : ItemRecord), p.log.Balanced → p.log.appended.toNat + 1 < 2 ^ 48 →
    (p.region r).brk = some b →
    let q := p.appendItem t r x
    let earlier := match b.logged with
      | some k => if k.count = t.count then (p.log.appended - k.first).toNat else 0
      | none => 0
    q.log.Balanced ∧ q.log.appended = p.log.appended + 1 ∧ q.log.fetched = p.log.fetched ∧
      ∃ front back, p.log.room.map AsRunRecord.body = front ++ back ∧
        q.log.records.map AsRunRecord.body = front ++ .item x :: back ∧ back.length ≤ earlier ∧
        (∀ y, back.head? = some y → ∃ z, y = .item z ∧ z.region = x.region ∧ z.breakId = x.breakId ∧ x.run < z.run) ∧
        ∀ y ∈ front.drop (p.log.room.length - earlier), ∀ z, y = .item z → z.region = x.region → z.breakId = x.breakId → z.run ≤ x.run) ∧
  (∀ (p : Play) (t : Now) (tag : Nat) (n : Notice),
    let e : QueueEntry := ⟨t.address, tag, .notice n, t.count⟩
    let a := p.agent
    let behind := fun y : QueueEntry => ∃ m, y.payload = .notice m ∧ y.stamp = t.count ∧ n.before m = true
    let held := match a.inHand with
      | some j => if j.broadcast = false then 1 else 0
      | none => 0
    let room := (a.returns.filter fun y => y.isNotice).length < 24 ∧ a.returns.length + held < 32
    (room → ∃ x y, a.returns = x ++ y ∧ p.raise t tag n = { p with agent := { a with returns := x ++ e :: y } } ∧
      (∀ z ∈ y, behind z) ∧ ∀ z, x.getLast? = some z → ¬ behind z) ∧
    (¬ room → (∀ z, a.returns.getLast? = some z → ¬ behind z) →
      p.raise t tag n = { p with agent := { a with noticesDropped := true } }) ∧
    (¬ room → ∀ l z, a.returns = l ++ [z] → behind z → ∃ x y, l = x ++ y ∧
      p.raise t tag n = { p with agent := { a with returns := x ++ e :: y, noticesDropped := true } } ∧
      (∀ u ∈ y, behind u) ∧ ∀ u, x.getLast? = some u → ¬ behind u)) ∧
  (∀ a b : Notice, a.before b = true ↔ a.raiser ≠ b.raiser ∧ (a.code < b.code ∨ a.code = b.code ∧ a.regionKey < b.regionKey)) ∧
  (∀ s t : State, QueueInv s → step s = .next t → QueueInv t)

/-! ## The flash array -/

/-- Which reads may start: none while a read is in flight or a step of an operation that is not a suspended erase runs; class 1 in a
suspended erase; classes 1 to 3 between two steps; classes 1 and 2 ahead of a waiting operation; every class otherwise. READ_START
serves the first pending request of the lowest class that may start now, and of that class nothing of a lower one is pending: the read
in flight names the requester, the logical page and the physical block, and nothing else changes but the request's mark. That the array
counts as free before the first step of a relocation or remap as it does between two (log 57), where a step not started waits for class
1 and class 2 reads (log 27), is the model's choice. -/
def Obligations.ReadStartServesFirst : Prop :=
  (∀ s : State,
     (s.inFlight ≠ none → s.openClass = 0) ∧
     (s.inFlight = none → s.store.current = none → s.openClass = if s.store.queue = [] then 5 else 2) ∧
     (∀ c, s.inFlight = none → s.store.current = some c →
       s.openClass = if c.started = false then 3 else if c.phase = .suspended then 1 else 0)) ∧
  (∀ (s : State) (n : Nat) (q : ReadRequest), s.inFlight = none → n ∈ [1, 2, 3, 4, 5] → n ≤ s.openClass → s.firstOf n = some q →
     (∀ m ∈ [1, 2, 3, 4, 5], m < n → s.firstOf m = none) →
     ∃ t, exec .readStart s = .next t ∧ t.inFlight = some ⟨q.who, q.page, s.settings.physical (q.page / 64)⟩ ∧
       (∀ v, q.who = .voice v → t = { s with
         inFlight := t.inFlight
         play := s.play.setVoice v { s.play.voice v with
           pending := (s.play.voice v).pending.map fun x => { x with inFlight := true } } }) ∧
       (q.who = .relocation → t = { s with
         inFlight := t.inFlight
         store := { s.store with current := s.store.current.map fun c => { c with started := true } } }) ∧
       ((∀ v, q.who ≠ .voice v) → q.who ≠ .relocation → t = { s with inFlight := t.inFlight }))

/-- The outcome of an attempt over its eight 512-byte spans, and of a read of up to three attempts. -/
def Obligations.ReadOutcomeBySpans : Prop :=
  (∀ a : Attempt,
    (attemptOutcome a = .uncorrectable ↔ ∃ i < 8, 8 < spanFlips a i) ∧
    (attemptOutcome a = .clean ↔ ∀ i < 8, spanFlips a i = 0) ∧
    (∀ n, attemptOutcome a = .corrected n ↔ 0 < n ∧ n ≤ 8 ∧ (∀ i < 8, spanFlips a i ≤ n) ∧ ∃ i < 8, spanFlips a i = n)) ∧
  (∀ a b c : Attempt,
    (attemptOutcome a ≠ .uncorrectable → ∀ single, endRead single a b c = ⟨attemptOutcome a, 1, a⟩) ∧
    (attemptOutcome a = .uncorrectable → endRead true a b c = ⟨.uncorrectable, 1, a⟩) ∧
    (attemptOutcome a = .uncorrectable → attemptOutcome b ≠ .uncorrectable → endRead false a b c = ⟨attemptOutcome b, 2, b⟩) ∧
    (attemptOutcome a = .uncorrectable → attemptOutcome b = .uncorrectable → endRead false a b c = ⟨attemptOutcome c, 3, c⟩))

/-- READ_DELIVERY completes for every read in flight. A page read for a voice that still wants it joins the end of the voice's ring,
failed after three uncorrectable attempts, and where it was corrected by 6 bits or more its clip's weak-read count rises by 1; one for a
voice that has moved on is discarded, reports nothing, and the voice asks for the page it wants; one for a RELEASING voice is discarded,
and the voice goes to IDLE, a pool voice back to the pool and out of the lead voice field (model's choice, log 45), or takes the priming
that waits on it, which is the model's choice where its clip is RETIRING (log 56); the read of a cancelled verify or one that a soft
reset left is discarded. To the scan: an unreadable head page is counted; a well-formed header that fits its block registers its clip
UNVERIFIED at the tail of the verify queue and the scan goes on behind its extent, or, where the clip number is registered, counts a
duplicate with DUPLICATE_CLIP; any other page sends the scan on to the next block. To the Verify Unit: the page is verified or not, its
checksum taken in, and behind the last audio page the job ends READY or BAD with VERIFY_DONE; that a head page which does not match its
entry counts as not verified and gives no last good page is the model's choice (log 32). To Read Page: the reply carries the bytes, the
outcome, the attempts, the tag and the physical block, a spare numbered behind the logical blocks by the model's choice (log 84). To a
relocation: a failed copy read is counted as lost, a programmed page is programmed into the spare next, and an erased one is passed
over. -/
def Obligations.ReadDeliveryJoinsRing : Prop :=
  (∀ (s : State) (f : InFlight) (v : VoiceNo) (q : PendingRead) (a b c : Attempt), s.inFlight = some f → f.who = .voice v →
    (s.play.voice v).pending = some q → (s.play.voice v).state ≠ .releasing →
    ({ s.play.voice v with pending := none } : Voice).wanted = some q.ref →
    ∃ p, exec (.readDelivery a b c) s = .next (({ s with inFlight := none } : State).between p) ∧
      (p.voice v).ring = (s.play.voice v).ring ++ [⟨q.ref, readFlash s.flash (f.block * 64 + f.page % 64),
        (endRead false a b c).outcome == .uncorrectable⟩] ∧
      (p.voice v).state = (if (s.play.voice v).state = .priming ∧
        (s.play.voice v).pagesNeeded ≤ (s.play.voice v).ring.length + 1 then .ready else (s.play.voice v).state) ∧
      (∀ u, u ≠ v → p.voice u = s.play.voice u) ∧ p.regions = s.play.regions ∧ p.log = s.play.log ∧
      let weak := ∃ n, 6 ≤ n ∧ (endRead false a b c).outcome = .corrected n
      let clip := match q.ref.owner with
        | .current => (s.play.voice v).clip
        | .successor => (s.play.voice v).successor.map fun u => u.prime.clip
      (¬ weak → p.dir = s.play.dir) ∧
      ∀ n, weak → clip = some n → (∀ k, k ≠ n → p.dir.find k = s.play.dir.find k) ∧
        p.dir.find n = (s.play.dir.find n).map fun e => { e with weak := min 65535 (e.weak + 1) }) ∧
  (∀ (s : State) (f : InFlight) (v : VoiceNo) (q : PendingRead) (a b c : Attempt), s.inFlight = some f → f.who = .voice v →
    (s.play.voice v).pending = some q → (s.play.voice v).state = .releasing →
    let x := s.play.voice v
    ∃ p, exec (.readDelivery a b c) s = .next (({ s with inFlight := none } : State).between p) ∧ p.dir = s.play.dir ∧
      p.agent = s.play.agent ∧ p.log = s.play.log ∧ (∀ u, u ≠ v → p.voice u = s.play.voice u) ∧
      (x.waiting = none →
        p.voice v = { x with state := .idle, pending := none, holder := if 24 ≤ v.val then none else x.holder } ∧
        (v.val < 24 → p.regions = s.play.regions) ∧
        ∀ r, 24 ≤ v.val → x.holder = some r → (p.region r).pool ≠ some v ∧ (p.region r).lead ≠ some v) ∧
      ∀ u, x.waiting = some u → p.regions = s.play.regions ∧ (p.voice v).state = .priming ∧ (p.voice v).waiting = none ∧
        (p.voice v).clip = some u.clip ∧ (p.voice v).pos = u.startPos ∧ (p.voice v).endPos = u.endPos ∧
        (p.voice v).fader = ⟨u.level, none⟩ ∧ (p.voice v).group = u.group ∧ (p.voice v).run = u.run ∧ (p.voice v).ring = []) ∧
  (∀ (s : State) (f : InFlight) (v : VoiceNo) (q : PendingRead) (a b c : Attempt), s.inFlight = some f → f.who = .voice v →
    (s.play.voice v).pending = some q → (s.play.voice v).state ≠ .releasing →
    let wanted := ({ s.play.voice v with pending := none } : Voice).wanted
    wanted ≠ some q.ref →
    exec (.readDelivery a b c) s = .next (({ s with inFlight := none } : State).between
      (s.play.setVoice v { s.play.voice v with pending := wanted.map fun x => ⟨x, false⟩ }))) ∧
  (∀ (s : State) (f : InFlight) (a b c : Attempt), s.inFlight = some f → f.who = .cancelledVerify ∨ f.who = .discarded →
    exec (.readDelivery a b c) s = .next ({ s with inFlight := none } : State).settleArray) ∧
  (∀ (s : State) (f : InFlight) (a b c : Attempt), s.inFlight = some f →
    ∃ t, exec (.readDelivery a b c) s = .next t ∧ t.inFlight = none ∧ t.flash = s.flash ∧ t.settings = s.settings ∧
      t.link = s.link ∧ t.store.queue = s.store.queue ∧ t.pending = s.pending) ∧
  (∀ (s : State) (f : InFlight) (a b c : Attempt), s.inFlight = some f → f.who = .scan →
    let d := s.play.dir
    let block := d.scan.next
    let image := readFlash s.flash (f.block * 64 + f.page % 64)
    let lost := (endRead false a b c).outcome = .uncorrectable
    ∃ t, exec (.readDelivery a b c) s = .next t ∧
      (lost → t.play.dir.entries = d.entries ∧ t.play.dir.queue = d.queue ∧
        ScanGoesOn s { d.scan with unreadable := d.scan.unreadable + 1 } (block + 1) t) ∧
      (¬ lost → (∀ clip h, image.header = .header clip h → 32768 < block + h.extent) →
        t.play.dir.entries = d.entries ∧ t.play.dir.queue = d.queue ∧ ScanGoesOn s d.scan (block + 1) t) ∧
      ∀ clip h, ¬ lost → image.header = .header clip h → block + h.extent ≤ 32768 →
        (d.find clip = none →
          (∀ x, x ∈ t.play.dir.entries ↔ x = ⟨clip, .unverified, block, h.extent, h, 0, 0, none⟩ ∨ x ∈ d.entries) ∧
          t.play.dir.queue = (if (∃ q ∈ d.queue, q.1 = clip) then d.queue else d.queue ++ [(clip, none)]) ∧
          ScanGoesOn s { d.scan with registered := d.scan.registered + 1 } (block + h.extent) t) ∧
        (∀ e, d.find clip = some e → t.play.dir.entries = d.entries ∧ t.play.dir.queue = d.queue ∧
          ScanGoesOn s { d.scan with duplicates := d.scan.duplicates + 1 } (block + h.extent) t ∧
          (s.play.agent.noticeRoom = true → s.play.agent.returns.length + 2 ≤ 24 →
            s.notified t.play 0 (.duplicateClip clip e.firstBlock block)))) ∧
  (∀ (s : State) (f : InFlight) (a b c : Attempt) (j : VerifyJob) (e : DirEntry) (good : Bool), s.inFlight = some f → f.who = .verify →
    s.verify = some j → s.play.dir.find j.clip = some e →
    let image := readFlash s.flash (f.block * 64 + f.page % 64)
    let out := (endRead false a b c).outcome
    let matches_ := ∃ h, image.header = .header e.clip h ∧ h = e.header ∧ e.firstBlock + h.extent ≤ 32768
    (good = true ↔ out ≠ .uncorrectable ∧ (j.next ≠ 0 ∨ matches_)) →
    let covered := min 4096 (e.header.length * e.header.format.sampleBytes - (j.next - 1) * 4096)
    let sum := if good ∧ j.next ≠ 0 then (j.sum + wordSum (image.bytes 0 covered)) % 2 ^ 32 else j.sum
    let weak := match out with
      | .corrected n => if 6 ≤ n then min 65535 (e.weak + 1) else e.weak
      | _ => e.weak
    let result : VerifyResult := ⟨if good then j.verified + 1 else j.verified, if good then j.notVerified else j.notVerified + 1,
      if good then some j.next else j.lastGood, sum⟩
    ∃ t, exec (.readDelivery a b c) s = .next t ∧ t.play.dir.queue = s.play.dir.queue ∧
      (∀ clip, clip ≠ j.clip → t.play.dir.find clip = s.play.dir.find clip) ∧
      (j.next ≠ e.header.audioPages →
        t.verify = some { j with
          next := j.next + 1, verified := result.verified, notVerified := result.notVerified, lastGood := result.lastGood, sum := sum } ∧
        t.play.dir.find j.clip = some { e with weak := weak }) ∧
      (j.next = e.header.audioPages →
        let pass := result.notVerified = 0 ∧ sum = e.header.audioSum
        t.verify = none ∧
          t.play.dir.find j.clip = some { e with
            weak := weak, state := if pass then .ready else .bad, faults := if pass then 0 else e.faults, lastVerify := some result } ∧
          (s.play.agent.noticeRoom = true →
            s.notified t.play (j.tag.getD 0) (.verifyDone j.clip (decide pass) result e.header.audioSum)))) ∧
  (∀ (s : State) (f : InFlight) (a b c : Attempt) (j : ReadJob), s.inFlight = some f → f.who = .readPage →
    s.play.agent.inHand = some j →
    let image := readFlash s.flash (f.block * 64 + f.page % 64)
    let e := endRead j.fields.single a b c
    ∃ t bytes, exec (.readDelivery a b c) s = .next t ∧ bytes.length = j.fields.count ∧
      t.play = { s.play with agent := { s.play.agent with
        inHand := none
        returns := s.play.agent.returns ++ (if j.broadcast = true then [] else
          [⟨s.link.address, j.tag, .reply 0x59 .ok (.page bytes e.outcome e.attempts image.tag f.block), s.link.count⟩]) } } ∧
      (e.outcome ≠ .uncorrectable → ∀ i, i < j.fields.count → bytes[i]? = some (image.byte (j.fields.offset + i)))) ∧
  (∀ (s : State) (f : InFlight) (a b c : Attempt) (k : Current) (m : Spares) (i : Nat), s.inFlight = some f → f.who = .relocation →
    s.store.current = some k → k.stage = .relocRead m i →
    let image := readFlash s.flash (f.block * 64 + f.page % 64)
    let lost := (endRead false a b c).outcome = .uncorrectable
    let onward := fun (m : Spares) => if i + 1 < k.op.index then Stage.relocRead m (i + 1) else .relocStaged m
    ∃ t x, exec (.readDelivery a b c) s = .next t ∧ t.play = s.play ∧ t.store.current = some x ∧ x.op = k.op ∧
      x.stage = (if lost then onward { m with lost := m.lost + 1 } else if image.tag = true then .relocProgram m i image else onward m))

/-- VERIFY_TAKE completes where the Verify Unit has no job, the directory is COMPLETE and the queue is not empty: the head of the queue
becomes the job, with its tag and all its counts 0. -/
def Obligations.VerifyTakeStartsJob : Prop :=
  ∀ (s : State) (clip : Nat) (tag : Option Nat) (rest : List (Nat × Option Nat)), s.verify = none →
    s.play.dir.state = .complete → s.play.dir.queue = (clip, tag) :: rest →
    (∀ f, s.inFlight = some f → f.who ≠ .cancelledVerify) →
    exec .verifyTake s = .next { s with
      verify := some ⟨clip, tag, 0, 0, 0, none, 0, true⟩, play := { s.play with dir := { s.play.dir with queue := rest } } }

/-- STORE_OPERATION_START with the array free and no class 1 or class 2 read pending: the head of the store queue becomes current at its
first step, unless it is an operation on a block worn meanwhile, which ends WORN, or a commit of a page whose tag is set, which ends
PAGE_NOT_ERASED: the array is not touched and a commit gives up the staging buffer. That the tag is found set at the start, without a
read operation, is the model's choice (log 26). -/
def Obligations.StoreOperationStarts : Prop :=
  ∀ (s : State) (op : StoreOp) (rest : List StoreOp), s.inFlight = none → s.store.current = none →
    s.play.refilling = false → s.store.queue = op :: rest →
    let begun := fun (st : Stage) => exec .storeOperationStart s = .next { s with
      store := { s.store with queue := rest, current := some ⟨op, st, true, .running, 0⟩ } }
    let ended := fun (res : StoreResult) => ∃ t, exec .storeOperationStart s = .next t ∧ t.store.current = none ∧
      t.store.queue = rest ∧ t.flash = s.flash ∧ t.settings = s.settings ∧ t.play.dir.queue = s.play.dir.queue ∧
      (∀ page tag head, op = .commit page tag head → t.store.staging = [] ∧ t.store.holds = none) ∧
      (s.play.agent.noticeRoom = true →
        s.notified t.play op.tag (.storeDone op.target res s.settings.boundary s.settings.floor))
    match op with
    | .boundary .. => begun .settings
    | .floor .. => begun .settings
    | .erase block _ => if block ∈ s.settings.worn then ended .worn else begun .erase
    | .commit page _ _ =>
      if page / 64 ∈ s.settings.worn then ended .worn
      else if (readFlash s.flash (s.settings.physicalPage page)).tag = true then ended .pageNotErased
      else begun .program

/-- PAGE_PROGRAM_COMPLETE of a commit. A pass: the page reads as the staging buffer at every offset with its tag set, every other page
and the Settings Area stand, the buffer reads 0xFF and is free, and the commit ends DONE; a head commit then registers its clip
UNVERIFIED at the tail of the verify queue. A fail: no page changes, which is the model's choice (log 43), and the commit goes on as a
relocation to the lowest unused spare, or towards the worn set where none is left. A program of a relocation: a copied page stands in
the spare and the next copy follows, or the staged page; the staged page stands at its index and the mapping is installed next, the
programmed pages above it counted as lost, which is the model's choice (log 18); a fail spends the spare, and the relocation starts
again with the lowest unused one, or ends towards the worn set. That its copied and lost pages are then counted from 0 is the model's
choice (log 74). -/
def Obligations.PageProgramEnds : Prop :=
  (∀ (s : State) (page tag n : Nat) (head : Option (Nat × Nat)),
    s.store.current = some ⟨.commit page tag head, .program, true, .running, n⟩ →
    (∃ t, exec (.pageProgramComplete true) s = .next t ∧
      (∀ off, (readFlash t.flash (s.settings.physicalPage page)).byte off = readCell s.store.staging off) ∧
      (readFlash t.flash (s.settings.physicalPage page)).tag = true ∧
      (∀ k, k ≠ s.settings.physicalPage page → readFlash t.flash k = readFlash s.flash k) ∧
      t.settings = s.settings ∧ t.store.current = none ∧ t.store.staging = [] ∧ t.store.holds = none ∧
      t.store.queue = s.store.queue ∧
      (s.play.agent.noticeRoom = true →
        s.notified t.play tag (.storeDone (.commit page) .done s.settings.boundary s.settings.floor)) ∧
      (head = none → t.play.dir = s.play.dir) ∧
      ∀ x clip h, head = some x → s.store.stagedHeader = .header clip h → s.play.dir.find clip = none →
        (∀ e, e ∈ t.play.dir.entries ↔ e = ⟨clip, .unverified, page / 64, h.extent, h, 0, 0, none⟩ ∨ e ∈ s.play.dir.entries) ∧
        t.play.dir.queue =
          (if (∃ q ∈ s.play.dir.queue, q.1 = clip) then s.play.dir.queue else s.play.dir.queue ++ [(clip, none)])) ∧
    (∃ t, exec (.pageProgramComplete false) s = .next t ∧ t.flash = s.flash ∧ t.settings = s.settings ∧ t.play = s.play ∧
      t.store.staging = s.store.staging ∧ t.store.holds = s.store.holds ∧ t.store.queue = s.store.queue ∧
      ∃ c, t.store.current = some c ∧ c.op = .commit page tag head ∧
        c.stage = match s.settings.lowestUnused [] with
          | some k => .relocErase ⟨k, [], 0, 0⟩
          | none => .relocWorn [])) ∧
  (∀ (s : State) (page tag n : Nat) (head : Option (Nat × Nat)) (m : Spares) (st : Stage),
    s.store.current = some ⟨.commit page tag head, st, true, .running, n⟩ →
    let goes := fun (pass : Bool) (fl : List (Nat × PageImage)) (next : Stage) => ∃ t c, exec (.pageProgramComplete pass) s = .next t ∧
      t.flash = fl ∧ t.settings = s.settings ∧ t.play = s.play ∧ t.store.queue = s.store.queue ∧ t.store.staging = s.store.staging ∧
      t.store.current = some c ∧ c.op = .commit page tag head ∧ c.stage = next
    let again := match s.settings.lowestUnused (addSpent m.spent m.spare) with
      | some k => Stage.relocErase ⟨k, addSpent m.spent m.spare, 0, 0⟩
      | none => .relocWorn (addSpent m.spent m.spare)
    (∀ i image, st = .relocProgram m i image →
      goes true (writeFlash s.flash ((32768 + m.spare) * 64 + i) image)
        (if i + 1 < page % 64 then .relocRead { m with copied := m.copied + 1 } (i + 1)
        else .relocStaged { m with copied := m.copied + 1 }) ∧
      goes false s.flash again) ∧
    (st = .relocStaged m →
      goes true (writeFlash s.flash ((32768 + m.spare) * 64 + page % 64) ⟨.erased, s.store.staging, true, false⟩)
        (.relocInstall { m with lost := m.lost + ((List.range 64).filter fun i =>
          decide (page % 64 < i) && (readFlash s.flash (s.settings.physical (page / 64) * 64 + i)).tag).length }) ∧
      goes false s.flash again)) ∧
  (∀ (spent : List Nat) (k j : Nat), spent.Pairwise (· < ·) →
    (addSpent spent k).Pairwise (· < ·) ∧ (j ∈ addSpent spent k ↔ j = k ∨ j ∈ spent)) ∧
  (∀ (t : Settings) (spent : List Nat),
    let free := fun k => k < 256 ∧ (∀ e ∈ t.remap, e.2 ≠ k) ∧ k ∉ t.spent ∧ k ∉ spent
    match t.lowestUnused spent with
    | some k => free k ∧ ∀ j, j < k → ¬ free j
    | none => ∀ k, ¬ free k)

/-- BLOCK_ERASE_COMPLETE of an erase. A pass: every page of the block reads 0xFF with a clear tag, every other page stands, and the
erase ends DONE with a RETIRING clip of that block gone. A fail: the pages of other blocks stand, and the erase goes on as a remap to
the lowest unused spare, or towards the worn set. An erase of a spare: a pass of a relocation's goes on to the copies, a pass of a
remap's ends the erase REMAPPED with REMAP_DONE; a fail spends the spare, and a relocation starts again with the lowest unused one, a
remap installs the lowest unused one, and either ends towards the worn set where there is none. ERASE_SUSPENDED completes while a class
1 request is pending: the erase is SUSPENDED, the pages of the block that is being erased read as free values, which is the model's
choice (log 10), and nothing else changes. That a relocation which starts again counts its pages from 0 is the model's choice too (log
74). -/
def Obligations.EraseEndsAndSuspends : Prop :=
  (∀ (s : State) (block tag n : Nat), s.store.current = some ⟨.erase block tag, .erase, true, .running, n⟩ →
     (∃ t, exec (.blockEraseComplete true) s = .next t ∧
       (∀ k, readFlash t.flash k = if k / 64 = s.settings.physical block then ⟨.erased, [], false, false⟩ else readFlash s.flash k) ∧
       t.settings = s.settings ∧ t.store.current = none ∧ t.store.queue = s.store.queue ∧ t.store.staging = s.store.staging ∧
       t.play.dir.entries = s.play.dir.entries.filter (fun e => !(e.state == .retiring && e.firstBlock == block)) ∧
       (s.play.agent.noticeRoom = true →
         s.notified t.play tag (.storeDone (.erase block) .done s.settings.boundary s.settings.floor))) ∧
     (∃ t, exec (.blockEraseComplete false) s = .next t ∧
       (∀ k, k / 64 ≠ s.settings.physical block → readFlash t.flash k = readFlash s.flash k) ∧ t.settings = s.settings ∧
       t.play = s.play ∧ t.store.queue = s.store.queue ∧
       ∃ c, t.store.current = some c ∧ c.op = .erase block tag ∧
         c.stage = match s.settings.lowestUnused [] with
           | some k => .remapInstall ⟨k, [], 0, 0⟩
           | none => .remapWorn [])) ∧
  (∀ (s : State) (op : StoreOp) (m : Spares) (st : Stage) (n : Nat), s.store.current = some ⟨op, st, true, .running, n⟩ →
    st = .relocErase m ∨ st = .remapErase m →
    let clean := fun t : State => ∀ k, readFlash t.flash k =
      if k / 64 = 32768 + m.spare then ⟨.erased, [], false, false⟩ else readFlash s.flash k
    let onward := fun (t : State) (next : Stage) => ∃ c, t.store.current = some c ∧ c.op = op ∧ c.stage = next ∧ t.play = s.play
    ∃ t u, exec (.blockEraseComplete true) s = .next t ∧ exec (.blockEraseComplete false) s = .next u ∧
      t.settings = s.settings ∧ u.settings = s.settings ∧ t.store.queue = s.store.queue ∧ u.store.queue = s.store.queue ∧ clean t ∧
      (∀ k, k / 64 ≠ 32768 + m.spare → readFlash u.flash k = readFlash s.flash k) ∧
      (st = .relocErase m →
        onward t (if 0 < op.index then .relocRead m 0 else .relocStaged m) ∧
        onward u (match s.settings.lowestUnused (addSpent m.spent m.spare) with
          | some k => .relocErase ⟨k, addSpent m.spent m.spare, 0, 0⟩
          | none => .relocWorn (addSpent m.spent m.spare))) ∧
      (st = .remapErase m →
        (∀ block tag, op = .erase block tag → t.store.current = none ∧
          t.play.dir.entries = s.play.dir.entries.filter (fun e => !(e.state == .retiring && e.firstBlock == block)) ∧
          (s.play.agent.noticeRoom = true → s.play.agent.returns.length + 2 ≤ 24 →
            s.notified t.play tag (.storeDone (.erase block) .remapped s.settings.boundary s.settings.floor) ∧
            s.notified t.play 0 (.remapDone block m.spare .erase m.copied m.lost
              (256 - (s.settings.remap.length + s.settings.spent.length))))) ∧
        onward u (match s.settings.lowestUnused [] with
          | some k => .remapInstall ⟨k, [], 0, 0⟩
          | none => .remapWorn [m.spare]))) ∧
  (∀ (s : State) (c : Current), s.store.current = some c → c.started = true → c.stage.erases = true → c.phase = .suspending →
     s.play.urgent = true →
     let block := match c.stage with
       | .relocErase m => 32768 + m.spare
       | .remapErase m => 32768 + m.spare
       | _ => s.settings.physical c.op.block
     ∃ fl, exec .eraseSuspended s = .next { s with
         store := { s.store with current := some { c with phase := .suspended } }, flash := fl, occasion := s.occasion + 64 } ∧
       ∀ k, readFlash fl k = if k / 64 = block then
         ⟨.free (s.occasion + k % 64), [], Config.freeTag (s.occasion + k % 64), false⟩ else readFlash s.flash k)

/-- SETTINGS_WRITE_COMPLETE of a boundary or a floor: P and L take the values of the write together, the rest of the Settings Area, the
array, the queue and the prospective values stand, and STORE_DONE carries P and L. That of an install: the block is mapped to the spare,
the spare that it was mapped to and those spent on the way are spent, every other block keeps its mapping, and a relocation ends
REMAPPED with REMAP_DONE, a head commit registering its clip UNVERIFIED, while a remap goes on to erase the spare. That of a worn set:
the block joins it while it holds fewer than 64, the spares are spent, a failed spare leaves its mapping, which is the model's choice
(log 19), and the operation ends WORN: a commit gives up the staging buffer and registers nothing, an erase takes the RETIRING clip of
its block away. -/
def Obligations.SettingsWriteTakesEffect : Prop :=
  (∀ (s : State) (op : StoreOp) (p l n : Nat), s.store.current = some ⟨op, .settings, true, .running, n⟩ →
    ((∃ tag, op = .boundary p tag) ∧ l = s.settings.floor ∨ ∃ tag, op = .floor l p tag) →
    ∃ t, exec .settingsWriteComplete s = .next t ∧ t.settings = { s.settings with boundary := p, floor := l } ∧
      t.flash = s.flash ∧ t.store = { s.store with current := none } ∧ t.play.dir = s.play.dir ∧ t.play.log = s.play.log ∧
      t.play.regions = s.play.regions ∧ t.play.voices = s.play.voices ∧ t.link = s.link ∧ t.pending = s.pending ∧
      (s.play.agent.noticeRoom = true → s.notified t.play op.tag (.storeDone op.target .done p l))) ∧
  (∀ (s : State) (op : StoreOp) (m : Spares) (st : Stage) (n : Nat), s.store.current = some ⟨op, st, true, .running, n⟩ →
    st = .relocInstall m ∨ st = .remapInstall m → (s.settings.remap.map Prod.fst).Pairwise (· < ·) →
    ∃ t, exec .settingsWriteComplete s = .next t ∧ t.flash = s.flash ∧ t.store.queue = s.store.queue ∧
      t.settings.boundary = s.settings.boundary ∧ t.settings.floor = s.settings.floor ∧ t.settings.worn = s.settings.worn ∧
      (∀ b, t.settings.physical b = if b = op.block then 32768 + m.spare else s.settings.physical b) ∧
      (t.settings.remap.map Prod.fst).Pairwise (· < ·) ∧
      (∀ x, x ∈ t.settings.remap ↔ x = (op.block, m.spare) ∨ x ∈ s.settings.remap ∧ x.1 ≠ op.block) ∧
      (∀ k, k ∈ t.settings.spent ↔ k ∈ s.settings.spent ∨ k ∈ m.spent ∨ (op.block, k) ∈ s.settings.remap) ∧
      (st = .remapInstall m → t.play = s.play ∧ ∃ c, t.store.current = some c ∧ c.op = op ∧ c.stage = .remapErase m) ∧
      (st = .relocInstall m → t.store.current = none ∧
        (∀ page tag head, op = .commit page tag head → t.store.staging = [] ∧ t.store.holds = none ∧
          (head = none → t.play.dir = s.play.dir) ∧
          ∀ x clip h, head = some x → s.store.stagedHeader = .header clip h → s.play.dir.find clip = none →
            (∀ e, e ∈ t.play.dir.entries ↔ e = ⟨clip, .unverified, page / 64, h.extent, h, 0, 0, none⟩ ∨ e ∈ s.play.dir.entries) ∧
            t.play.dir.queue =
              (if (∃ q ∈ s.play.dir.queue, q.1 = clip) then s.play.dir.queue else s.play.dir.queue ++ [(clip, none)])) ∧
        (s.play.agent.noticeRoom = true → s.play.agent.returns.length + 2 ≤ 24 →
          s.notified t.play op.tag (.storeDone op.target .remapped s.settings.boundary s.settings.floor) ∧
          s.notified t.play 0 (.remapDone op.block m.spare .program m.copied m.lost
            (256 - (t.settings.remap.length + t.settings.spent.length)))))) ∧
  (∀ (s : State) (op : StoreOp) (spent : List Nat) (st : Stage) (n : Nat), s.store.current = some ⟨op, st, true, .running, n⟩ →
    st = .relocWorn spent ∨ st = .remapWorn spent →
    ∃ t, exec .settingsWriteComplete s = .next t ∧ t.flash = s.flash ∧ t.store.queue = s.store.queue ∧ t.store.current = none ∧
      t.settings.boundary = s.settings.boundary ∧ t.settings.floor = s.settings.floor ∧
      (∀ k, k ∈ t.settings.worn ↔ k ∈ s.settings.worn ∨ k = op.block ∧ s.settings.worn.length < 64) ∧
      (∀ k, k ∈ t.settings.spent ↔ k ∈ s.settings.spent ∨ k ∈ spent) ∧
      t.settings.remap = (if st = .relocWorn spent then s.settings.remap else s.settings.remap.filter fun e => !spent.contains e.2) ∧
      (∀ page tag head, op = .commit page tag head → t.store.staging = [] ∧ t.store.holds = none ∧ t.play.dir = s.play.dir) ∧
      (∀ block tag, op = .erase block tag → t.store.staging = s.store.staging ∧ t.play.dir.queue = s.play.dir.queue ∧
        t.play.dir.entries = s.play.dir.entries.filter fun e => !(e.state == .retiring && e.firstBlock == block)) ∧
      (s.play.agent.noticeRoom = true →
        s.notified t.play op.tag (.storeDone op.target .worn s.settings.boundary s.settings.floor)))

/-! ## Requests -/

/-- A request command does nothing where the head of the input queue is not a message of its kind that may be taken: a request in hand,
a pending reset, no room for the reply, or a sample that has been begun, which is the model's choice (logs 2, 58). UNKNOWN_KIND does
nothing on a kind of the catalogue. -/
def Obligations.RequestWaits : Prop :=
  (∀ (s : State) (c : Instr) (kind : Nat), requestKind c = some kind → (∀ m rest, ¬ Takes s kind m rest) → exec c s = .next s) ∧
  (∀ s : State, (∀ m rest, m.kind ∉ catalogue → ¬ Takes s m.kind m rest) → exec .unknownKind s = .next s)

/-- A taken message of no catalogue kind is answered UNKNOWN_KIND and does nothing else. A taken request whose body has not the
length its kind requires is refused BAD_ARGUMENT; one of the four store requests also clears the unlock latch. That the command
carries its fields as read from the body (log 4), that a request without parameters requires a body of length 0 (log 5), and that the
length is refused before every other test, while SCANNING and without the latch too (log 39), are the model's choices. -/
def Obligations.RequestRefusedAtTaking : Prop :=
  (∀ (s : State) (m : Message) (rest : List Message), Takes s m.kind m rest → m.kind ∉ catalogue →
     exec .unknownKind s = .next (s.answered m rest .unknownKind .none)) ∧
  ((∀ (s : State) (m : Message) (rest : List Message) (c : Instr) (kind : Nat),
     c ∈ [Instr.configureRegion none, .regionStatus none, .forceNetwork none, .releaseBypass none, .openPlan none, .appendItem none,
       .closePlan none, .clearPlan none, .readPlan none, .voiceStatus none, .setGroupLevel none, .configureLinkGroup none,
       .gateStatus none, .directoryQuery none, .clipStatus none, .loadPageData none, .verifyClip none, .readPage none,
       .remapStatus none, .fetchAsRun none] → requestKind c = some kind → Takes s kind m rest →
     exec c s = .next (s.answered m rest .badArgument .none)) ∧
   (∀ (s : State) (m : Message) (rest : List Message) (c : Instr) (kind : Nat),
     c ∈ [Instr.commitPage none, .eraseBlock none, .setProtectBoundary none, .raiseLockFloor none] →
     requestKind c = some kind → Takes s kind m rest →
     exec c s = .next { s.answered m rest .badArgument .none with store := { s.store with unlocked := false } }) ∧
   (∀ (s : State) (m : Message) (rest : List Message) (c : Instr) (kind : Nat),
     c ∈ [Instr.identify, .resetEnable, .reset, .readLevels, .storeUnlock, .asRunStatus, .linkStatus] →
     requestKind c = some kind → Takes s kind m rest → m.body ≠ [] →
     exec c s = .next (s.answered m rest .badArgument .none)))

/-- IDENTIFY answers OK with the identity record, in every state, and changes nothing. -/
def Obligations.IdentifyAnswers : Prop :=
  ∀ (s : State) (m : Message) (rest : List Message), Takes s 0x01 m rest → m.body = [] →
    exec .identify s = .next (s.answered m rest .ok (.identify
      { vendor := 0x3A71, part := 2432, revision := 1, address := s.link.address, regions := 24, voices := 32, blocks := 32768,
        spares := 256, sparesUsed := s.settings.remap.length + s.settings.spent.length, boundary := s.settings.boundary,
        floor := s.settings.floor, directory := s.play.dir.state }))

/-- RESET_ENABLE sets the latch. RESET is refused REFUSED_STATE without it; with it the OK reply is placed and the reset becomes pending
on that reply, or on the next frame boundary for a broadcast. -/
def Obligations.ResetNeedsItsLatch : Prop :=
  ∀ (s : State) (m : Message) (rest : List Message), m.body = [] →
    (Takes s 0x02 m rest → exec .resetEnable s = .next { s with play := { s.play with
      agent := { s.agentAfter m rest .ok .none with resetEnable := true } } }) ∧
    (Takes s 0x03 m rest → s.play.agent.resetEnable = false →
      exec .reset s = .next (s.answered m rest .refusedState .none)) ∧
    (Takes s 0x03 m rest → s.play.agent.resetEnable = true → exec .reset s = .next { s with play := { s.play with
      agent := { s.agentAfter m rest .ok .none with
        resetEnable := false, resetPending := some (if m.target = 255 then .nextBoundary else .onReply) } } })

/-- CONFIGURE_REGION in NETWORK or BYPASS takes all seven fields, clamped, and goes to BYPASS where enabled is no; in another state it
is refused REFUSED_STATE. RELEASE_BYPASS takes an enabled region from BYPASS to NETWORK and is otherwise refused. A region above 23 or a
filler clip above 1,023 is refused BAD_ARGUMENT. That the state is tested before the filler clip (log 40), and that RELEASE_BYPASS
refuses a region above 23 with this code (log 49), is the model's choice. REGION_STATUS returns the region's record and clears the clamp
count and the peaks, and nothing else changes. -/
def Obligations.RegionRequests : Prop :=
  ((∀ (s : State) (m : Message) (rest : List Message) (f : ConfigureRegionFields) (r : Region), Takes s 0x10 m rest →
     f.region = r.val →
     let x := s.play.region r
     let off := x.state ≠ .network ∧ x.state ≠ .bypass
     (off → exec (.configureRegion (some f)) s = .next (s.answered m rest .refusedState .none)) ∧
     (¬ off → 1023 < f.fillerClip → exec (.configureRegion (some f)) s = .next (s.answered m rest .badArgument .none)) ∧
     (¬ off → f.fillerClip ≤ 1023 → exec (.configureRegion (some f)) s = .next { s with play :=
       { s.play.setRegion r { x with
           state := if f.enabled then x.state else .bypass
           config := ⟨f.enabled, f.fillerClip, f.fillerLevel, f.duckLevel, min f.overrunMs 10000, min (max f.maxBreakMs 1000) 600000,
             min (max f.armTimeoutS 1) 60⟩ } with
         agent := s.agentAfter m rest .ok .none } })) ∧
   (∀ (s : State) (m : Message) (rest : List Message) (r : Region), Takes s 0x13 m rest →
     let x := s.play.region r
     (x.state = .bypass → x.config.enabled = true → exec (.releaseBypass (some r.val)) s = .next { s with play :=
       { s.play.setRegion r { x with state := .network } with agent := s.agentAfter m rest .ok .none } }) ∧
     (x.state ≠ .bypass ∨ x.config.enabled = false →
       exec (.releaseBypass (some r.val)) s = .next (s.answered m rest .refusedState .none))) ∧
   (∀ (s : State) (m : Message) (rest : List Message) (f : ConfigureRegionFields) (n : Nat), 23 < f.region → 23 < n →
     (Takes s 0x10 m rest → exec (.configureRegion (some f)) s = .next (s.answered m rest .badArgument .none)) ∧
     (Takes s 0x11 m rest → exec (.regionStatus (some n)) s = .next (s.answered m rest .badArgument .none)) ∧
     (Takes s 0x12 m rest → exec (.forceNetwork (some n)) s = .next (s.answered m rest .badArgument .none)) ∧
     (Takes s 0x13 m rest → exec (.releaseBypass (some n)) s = .next (s.answered m rest .badArgument .none)))) ∧
  (∀ (s : State) (m : Message) (rest : List Message) (r : Region), Takes s 0x11 m rest →
     let x := s.play.region r
     ∃ y, exec (.regionStatus (some r.val)) s = .next { s with play :=
       { s.play.setRegion r { x with clampCount := 0, peakL := 0, peakR := 0 } with
         agent := s.agentAfter m rest .ok (.regionStatus y) } } ∧
       y.state = x.state ∧ y.config = x.config ∧ y.bed = x.bed.level ∧ y.clampCount = x.clampCount ∧ y.peakL = x.peakL ∧
       y.peakR = x.peakR ∧ (x.brk = none → y.brk = none) ∧
       (∀ d, x.state = .primed → x.armDeadline = some d → y.armLeft = some (d - s.link.count)) ∧
       ∀ b, x.brk = some b → ∃ z, y.brk = some z ∧ z.breakId = b.breakId ∧ z.slot = b.slot ∧
         z.split = b.split.map SplitPoint.pos ∧ z.leadInStart = b.leadInStart ∧
         (∀ d, b.timerRuns = true → b.deadline = some d → z.timerLeft = some (d - s.link.count)) ∧ z.lateStart = b.lateStart ∧
         z.fillSamples = b.fillSamples ∧ z.itemsAired = b.itemsAired ∧ z.endCause = b.endCause ∧ z.lead = x.lead ∧
         z.pool = x.pool ∧ z.run = b.run)

/-- FORCE_NETWORK takes a region to BYPASS from any state, with the OK reply: an armed break is disarmed without a record; a running break
is closed with cause BYPASS, its voices released, and the bed at 231. That the OK reply takes its entry before the records are appended
(log 44), and the air time of a record between two periods (log 50), are the model's choices. -/
def Obligations.ForceNetworkBypasses : Prop :=
  ∀ (s : State) (m : Message) (rest : List Message) (r : Region), Takes s 0x12 m rest →
    let x := s.play.region r
    (x.state = .network ∨ x.state = .bypass → x.brk = none) → (x.state ≠ .network → x.state ≠ .bypass → x.brk ≠ none) →
    ∃ p, exec (.forceNetwork (some r.val)) s = .next (s.between p) ∧ (p.region r).state = .bypass ∧ (p.region r).brk = none ∧
      (p.region r).config = x.config ∧
      (repliesTo s m .ok .none).Sublist p.agent.returns ∧
      (x.state = .network ∨ x.state = .bypass → p = { s.play.setRegion r { x with state := .bypass } with
        agent := s.agentAfter m rest .ok .none }) ∧
      (x.state = .primed → p.log = s.play.log ∧ (p.region r).bed = x.bed ∧ (p.voice (homeVoice r)).active = false) ∧
      (x.state ∉ [RegionState.network, .bypass, .primed] → (p.region r).bed = ⟨231, none⟩ ∧ (p.region r).lead = none ∧
        (∀ v ∈ s.play.voicesOf r, (p.voice v).active = false) ∧ (∀ w ∈ p.waiters, w.region ≠ r) ∧
        ∃ l z n, p.log.records = l ++ [⟨n, .brk z⟩] ∧ z.region = r ∧ z.cause = .bypass ∧ z.close = s.link.air ∧
          ∀ b, x.brk = some b → z.breakId = b.breakId ∧ z.itemsAired ≤ b.itemsAired) ∧
      ((∀ v ∈ s.play.voicesOf r, (s.play.voice v).holder = some r) → ∀ q, q ≠ r → p.region q = s.play.region q)

/-- OPEN_PLAN begins a LOADING plan in an EMPTY slot with its header clamped; APPEND_ITEM adds an item at the end of a LOADING plan of
fewer than 12 and answers its index. Each is refused in another slot state. That OPEN_PLAN tests the slot state before the fill policy
(log 40), and APPEND_ITEM its fields before the room in the plan (log 78), is the model's choice. -/
def Obligations.PlanLoaded : Prop :=
  (∀ (s : State) (m : Message) (rest : List Message) (f : OpenPlanFields) (r : Region) (n : Fin 16), Takes s 0x20 m rest →
    f.region = r.val → f.slot = n.val →
    ((s.play.slot r n).state ≠ .empty → exec (.openPlan (some f)) s = .next (s.answered m rest .refusedState .none)) ∧
    ((s.play.slot r n).state = .empty → fillOf f.fillPolicy = none →
      exec (.openPlan (some f)) s = .next (s.answered m rest .badArgument .none)) ∧
    (∀ fill, (s.play.slot r n).state = .empty → fillOf f.fillPolicy = some fill →
      exec (.openPlan (some f)) s = .next { s with play :=
        { s.play.setSlot r n ⟨.loading, some ⟨f.breakId, min f.leadInMs 5000, min f.leadOutMs 5000, fill, f.singleUse, []⟩⟩ with
          agent := s.agentAfter m rest .ok .none } })) ∧
  (∀ (s : State) (m : Message) (rest : List Message) (f : AppendItemFields) (r : Region) (n : Fin 16), Takes s 0x21 m rest →
    f.region = r.val → f.slot = n.val →
    ((s.play.slot r n).state ≠ .loading → exec (.appendItem (some f)) s = .next (s.answered m rest .refusedState .none)) ∧
    (∀ pl, s.play.slot r n = ⟨.loading, some pl⟩ →
      let bad := f.clip = 0 ∨ 1023 < f.clip ∨ 1023 < f.substitute ∨ lengthOf f.length = none ∨ transitionOf f.transition = none ∨
        7 < f.group ∨ 7 < f.link
      (bad → exec (.appendItem (some f)) s = .next (s.answered m rest .badArgument .none)) ∧
      (¬ bad → 12 ≤ pl.items.length → exec (.appendItem (some f)) s = .next (s.answered m rest .tableFull .none)) ∧
      (¬ bad → pl.items.length < 12 → ∃ it, exec (.appendItem (some f)) s = .next { s with play :=
          { s.play.setSlot r n ⟨.loading, some { pl with items := pl.items ++ [it] }⟩ with
            agent := s.agentAfter m rest .ok (.itemIndex pl.items.length) } } ∧
        it.clip = f.clip ∧ it.substitute = f.substitute ∧ some it.length = lengthOf f.length ∧
        some it.transition = transitionOf f.transition ∧
        it.transitionMs = (if it.transition = .cut then 0 else min f.transitionMs 2000) ∧
        it.level = (if f.levelGiven then f.level else 231) ∧ it.group.val = f.group ∧ it.droppable = f.droppable ∧
        it.link.map (fun g => g.val + 1) = if f.link = 0 then none else some f.link)))

/-- CLOSE_PLAN makes a LOADING plan with items READY, unless another READY slot of the region has its break ID; that a plan without
items is refused first is the model's choice (log 82); CLEAR_PLAN empties a slot, and marks a held one RETIRING. Every plan request on a
region above 23 or a slot above 15 is refused BAD_ARGUMENT before any other test, and no slot is touched. -/
def Obligations.PlanSlotRequests : Prop :=
  ((∀ (s : State) (m : Message) (rest : List Message) (f : SlotFields) (r : Region) (n : Fin 16), Takes s 0x22 m rest →
     f.region = r.val → f.slot = n.val →
     ((s.play.slot r n).state ≠ .loading → exec (.closePlan (some f)) s = .next (s.answered m rest .refusedState .none)) ∧
     (∀ pl, s.play.slot r n = ⟨.loading, some pl⟩ →
       let twin := ∃ k, k ≠ n ∧ (s.play.slot r k).state = .ready ∧ (s.play.slot r k).plan.map Plan.breakId = some pl.breakId
       (pl.items = [] → exec (.closePlan (some f)) s = .next (s.answered m rest .badArgument .none)) ∧
       (pl.items ≠ [] → twin → exec (.closePlan (some f)) s = .next (s.answered m rest .duplicateBreak .none)) ∧
       (pl.items ≠ [] → ¬ twin → exec (.closePlan (some f)) s = .next { s with play :=
         { s.play.setSlot r n ⟨.ready, some pl⟩ with agent := s.agentAfter m rest .ok .none } }))) ∧
   (∀ (s : State) (m : Message) (rest : List Message) (f : SlotFields) (r : Region) (n : Fin 16), Takes s 0x23 m rest →
     f.region = r.val → f.slot = n.val →
     exec (.clearPlan (some f)) s = .next { s with play :=
       { s.play.setSlot r n (match (s.play.slot r n).state with
           | .inUse => ⟨.retiring, (s.play.slot r n).plan⟩
           | .retiring => s.play.slot r n
           | _ => ⟨.empty, none⟩) with
         agent := s.agentAfter m rest .ok .none } })) ∧
  (∀ (s : State) (m : Message) (rest : List Message) (c : Instr) (kind region slot : Nat), 23 < region ∨ 15 < slot →
     (∃ f : OpenPlanFields, f.region = region ∧ f.slot = slot ∧ c = .openPlan (some f)) ∨
       (∃ f : AppendItemFields, f.region = region ∧ f.slot = slot ∧ c = .appendItem (some f)) ∨
       c ∈ [Instr.closePlan (some ⟨region, slot⟩), .clearPlan (some ⟨region, slot⟩), .readPlan (some ⟨region, slot⟩)] →
     requestKind c = some kind → Takes s kind m rest → exec c s = .next (s.answered m rest .badArgument .none))

/-- READ_PLAN returns the slot's state and, unless it is EMPTY, the plan as loaded, and changes nothing. -/
def Obligations.ReadPlanAnswers : Prop :=
  ∀ (s : State) (m : Message) (rest : List Message) (f : SlotFields) (r : Region) (n : Fin 16), Takes s 0x24 m rest →
    f.region = r.val → f.slot = n.val →
    exec (.readPlan (some f)) s = .next (s.answered m rest .ok (.plan (s.play.slot r n).state
      (if (s.play.slot r n).state = .empty then none else (s.play.slot r n).plan)))

/-- VOICE_STATUS returns the voice's record with the count of free pool voices and the waiting list, and changes nothing; the class of
its read is 1 while it is PRIMING, or PLAYING or READY with fewer than 3 pages ahead, and otherwise 2; a voice above 31 is refused
BAD_ARGUMENT. That a voice without a ramp is returned without target and increments is the model's choice (log 72). -/
def Obligations.VoiceStatusAnswers : Prop :=
  (∀ (s : State) (m : Message) (rest : List Message) (v : VoiceNo), Takes s 0x30 m rest →
    let x := s.play.voice v
    let free := allVoices.filter fun u => 24 ≤ u.val && (s.play.voice u).state == .idle && (s.play.voice u).holder == none
    exec (.voiceStatus (some v.val)) s = .next (s.answered m rest .ok (.voiceStatus
      { state := x.state, holder := x.holder, clip := x.clip, format := x.format, pos := x.pos, endPos := x.endPos, loop := x.loop,
        successor := x.successor, fader := x.fader, group := x.group, releaseAtRampEnd := x.releaseAtRampEnd, ring := x.ring,
        pending := x.pending,
        readClass := x.pending.map fun _ =>
          if x.state = .priming ∨ (x.state = .playing ∨ x.state = .ready) ∧ x.ring.length < 3 then 1 else 2,
        dropout := x.dropout, underrun := x.underrun, poolFree := free.length, waiting := s.play.waiters }))) ∧
  (∀ (s : State) (m : Message) (rest : List Message) (n : Nat), Takes s 0x30 m rest → 31 < n →
    exec (.voiceStatus (some n)) s = .next (s.answered m rest .badArgument .none))

/-- SET_GROUP_LEVEL leaves the request waiting for the frame boundary, its duration clamped, and refuses group 0 and a group above
7. READ_LEVELS returns, for every group, its level at the last boundary, the target, step interval and increments left of the ramp it
carries, or its level and 0 where it carries none, and the waiting request, and changes nothing. That the ramp is given as it stands at
the request while the level is the boundary's is the model's choice (log 20). At the frame boundary the waiting request of a group is
begun from the level there, and that level is what Read Levels returns; group 0 is left as it is. -/
def Obligations.GroupFades : Prop :=
  ((∀ (s : State) (m : Message) (rest : List Message) (f : GroupLevelFields), Takes s 0x38 m rest →
     (f.group = 0 ∨ 7 < f.group → exec (.setGroupLevel (some f)) s = .next (s.answered m rest .badArgument .none)) ∧
     (∀ g : GainGroup, g ≠ 0 → f.group = g.val → exec (.setGroupLevel (some f)) s = .next
       { s.answered m rest .ok .none with
         levels := setGroup s.levels g { s.levels[g] with waiting := some (f.target, min f.durationMs 10000) } })) ∧
   (∀ (s : State) (m : Message) (rest : List Message), Takes s 0x39 m rest → m.body = [] →
     ∃ l, exec .readLevels s = .next (s.answered m rest .ok (.levels l)) ∧ l.length = 8 ∧
       ∀ g : GainGroup, ∃ x, l[g.val]? = some x ∧ x.level = s.levels[g].shown ∧ x.waiting = s.levels[g].waiting ∧
         (∀ q, s.levels[g].fader.ramp = some q → q.left ≠ 0 → x.target = q.target ∧ x.interval = some q.interval ∧ x.left = q.left) ∧
         ((∀ q, s.levels[g].fader.ramp = some q → q.left = 0) →
           x.target = x.level ∧ x.interval = none ∧ x.left = 0))) ∧
  (∀ (s : State) (g : GainGroup), g ≠ 0 →
     let f := match s.levels[g].waiting with
       | some (target, ms) => s.levels[g].fader.begin target ms
       | none => s.levels[g].fader
     s.boundaryTests.levels[g] = ⟨f, none, f.level⟩ ∧ s.boundaryTests.levels[(0 : GainGroup)] = s.levels[(0 : GainGroup)])

/-- CONFIGURE_LINK_GROUP sets the mask and the wait limit, clamped, where the group's gate is CLOSED, and is refused REFUSED_STATE where
it is not; GATE_STATUS returns the group's configuration and gate record with the present count and changes nothing. A group of 0 or
above 7 is refused BAD_ARGUMENT. -/
def Obligations.LinkGroupRequests : Prop :=
  (∀ (s : State) (m : Message) (rest : List Message) (f : LinkGroupFields) (g : LinkGroup), Takes s 0x40 m rest →
    f.group = g.val + 1 →
    ((s.play.gate g).state ≠ .closed → exec (.configureLinkGroup (some f)) s = .next (s.answered m rest .refusedState .none)) ∧
    ((s.play.gate g).state = .closed → exec (.configureLinkGroup (some f)) s = .next { s with play :=
      { s.play.setGate g { s.play.gate g with mask := f.mask, waitMs := min f.waitMs 5000 } with
        agent := s.agentAfter m rest .ok .none } })) ∧
  (∀ (s : State) (m : Message) (rest : List Message) (g : LinkGroup), Takes s 0x41 m rest →
    exec (.gateStatus (some (g.val + 1))) s = .next (s.answered m rest .ok (.gate (s.play.gate g) s.link.count))) ∧
  (∀ (s : State) (m : Message) (rest : List Message) (f : LinkGroupFields) (n : Nat), f.group = 0 ∨ 7 < f.group →
    n = 0 ∨ 7 < n →
    (Takes s 0x40 m rest → exec (.configureLinkGroup (some f)) s = .next (s.answered m rest .badArgument .none)) ∧
    (Takes s 0x41 m rest → exec (.gateStatus (some n)) s = .next (s.answered m rest .badArgument .none)))

/-- DIRECTORY_QUERY returns the first 16 registered entries from a clip number on, eight fields of each, and where to continue;
CLIP_STATUS returns one entry in full. Neither changes anything, and a number out of range is refused BAD_ARGUMENT. That the head of the
verify queue is at place 0 (log 55), and that holders are counted by clip number (log 67), are the model's choices. -/
def Obligations.DirectoryRequests : Prop :=
  (∀ (s : State) (m : Message) (rest : List Message) (n : Nat), Takes s 0x48 m rest →
    (1023 < n → exec (.directoryQuery (some n)) s = .next (s.answered m rest .badArgument .none)) ∧
    (n ≤ 1023 → ∃ l next, exec (.directoryQuery (some n)) s = .next (s.answered m rest .ok (.directory l s.play.dir.state next)) ∧
      l = ((s.play.dir.entries.filter fun e => max 1 n ≤ e.clip).take 16).map (fun e =>
        { clip := e.clip, state := e.state, firstBlock := e.firstBlock, extent := e.extent, format := e.header.format,
          length := e.header.length, faults := e.faults, holders := s.play.holders e.clip }) ∧
      (next = 0 ↔ (s.play.dir.entries.filter fun e => max 1 n ≤ e.clip).length ≤ 16) ∧
      (next ≠ 0 → ∃ x, l.getLast? = some x ∧ next = x.clip + 1))) ∧
  (∀ (s : State) (m : Message) (rest : List Message) (n : Nat), Takes s 0x49 m rest →
    (n = 0 ∨ 1023 < n → exec (.clipStatus (some n)) s = .next (s.answered m rest .badArgument .none)) ∧
    (1 ≤ n → n ≤ 1023 → ∃ y, exec (.clipStatus (some n)) s = .next (s.answered m rest .ok (.clipStatus y)) ∧
      y.entry = s.play.dir.entries.find? (fun e => e.clip == n) ∧
      (y.entry = none → y.holders = 0) ∧ (y.entry ≠ none → y.holders = s.play.holders n) ∧
      (y.queuePlace = none ↔ ∀ x ∈ s.play.dir.queue, x.1 ≠ n) ∧
      (∀ k, y.queuePlace = some k → ∃ x, s.play.dir.queue[k]? = some x ∧ x.1 = n) ∧
      (y.verifying = true ↔ ∃ j, s.verify = some j ∧ j.clip = n) ∧
      (y.usable = true ↔ s.play.dir.state = .complete ∧ ∃ e, y.entry = some e ∧ e.state = .ready ∧
        (∀ b, e.header.notBefore = some b → b.le s.link.air = true) ∧ ∀ b, e.header.notAfter = some b → s.link.air.le b = true)))

/-- STORE_UNLOCK sets the latch, and LOAD_PAGE_DATA writes its bytes from the offset on, wrapping after 4,095: the last byte written to
an offset stands, and every other offset reads as before. While SCANNING both are refused, and a held buffer is STAGING_BUSY. That
LOAD_PAGE_DATA tests the held buffer before its offset, count and data is the model's choice (log 40). -/
def Obligations.StagingLoaded : Prop :=
  (∀ (s : State) (m : Message) (rest : List Message), Takes s 0x50 m rest → m.body = [] →
    (s.play.dir.state = .scanning → exec .storeUnlock s = .next (s.answered m rest .refusedState .none)) ∧
    (s.play.dir.state = .complete → exec .storeUnlock s = .next
      { s.answered m rest .ok .none with store := { s.store with unlocked := true } })) ∧
  (∀ (s : State) (m : Message) (rest : List Message) (f : LoadFields), Takes s 0x51 m rest →
    let bad := 4095 < f.offset ∨ f.count = 0 ∨ 480 < f.count ∨ f.data.length ≠ f.count
    (s.play.dir.state = .scanning → exec (.loadPageData (some f)) s = .next (s.answered m rest .refusedState .none)) ∧
    (s.play.dir.state = .complete → s.store.holds ≠ none →
      exec (.loadPageData (some f)) s = .next (s.answered m rest .stagingBusy .none)) ∧
    (s.play.dir.state = .complete → s.store.holds = none → bad →
      exec (.loadPageData (some f)) s = .next (s.answered m rest .badArgument .none)) ∧
    (s.play.dir.state = .complete → s.store.holds = none → ¬ bad →
      ∃ cells, exec (.loadPageData (some f)) s = .next
          { s.answered m rest .ok .none with store := { s.store with staging := cells } } ∧
        (∀ i b, f.data[i]? = some b → readCell cells ((f.offset + i) % 4096) = b) ∧
        (∀ a, (∀ i, i < f.count → (f.offset + i) % 4096 ≠ a) → readCell cells a = readCell s.store.staging a)))

/-- The unlock latch, and the four requests that need it: while SCANNING each is refused REFUSED_STATE, without the latch NOT_UNLOCKED,
and either way the latch is clear after it. -/
def Obligations.LatchGuardsStore : Prop :=
  ∀ (s : State) (m : Message) (rest : List Message) (c : Instr) (kind n : Nat),
    c ∈ [Instr.commitPage (some n), .eraseBlock (some n), .setProtectBoundary (some n), .raiseLockFloor (some n)] →
    requestKind c = some kind → Takes s kind m rest →
    (s.play.dir.state = .scanning → exec c s = .next
      { s.answered m rest .refusedState .none with store := { s.store with unlocked := false } }) ∧
    (s.play.dir.state = .complete → s.store.unlocked = false → exec c s = .next (s.answered m rest .notUnlocked .none)) ∧
    ∀ t, exec c s = .next t → t.store.unlocked = false

/-- COMMIT_PAGE and ERASE_BLOCK, unlocked: the first test that fails gives the refusal and the latch is clear; an accepted one joins the
tail of the store queue, a commit holds the staging buffer, and an erase of a registered clip's first block takes the clip to RETIRING
and out of the Verify Unit. That the tag queued is the message header's is the model's choice (log 6), as is that holders are counted by
clip number (log 67). Every step keeps the directory in order: clip numbers rising, extents apart, and one commit at most, whose staged
header names a free clip and a free extent. -/
def Obligations.CommitAndEraseQueued : Prop :=
  (∀ (s : State) (m : Message) (rest : List Message) (page : Nat), Takes s 0x52 m rest → s.play.dir.state = .complete →
    s.store.unlocked = true →
    let block := page / 64
    let header := if page % 64 = 0 then s.store.stagedHeader else .noMagic
    let tests := [(s.store.holds.isSome, Code.stagingBusy), (decide (2097151 < page), .badArgument),
      (decide (block < s.store.pStar), .protectedBlock), (s.settings.worn.contains block, .worn),
      (s.play.dir.entries.any (fun e => e.covers block), .clipPresent), (decide (header = .malformed), .badHeader),
      ((match header with | .header clip _ => (s.play.dir.find clip).isSome | _ => false), .duplicateClip),
      ((match header with
        | .header _ h => decide (32768 < block + h.extent) || s.play.dir.entries.any fun e =>
          decide (e.firstBlock < block + h.extent) && decide (block < e.firstBlock + e.extent)
        | _ => false), .overlap),
      (decide (8 ≤ s.store.queue.length), .storeFull)]
    exec (.commitPage (some page)) s = .next (match firstRefusal tests with
      | some code => { s.answered m rest code .none with store := { s.store with unlocked := false } }
      | none => { s.answered m rest .accepted .none with store := { s.store with
          unlocked := false, holds := some page
          queue := s.store.queue ++ [.commit page m.tag (match header with | .header clip h => some (clip, h.extent) | _ => none)] } })) ∧
  (∀ (s : State) (m : Message) (rest : List Message) (block : Nat), Takes s 0x53 m rest → s.play.dir.state = .complete →
    s.store.unlocked = true →
    let first := s.play.dir.entries.find? fun e => e.firstBlock == block
    let tests := [(decide (32767 < block), Code.badArgument), (decide (block < s.store.pStar), .protectedBlock),
      (s.settings.worn.contains block, .worn),
      ((s.play.dir.entries.any (fun e => e.covers block) && first.isNone) ||
        s.store.operations.any fun op => op.claims block, .clipPresent),
      ((match first with | some e => e.state == .retiring | none => false), .clipPresent),
      ((match first with | some e => decide (0 < s.play.holders e.clip) | none => false), .clipInUse),
      (decide (8 ≤ s.store.queue.length), .storeFull)]
    let queued := { s.store with unlocked := false, queue := s.store.queue ++ [.erase block m.tag] }
    (∀ code, firstRefusal tests = some code → exec (.eraseBlock (some block)) s = .next
      { s.answered m rest code .none with store := { s.store with unlocked := false } }) ∧
    (firstRefusal tests = none → first = none → exec (.eraseBlock (some block)) s = .next
      { s.answered m rest .accepted .none with store := queued }) ∧
    (∀ e, firstRefusal tests = none → first = some e →
      ∃ t, exec (.eraseBlock (some block)) s = .next t ∧ t.store = queued ∧
        t.play.dir.entries = s.play.dir.entries.map (fun x => if x.clip = e.clip then { x with state := .retiring } else x) ∧
        t.play.dir.queue = s.play.dir.queue.filter (fun q => q.1 != e.clip) ∧
        (∀ j, t.verify = some j → j.clip ≠ e.clip) ∧ t.flash = s.flash ∧ t.settings = s.settings ∧
        t.play.agent = s.agentAfter m rest .accepted .none ∧ t.play.regions = s.play.regions ∧ t.link = s.link)) ∧
  (∀ s t : State, DirInv s → step s = .next t → DirInv t)

/-- SET_PROTECT_BOUNDARY and RAISE_LOCK_FLOOR, unlocked: refused by the first test that fails, or queued as one settings write with the
prospective values moved at once, a boundary clamped to L* and a floor carrying P* with it. P and L stand until the write completes. That
the tag queued is the message header's is the model's choice (log 6). -/
def Obligations.ProtectionQueued : Prop :=
  (∀ (s : State) (m : Message) (rest : List Message) (v : Nat), Takes s 0x54 m rest → s.play.dir.state = .complete →
    s.store.unlocked = true →
    let p := max s.store.lStar v
    exec (.setProtectBoundary (some v)) s = .next
      (if 32768 < v then { s.answered m rest .badArgument .none with store := { s.store with unlocked := false } }
      else if 8 ≤ s.store.queue.length then { s.answered m rest .storeFull .none with store := { s.store with unlocked := false } }
      else { s.answered m rest .accepted (.boundary p) with
        store := { s.store with unlocked := false, pStar := p, queue := s.store.queue ++ [.boundary p m.tag] } })) ∧
  (∀ (s : State) (m : Message) (rest : List Message) (v : Nat), Takes s 0x55 m rest → s.play.dir.state = .complete →
    s.store.unlocked = true →
    let p := max s.store.pStar v
    exec (.raiseLockFloor (some v)) s = .next
      (if 32768 < v ∨ v < s.store.lStar then
        { s.answered m rest .badArgument .none with store := { s.store with unlocked := false } }
      else if 8 ≤ s.store.queue.length then { s.answered m rest .storeFull .none with store := { s.store with unlocked := false } }
      else { s.answered m rest .accepted (.lockFloor v p) with
        store := { s.store with unlocked := false, pStar := p, lStar := v, queue := s.store.queue ++ [.floor v p m.tag] } }))

/-- VERIFY_CLIP is refused by the first test that fails, or joins the tail of the verify queue with its tag, the entry keeping its state.
That the tag is the message header's is the model's choice (log 6). READ_PAGE in range stays in hand until its read is delivered, with no
reply yet. -/
def Obligations.VerifyAndReadAccepted : Prop :=
  (∀ (s : State) (m : Message) (rest : List Message) (clip : Nat), Takes s 0x58 m rest →
    let no := fun code => exec (.verifyClip (some clip)) s = .next (s.answered m rest code .none)
    let busy := (∃ x ∈ s.play.dir.queue, x.1 = clip) ∨ ∃ j, s.verify = some j ∧ j.clip = clip
    (s.play.dir.state = .scanning → no .refusedState) ∧
    (s.play.dir.state = .complete → clip = 0 ∨ 1023 < clip → no .badArgument) ∧
    (s.play.dir.state = .complete → 1 ≤ clip → clip ≤ 1023 → s.play.dir.find clip = none → no .notFound) ∧
    (∀ e, s.play.dir.state = .complete → 1 ≤ clip → clip ≤ 1023 → s.play.dir.find clip = some e →
      (e.state = .unverified ∨ e.state = .retiring ∨ busy → no .refusedState) ∧
      (e.state ≠ .unverified → e.state ≠ .retiring → ¬ busy → exec (.verifyClip (some clip)) s = .next
        { s with play := { s.play with
          dir := { s.play.dir with queue := s.play.dir.queue ++ [(clip, some m.tag)] }
          agent := s.agentAfter m rest .accepted .none } }))) ∧
  (∀ (s : State) (m : Message) (rest : List Message) (f : ReadPageFields), Takes s 0x59 m rest →
    let bad := 2097151 < f.page ∨ 4095 < f.offset ∨ f.count = 0 ∨ 480 < f.count ∨ 4096 < f.offset + f.count
    (bad → exec (.readPage (some f)) s = .next (s.answered m rest .badArgument .none)) ∧
    (¬ bad → exec (.readPage (some f)) s = .next { s with play := { s.play with
      agent := { s.play.agent.less m rest with inHand := some ⟨decide (m.target = 255), m.tag, f⟩ } } }))

/-- REMAP_STATUS returns the counts, up to 32 remap entries from a position, the worn set, P and L and the current operation with its kind,
target, tag, phase and suspension count; LINK_STATUS returns the link's record with the Cue Unit's dropped count and held entries. Neither
changes anything. What the target of a relocation, a remap or a settings write is, and whose tag they carry, is the model's choice
(log 62). -/
def Obligations.StoreAndLinkStatus : Prop :=
  (∀ (s : State) (m : Message) (rest : List Message) (n : Nat), Takes s 0x5A m rest →
    (255 < n → exec (.remapStatus (some n)) s = .next (s.answered m rest .badArgument .none)) ∧
    (n ≤ 255 → ∃ cur, exec (.remapStatus (some n)) s = .next (s.answered m rest .ok (.remap s.settings.remap.length
        s.settings.spent.length (256 - (s.settings.remap.length + s.settings.spent.length)) ((s.settings.remap.drop n).take 32)
        s.settings.worn s.settings.boundary s.settings.floor cur)) ∧
      (s.store.current = none → cur = none) ∧
      ∀ c, s.store.current = some c → ∃ x, cur = some x ∧ x.phase = c.phase ∧ x.suspensions = c.suspensions ∧ x.tag = c.op.tag ∧
        match c.stage, c.op with
        | .settings, .boundary .. => x.kind = .boundary ∧ x.target = none
        | .settings, .floor .. => x.kind = .floor ∧ x.target = none
        | .program, .commit page .. => x.kind = .commit ∧ x.target = some page
        | .erase, .erase block _ => x.kind = .erase ∧ x.target = some block
        | .remapInstall _, .erase block _ => x.kind = .remap ∧ x.target = some block
        | .remapErase _, .erase block _ => x.kind = .remap ∧ x.target = some block
        | .remapWorn _, .erase block _ => x.kind = .remap ∧ x.target = some block
        | .relocErase _, .commit page .. => x.kind = .relocation ∧ x.target = some (page / 64)
        | .relocRead .., .commit page .. => x.kind = .relocation ∧ x.target = some (page / 64)
        | .relocProgram .., .commit page .. => x.kind = .relocation ∧ x.target = some (page / 64)
        | .relocStaged _, .commit page .. => x.kind = .relocation ∧ x.target = some (page / 64)
        | .relocInstall _, .commit page .. => x.kind = .relocation ∧ x.target = some (page / 64)
        | .relocWorn _, .commit page .. => x.kind = .relocation ∧ x.target = some (page / 64)
        | _, _ => True)) ∧
  (∀ (s : State) (m : Message) (rest : List Message), Takes s 0x68 m rest → m.body = [] →
    exec .linkStatus s = .next (s.answered m rest .ok (.link s.link.state s.link.expected s.link.consecutive s.link.lockRun
      s.link.air s.link.count s.link.counts s.cues.dropped s.cues.table.length)))

/-- FETCH_AS_RUN takes the oldest records out of the log, 0 taken as 16 and at most 16, and answers them with the held count after; the
high-water state is ARMED once fewer than 2,048 are held. That the fetched count wraps at 48 bits is the model's choice (log 16). -/
def Obligations.FetchAsRunRemoves : Prop :=
  ∀ (s : State) (m : Message) (rest : List Message) (n : Nat), Takes s 0x60 m rest →
    let l := s.play.log
    let k := min (if n = 0 then 16 else min n 16) l.records.length
    exec (.fetchAsRun (some n)) s = .next { s with play := { s.play with
      log := { l with
        records := l.records.drop k, fetched := l.fetched + BitVec.ofNat 48 k
        raised := l.raised && decide (2048 ≤ l.records.length - k) }
      agent := s.agentAfter m rest .ok (.records (l.records.take k) (l.records.length - k)) } }

/-- AS_RUN_STATUS returns the held count, the three counts, the log sequences of the oldest record held and of the next, which are equal
where the log is empty, and the high-water state, and changes nothing. -/
def Obligations.AsRunStatusAnswers : Prop :=
  ∀ (s : State) (m : Message) (rest : List Message), Takes s 0x61 m rest → m.body = [] →
    let l := s.play.log
    ∃ oldest, exec .asRunStatus s = .next (s.answered m rest .ok (.asRun l.records.length l.appended l.fetched l.overwritten oldest
        (l.appended.toNat % 2 ^ 32) l.raised)) ∧
      (∀ x xs, l.records = x :: xs → oldest = x.seq) ∧ (l.records = [] → oldest = l.appended.toNat % 2 ^ 32)
end

