-- ==== Sys2Proof/Laws/Memory.lean ====
section
/-! SUPPORT. The two addressed stores of the block, the staging buffer (bytes of a page) and the flash array (pages): what a read
gives after a write, and that every operation keeps the canonical form. -/

namespace Sys2Proof.Machine

/-! ## Lists by key -/

section
variable {α : Type} (key : α → Nat)

theorem mem_insertByKey {x y : α} {l : List α} (h : y ∈ insertByKey key x l) : y = x ∨ y ∈ l := by
  induction l with
  | nil => simpa [insertByKey] using h
  | cons z zs ih =>
    simp only [insertByKey] at h
    split at h
    · simpa using h
    · split at h
      · rcases List.mem_cons.1 h with h | h
        · exact .inl h
        · exact .inr (List.mem_cons_of_mem _ h)
      · rcases List.mem_cons.1 h with h | h
        · exact .inr (h ▸ List.mem_cons_self)
        · exact (ih h).imp_right (List.mem_cons_of_mem _)

theorem sorted_insertByKey {x : α} {l : List α} (h : l.Pairwise fun a b => key a < key b) :
    (insertByKey key x l).Pairwise fun a b => key a < key b := by
  induction l with
  | nil => simp [insertByKey]
  | cons z zs ih =>
    obtain ⟨hz, hs⟩ := List.pairwise_cons.1 h
    simp only [insertByKey]
    split
    · rename_i lt
      refine List.pairwise_cons.2 ⟨fun y hy => ?_, h⟩
      rcases List.mem_cons.1 hy with rfl | hy
      · exact lt
      · exact lt.trans (hz y hy)
    · split
      · rename_i e
        exact List.pairwise_cons.2 ⟨fun y hy => e ▸ hz y hy, hs⟩
      · refine List.pairwise_cons.2 ⟨fun y hy => ?_, ih hs⟩
        rcases mem_insertByKey key hy with rfl | hy
        · omega
        · exact hz y hy

theorem find_insertByKey (x : α) (k : Nat) (l : List α) :
    (insertByKey key x l).find? (fun y => key y == k) = if key x = k then some x else l.find? fun y => key y == k := by
  induction l with
  | nil => by_cases h : key x = k <;> simp [insertByKey, h]
  | cons z zs ih =>
    simp only [insertByKey]
    split
    · by_cases h : key x = k <;> simp [h]
    · split
      · rename_i e
        by_cases h : key x = k
        · simp [h]
        · have : key z ≠ k := fun c => h (e.trans c)
          simp [h, this]
      · by_cases h : key z = k
        · have : key x ≠ k := by omega
          simp [h, this]
        · simp [h, ih]

theorem find_removeKey (k k' : Nat) (l : List α) :
    (removeKey key k l).find? (fun y => key y == k') = if k = k' then none else l.find? fun y => key y == k' := by
  induction l with
  | nil => simp [removeKey]
  | cons z zs ih =>
    simp only [removeKey, List.filter_cons] at ih ⊢
    by_cases h : key z = k
    · by_cases e : k = k'
      · subst e; simp [h]
      · have : key z ≠ k' := fun c => e (h.symm.trans c)
        simpa [h, e, this] using ih
    · by_cases c : key z = k'
      · have e : k ≠ k' := fun e => h (c.trans e.symm)
        have hz : (key z != k) = true := by simp [h]
        rw [if_pos hz, List.find?_cons_of_pos (by simp [c]), List.find?_cons_of_pos (by simp [c]), if_neg e]
      · simpa [h, c, List.find?_cons] using ih

theorem mem_removeKey {k : Nat} {y : α} {l : List α} (h : y ∈ removeKey key k l) : y ∈ l := (List.mem_filter.1 h).1

theorem sorted_removeKey {k : Nat} {l : List α} (h : l.Pairwise fun a b => key a < key b) :
    (removeKey key k l).Pairwise fun a b => key a < key b := h.filter _

end

/-! ## The staging buffer -/

/-- A byte written is the byte read there, and every other offset reads as before. -/
theorem readCell_writeCell (m : List Host.Cell) (a b : Nat) (x : Byte) :
    readCell (writeCell m a x) b = if a = b then x else readCell m b := by
  unfold readCell writeCell
  by_cases e : x = blankByte
  · rw [if_pos e, find_removeKey]
    by_cases h : a = b <;> simp [h, e]
  · rw [if_neg e, find_insertByKey]
    by_cases h : a = b <;> simp [h]

/-- The canonical form, as three plain facts. -/
theorem cellsWf_iff (m : List Host.Cell) : cellsWf m = true ↔
    m.Pairwise (fun c d => c.1 < d.1) ∧ (∀ c ∈ m, c.2 ≠ blankByte) ∧ ∀ c ∈ m, c.1 < Config.pageBytes := by
  induction m with
  | nil => simp [cellsWf]
  | cons c rest ih =>
    cases rest with
    | nil => simp [cellsWf, and_comm]
    | cons d rest =>
      simp only [cellsWf, Bool.and_eq_true, decide_eq_true_eq, bne_iff_ne, ih]
      constructor
      · rintro ⟨⟨hlt, hb⟩, hp, hall, hin⟩
        refine ⟨List.pairwise_cons.2 ⟨fun y hy => ?_, hp⟩, ?_, ?_⟩
        · rcases List.mem_cons.1 hy with rfl | hy
          · exact hlt
          · exact hlt.trans ((List.pairwise_cons.1 hp).1 y hy)
        · intro y hy
          rcases List.mem_cons.1 hy with rfl | hy
          · exact hb
          · exact hall y hy
        · intro y hy
          rcases List.mem_cons.1 hy with rfl | hy
          · exact hlt.trans (hin d List.mem_cons_self)
          · exact hin y hy
      · rintro ⟨hp, hall, hin⟩
        obtain ⟨h1, h2⟩ := List.pairwise_cons.1 hp
        exact ⟨⟨h1 d List.mem_cons_self, hall c List.mem_cons_self⟩, h2,
          fun y hy => hall y (List.mem_cons_of_mem _ hy), fun y hy => hin y (List.mem_cons_of_mem _ hy)⟩

theorem cellsWf_writeCell {m : List Host.Cell} (h : cellsWf m = true) (a : Nat) (x : Byte) (ha : a < Config.pageBytes) :
    cellsWf (writeCell m a x) = true := by
  rw [cellsWf_iff] at *
  obtain ⟨hp, hb, hi⟩ := h
  unfold writeCell
  split
  · exact ⟨sorted_removeKey _ hp, fun c hc => hb c (mem_removeKey _ hc), fun c hc => hi c (mem_removeKey _ hc)⟩
  · rename_i ne
    refine ⟨sorted_insertByKey _ hp, fun c hc => ?_, fun c hc => ?_⟩
    · rcases mem_insertByKey _ hc with rfl | hc
      · exact ne
      · exact hb c hc
    · rcases mem_insertByKey _ hc with rfl | hc
      · exact ha
      · exact hi c hc

/-- Load Page Data keeps the canonical form of the staging buffer. -/
theorem cellsWf_writeCells {m : List Host.Cell} (h : cellsWf m = true) (a : Nat) (bs : List Byte) :
    cellsWf (writeCells m a bs) = true := by
  induction bs generalizing m a with
  | nil => exact h
  | cons b bs ih => exact ih (cellsWf_writeCell h _ _ (Nat.mod_lt _ (by decide))) _

/-! ## The flash array -/

/-- A page written is the page read there, and every other page reads as before. -/
theorem readFlash_writeFlash (fl : List (Nat × PageImage)) (a b : Nat) (i : PageImage) :
    readFlash (writeFlash fl a i) b = if a = b then i else readFlash fl b := by
  unfold readFlash writeFlash
  by_cases e : i = PageImage.blank
  · rw [if_pos e, find_removeKey]
    by_cases h : a = b <;> simp [h, e]
  · rw [if_neg e, find_insertByKey]
    by_cases h : a = b <;> simp [h]

/-- An erase leaves every page of its block blank, and every other page as it was. -/
theorem readFlash_eraseFlash (fl : List (Nat × PageImage)) (block page : Nat) :
    readFlash (eraseFlash fl block) page =
      if page / Config.pagesPerBlock = block then PageImage.blank else readFlash fl page := by
  unfold readFlash eraseFlash
  induction fl with
  | nil => simp
  | cons c rest ih =>
    simp only [List.filter_cons]
    by_cases hc : c.1 / Config.pagesPerBlock = block
    · by_cases hp : page / Config.pagesPerBlock = block
      · simpa [hc, hp] using ih
      · have : c.1 ≠ page := fun e => hp (e ▸ hc)
        simpa [hc, hp, this, List.find?_cons] using ih
    · by_cases e : c.1 = page
      · have hp : ¬ page / Config.pagesPerBlock = block := e ▸ hc
        simp [hp, e]
      · simpa [hc, e, List.find?_cons] using ih

theorem flashWf_iff (fl : List (Nat × PageImage)) : flashWf fl = true ↔
    fl.Pairwise (fun c d => c.1 < d.1) ∧ ∀ c ∈ fl, c.2 ≠ PageImage.blank := by
  induction fl with
  | nil => simp [flashWf]
  | cons c rest ih =>
    cases rest with
    | nil => simp [flashWf]
    | cons d rest =>
      simp only [flashWf, Bool.and_eq_true, decide_eq_true_eq, bne_iff_ne, ih]
      constructor
      · rintro ⟨⟨hlt, hb⟩, hp, hall⟩
        refine ⟨List.pairwise_cons.2 ⟨fun y hy => ?_, hp⟩, fun y hy => ?_⟩
        · rcases List.mem_cons.1 hy with rfl | hy
          · exact hlt
          · exact hlt.trans ((List.pairwise_cons.1 hp).1 y hy)
        · rcases List.mem_cons.1 hy with rfl | hy
          · exact hb
          · exact hall y hy
      · rintro ⟨hp, hall⟩
        obtain ⟨h1, h2⟩ := List.pairwise_cons.1 hp
        exact ⟨⟨h1 d List.mem_cons_self, hall c List.mem_cons_self⟩, h2, fun y hy => hall y (List.mem_cons_of_mem _ hy)⟩

theorem flashWf_writeFlash {fl : List (Nat × PageImage)} (h : flashWf fl = true) (a : Nat) (i : PageImage) :
    flashWf (writeFlash fl a i) = true := by
  rw [flashWf_iff] at *
  unfold writeFlash
  split
  · exact ⟨sorted_removeKey _ h.1, fun c hc => h.2 c (mem_removeKey _ hc)⟩
  · rename_i ne
    refine ⟨sorted_insertByKey _ h.1, fun c hc => ?_⟩
    rcases mem_insertByKey _ hc with rfl | hc
    · exact ne
    · exact h.2 c hc

theorem flashWf_eraseFlash {fl : List (Nat × PageImage)} (h : flashWf fl = true) (block : Nat) :
    flashWf (eraseFlash fl block) = true := by
  rw [flashWf_iff] at *
  exact ⟨h.1.filter _, fun c hc => h.2 c (List.mem_filter.1 hc).1⟩

/-- A block left loose reads its own free page at every offset, and every other page as it was. -/
theorem readFlash_looseBlock (fl : List (Nat × PageImage)) (block occasion page : Nat) :
    readFlash (looseBlock fl block occasion) page =
      if page / Config.pagesPerBlock = block then loosePage (occasion + page % Config.pagesPerBlock) false
      else readFlash fl page := by
  have key : ∀ n, readFlash ((List.range n).foldl (fun acc i => writeFlash acc (block * Config.pagesPerBlock + i)
      (loosePage (occasion + i) false)) (eraseFlash fl block)) page =
      if block * Config.pagesPerBlock ≤ page ∧ page < block * Config.pagesPerBlock + n then
        loosePage (occasion + (page - block * Config.pagesPerBlock)) false
      else readFlash (eraseFlash fl block) page := by
    intro n
    induction n with
    | zero => simp
    | succ n ih =>
      rw [List.range_succ, List.foldl_append, List.foldl_cons, List.foldl_nil, readFlash_writeFlash, ih]
      by_cases e : block * Config.pagesPerBlock + n = page
      · rw [if_pos e, if_pos (by omega), show page - block * Config.pagesPerBlock = n by omega]
      · rw [if_neg e]
        exact if_congr (by omega) rfl rfl
  rw [looseBlock, key, readFlash_eraseFlash]
  have start : block * Config.pagesPerBlock = block * 64 := rfl
  have size : Config.pagesPerBlock = 64 := rfl
  have number : page / Config.pagesPerBlock = page / 64 := rfl
  have index : page % Config.pagesPerBlock = page % 64 := rfl
  by_cases h : page / Config.pagesPerBlock = block
  · rw [if_pos (by omega), if_pos h, show page - block * Config.pagesPerBlock = page % Config.pagesPerBlock by omega]
  · rw [if_neg (by omega), if_neg h, if_neg h]

theorem flashWf_looseBlock {fl : List (Nat × PageImage)} (h : flashWf fl = true) (block occasion : Nat) :
    flashWf (looseBlock fl block occasion) = true := by
  unfold looseBlock
  generalize List.range Config.pagesPerBlock = is
  have : ∀ (gl : List (Nat × PageImage)), flashWf gl = true → flashWf (is.foldl
      (fun acc i => writeFlash acc (block * Config.pagesPerBlock + i) (loosePage (occasion + i) false)) gl) = true := by
    induction is with
    | nil => exact fun _ h => h
    | cons i is ih => exact fun gl h => ih _ (flashWf_writeFlash h _ _)
  exact this _ (flashWf_eraseFlash h _)

theorem cellsWf_reset : cellsWf (Store.reset 0 0).staging = true := rfl
theorem flashWf_reset : flashWf State.reset.flash = true := rfl

end Sys2Proof.Machine
end

