-- ==== Sys2Proof/Laws/State.lean ====
section
/-! SUPPORT. What one update of the state leaves of each field: the simp lemmas that later proofs cite in place of unfolding a
record update. -/

namespace Sys2Proof.Machine

/-! ## Records of the on-air blocks -/

@[simp] theorem Play.region_setRegion (p : Play) (r r' : Region) (x : RegionRec) :
    (p.setRegion r x).region r' = if r = r' then x else p.region r' := by
  simp only [Play.setRegion, Play.region]
  by_cases h : r = r'
  · subst h; simp
  · have : r.val ≠ r'.val := fun e => h (Fin.ext e)
    simp [h, Vector.getElem_set_ne _ _ this]

@[simp] theorem Play.voices_setRegion (p : Play) (r : Region) (x : RegionRec) : (p.setRegion r x).voices = p.voices := rfl
@[simp] theorem Play.voice_setRegion (p : Play) (r : Region) (x : RegionRec) (v : VoiceNo) :
    (p.setRegion r x).voice v = p.voice v := rfl
@[simp] theorem Play.plans_setRegion (p : Play) (r : Region) (x : RegionRec) : (p.setRegion r x).plans = p.plans := rfl
@[simp] theorem Play.waiters_setRegion (p : Play) (r : Region) (x : RegionRec) : (p.setRegion r x).waiters = p.waiters := rfl
@[simp] theorem Play.gates_setRegion (p : Play) (r : Region) (x : RegionRec) : (p.setRegion r x).gates = p.gates := rfl
@[simp] theorem Play.dir_setRegion (p : Play) (r : Region) (x : RegionRec) : (p.setRegion r x).dir = p.dir := rfl
@[simp] theorem Play.log_setRegion (p : Play) (r : Region) (x : RegionRec) : (p.setRegion r x).log = p.log := rfl
@[simp] theorem Play.agent_setRegion (p : Play) (r : Region) (x : RegionRec) : (p.setRegion r x).agent = p.agent := rfl

@[simp] theorem Play.voice_setVoice (p : Play) (v v' : VoiceNo) (x : Voice) :
    (p.setVoice v x).voice v' = if v = v' then x else p.voice v' := by
  simp only [Play.setVoice, Play.voice]
  by_cases h : v = v'
  · subst h; simp
  · have : v.val ≠ v'.val := fun e => h (Fin.ext e)
    simp [h, Vector.getElem_set_ne _ _ this]

@[simp] theorem Play.regions_setVoice (p : Play) (v : VoiceNo) (x : Voice) : (p.setVoice v x).regions = p.regions := rfl
@[simp] theorem Play.region_setVoice (p : Play) (v : VoiceNo) (x : Voice) (r : Region) :
    (p.setVoice v x).region r = p.region r := rfl
@[simp] theorem Play.plans_setVoice (p : Play) (v : VoiceNo) (x : Voice) : (p.setVoice v x).plans = p.plans := rfl
@[simp] theorem Play.waiters_setVoice (p : Play) (v : VoiceNo) (x : Voice) : (p.setVoice v x).waiters = p.waiters := rfl
@[simp] theorem Play.gates_setVoice (p : Play) (v : VoiceNo) (x : Voice) : (p.setVoice v x).gates = p.gates := rfl
@[simp] theorem Play.dir_setVoice (p : Play) (v : VoiceNo) (x : Voice) : (p.setVoice v x).dir = p.dir := rfl
@[simp] theorem Play.log_setVoice (p : Play) (v : VoiceNo) (x : Voice) : (p.setVoice v x).log = p.log := rfl
@[simp] theorem Play.agent_setVoice (p : Play) (v : VoiceNo) (x : Voice) : (p.setVoice v x).agent = p.agent := rfl

@[simp] theorem Play.gate_setGate (p : Play) (g g' : LinkGroup) (x : Gate) :
    (p.setGate g x).gate g' = if g = g' then x else p.gate g' := by
  simp only [Play.setGate, Play.gate]
  by_cases h : g = g'
  · subst h; simp
  · have : g.val ≠ g'.val := fun e => h (Fin.ext e)
    simp [h, Vector.getElem_set_ne _ _ this]

@[simp] theorem Play.regions_setGate (p : Play) (g : LinkGroup) (x : Gate) : (p.setGate g x).regions = p.regions := rfl
@[simp] theorem Play.region_setGate (p : Play) (g : LinkGroup) (x : Gate) (r : Region) :
    (p.setGate g x).region r = p.region r := rfl
@[simp] theorem Play.voice_setGate (p : Play) (g : LinkGroup) (x : Gate) (v : VoiceNo) :
    (p.setGate g x).voice v = p.voice v := rfl
@[simp] theorem Play.voices_setGate (p : Play) (g : LinkGroup) (x : Gate) : (p.setGate g x).voices = p.voices := rfl
@[simp] theorem Play.plans_setGate (p : Play) (g : LinkGroup) (x : Gate) : (p.setGate g x).plans = p.plans := rfl
@[simp] theorem Play.waiters_setGate (p : Play) (g : LinkGroup) (x : Gate) : (p.setGate g x).waiters = p.waiters := rfl
@[simp] theorem Play.dir_setGate (p : Play) (g : LinkGroup) (x : Gate) : (p.setGate g x).dir = p.dir := rfl
@[simp] theorem Play.log_setGate (p : Play) (g : LinkGroup) (x : Gate) : (p.setGate g x).log = p.log := rfl
@[simp] theorem Play.agent_setGate (p : Play) (g : LinkGroup) (x : Gate) : (p.setGate g x).agent = p.agent := rfl

@[simp] theorem Play.slot_setSlot (p : Play) (r r' : Region) (n n' : Fin 16) (x : Slot) :
    (p.setSlot r n x).slot r' n' = if r = r' ∧ n = n' then x else p.slot r' n' := by
  simp only [Play.setSlot, Play.slot]
  by_cases h : r = r'
  · subst h
    by_cases k : n = n'
    · subst k; simp
    · have : n.val ≠ n'.val := fun e => k (Fin.ext e)
      simp [k, Vector.getElem_set_ne _ _ this]
  · have : r.val ≠ r'.val := fun e => h (Fin.ext e)
    simp [h, Vector.getElem_set_ne _ _ this]

@[simp] theorem Play.regions_setSlot (p : Play) (r : Region) (n : Fin 16) (x : Slot) :
    (p.setSlot r n x).regions = p.regions := rfl
@[simp] theorem Play.region_setSlot (p : Play) (r r' : Region) (n : Fin 16) (x : Slot) :
    (p.setSlot r n x).region r' = p.region r' := rfl
@[simp] theorem Play.voice_setSlot (p : Play) (r : Region) (n : Fin 16) (x : Slot) (v : VoiceNo) :
    (p.setSlot r n x).voice v = p.voice v := rfl
@[simp] theorem Play.voices_setSlot (p : Play) (r : Region) (n : Fin 16) (x : Slot) :
    (p.setSlot r n x).voices = p.voices := rfl
@[simp] theorem Play.waiters_setSlot (p : Play) (r : Region) (n : Fin 16) (x : Slot) :
    (p.setSlot r n x).waiters = p.waiters := rfl
@[simp] theorem Play.gates_setSlot (p : Play) (r : Region) (n : Fin 16) (x : Slot) : (p.setSlot r n x).gates = p.gates := rfl
@[simp] theorem Play.dir_setSlot (p : Play) (r : Region) (n : Fin 16) (x : Slot) : (p.setSlot r n x).dir = p.dir := rfl
@[simp] theorem Play.log_setSlot (p : Play) (r : Region) (n : Fin 16) (x : Slot) : (p.setSlot r n x).log = p.log := rfl
@[simp] theorem Play.agent_setSlot (p : Play) (r : Region) (n : Fin 16) (x : Slot) : (p.setSlot r n x).agent = p.agent := rfl

@[simp] theorem Play.region_modRegion (p : Play) (r r' : Region) (f : RegionRec → RegionRec) :
    (p.modRegion r f).region r' = if r = r' then f (p.region r) else p.region r' := by simp [Play.modRegion]
@[simp] theorem Play.voice_modRegion (p : Play) (r : Region) (f : RegionRec → RegionRec) (v : VoiceNo) :
    (p.modRegion r f).voice v = p.voice v := rfl
@[simp] theorem Play.plans_modRegion (p : Play) (r : Region) (f : RegionRec → RegionRec) :
    (p.modRegion r f).plans = p.plans := rfl
@[simp] theorem Play.waiters_modRegion (p : Play) (r : Region) (f : RegionRec → RegionRec) :
    (p.modRegion r f).waiters = p.waiters := rfl
@[simp] theorem Play.gates_modRegion (p : Play) (r : Region) (f : RegionRec → RegionRec) :
    (p.modRegion r f).gates = p.gates := rfl
@[simp] theorem Play.dir_modRegion (p : Play) (r : Region) (f : RegionRec → RegionRec) : (p.modRegion r f).dir = p.dir := rfl
@[simp] theorem Play.log_modRegion (p : Play) (r : Region) (f : RegionRec → RegionRec) : (p.modRegion r f).log = p.log := rfl
@[simp] theorem Play.agent_modRegion (p : Play) (r : Region) (f : RegionRec → RegionRec) :
    (p.modRegion r f).agent = p.agent := rfl

@[simp] theorem Play.voice_modVoice (p : Play) (v v' : VoiceNo) (f : Voice → Voice) :
    (p.modVoice v f).voice v' = if v = v' then f (p.voice v) else p.voice v' := by simp [Play.modVoice]
@[simp] theorem Play.region_modVoice (p : Play) (v : VoiceNo) (f : Voice → Voice) (r : Region) :
    (p.modVoice v f).region r = p.region r := rfl
@[simp] theorem Play.plans_modVoice (p : Play) (v : VoiceNo) (f : Voice → Voice) : (p.modVoice v f).plans = p.plans := rfl
@[simp] theorem Play.waiters_modVoice (p : Play) (v : VoiceNo) (f : Voice → Voice) :
    (p.modVoice v f).waiters = p.waiters := rfl
@[simp] theorem Play.gates_modVoice (p : Play) (v : VoiceNo) (f : Voice → Voice) : (p.modVoice v f).gates = p.gates := rfl
@[simp] theorem Play.dir_modVoice (p : Play) (v : VoiceNo) (f : Voice → Voice) : (p.modVoice v f).dir = p.dir := rfl
@[simp] theorem Play.log_modVoice (p : Play) (v : VoiceNo) (f : Voice → Voice) : (p.modVoice v f).log = p.log := rfl
@[simp] theorem Play.agent_modVoice (p : Play) (v : VoiceNo) (f : Voice → Voice) : (p.modVoice v f).agent = p.agent := rfl

@[simp] theorem Play.gate_modGate (p : Play) (g g' : LinkGroup) (f : Gate → Gate) :
    (p.modGate g f).gate g' = if g = g' then f (p.gate g) else p.gate g' := by simp [Play.modGate]
@[simp] theorem Play.region_modGate (p : Play) (g : LinkGroup) (f : Gate → Gate) (r : Region) :
    (p.modGate g f).region r = p.region r := rfl
@[simp] theorem Play.voice_modGate (p : Play) (g : LinkGroup) (f : Gate → Gate) (v : VoiceNo) :
    (p.modGate g f).voice v = p.voice v := rfl

/-! ## Groups -/

@[simp] theorem setGroup_same (gs : Vector GroupRec 8) (g : GainGroup) (x : GroupRec) : (setGroup gs g x)[g] = x := by
  simp [setGroup]

theorem setGroup_other (gs : Vector GroupRec 8) (g h : GainGroup) (x : GroupRec) (ne : g ≠ h) : (setGroup gs g x)[h] = gs[h] := by
  have : g.val ≠ h.val := fun e => ne (Fin.ext e)
  simp [setGroup, Vector.getElem_set_ne _ _ this]

/-! ## The whole state -/

@[simp] theorem State.store_raise (s : State) (tag : Nat) (n : Notice) : (s.raise tag n).store = s.store := rfl
@[simp] theorem State.settings_raise (s : State) (tag : Nat) (n : Notice) : (s.raise tag n).settings = s.settings := rfl
@[simp] theorem State.flash_raise (s : State) (tag : Nat) (n : Notice) : (s.raise tag n).flash = s.flash := rfl
@[simp] theorem State.levels_raise (s : State) (tag : Nat) (n : Notice) : (s.raise tag n).levels = s.levels := rfl
@[simp] theorem State.link_raise (s : State) (tag : Nat) (n : Notice) : (s.raise tag n).link = s.link := rfl
@[simp] theorem State.pending_raise (s : State) (tag : Nat) (n : Notice) : (s.raise tag n).pending = s.pending := rfl
@[simp] theorem State.midSample_raise (s : State) (tag : Nat) (n : Notice) : (s.raise tag n).midSample = s.midSample := rfl
@[simp] theorem State.settled_now (s : State) : s.now.settled = s.settled := rfl
theorem Now.opensFrame_settled {t : Now} (h : t.settled = true) : t.opensFrame = false := by simp [Now.opensFrame, h]
@[simp] theorem State.settled_raise (s : State) (tag : Nat) (n : Notice) : (s.raise tag n).settled = s.settled := rfl
@[simp] theorem State.occasion_raise (s : State) (tag : Nat) (n : Notice) : (s.raise tag n).occasion = s.occasion := rfl
@[simp] theorem State.store_modDir (s : State) (f : Directory → Directory) : (s.modDir f).store = s.store := rfl
@[simp] theorem State.settings_modDir (s : State) (f : Directory → Directory) : (s.modDir f).settings = s.settings := rfl
@[simp] theorem State.flash_modDir (s : State) (f : Directory → Directory) : (s.modDir f).flash = s.flash := rfl
@[simp] theorem State.levels_modDir (s : State) (f : Directory → Directory) : (s.modDir f).levels = s.levels := rfl
@[simp] theorem State.dir_modDir (s : State) (f : Directory → Directory) : (s.modDir f).play.dir = f s.play.dir := rfl
@[simp] theorem State.midSample_modDir (s : State) (f : Directory → Directory) : (s.modDir f).midSample = s.midSample := rfl
@[simp] theorem State.settled_modDir (s : State) (f : Directory → Directory) : (s.modDir f).settled = s.settled := rfl
@[simp] theorem State.settled_modCurrent (s : State) (f : Current → Current) : (s.modCurrent f).settled = s.settled := rfl
@[simp] theorem State.midSample_modCurrent (s : State) (f : Current → Current) : (s.modCurrent f).midSample = s.midSample := rfl
@[simp] theorem State.settings_modCurrent (s : State) (f : Current → Current) : (s.modCurrent f).settings = s.settings := rfl
@[simp] theorem State.flash_modCurrent (s : State) (f : Current → Current) : (s.modCurrent f).flash = s.flash := rfl
@[simp] theorem State.play_modCurrent (s : State) (f : Current → Current) : (s.modCurrent f).play = s.play := rfl
@[simp] theorem State.levels_modCurrent (s : State) (f : Current → Current) : (s.modCurrent f).levels = s.levels := rfl
@[simp] theorem State.current_modCurrent (s : State) (f : Current → Current) :
    (s.modCurrent f).store.current = s.store.current.map f := rfl
@[simp] theorem State.queue_modCurrent (s : State) (f : Current → Current) : (s.modCurrent f).store.queue = s.store.queue := rfl

end Sys2Proof.Machine
end

