-- ==== Sys2Proof/Laws/Frames.lean ====
section
/-! SUPPORT. Frames: what the shared operations leave of the Store Controller, the Settings Area, the flash array, the group levels
and the waiting commands. -/

namespace Sys2Proof.Machine

/-! ## What leaves the store as it was, but for the phase of the current step -/

/-- Two states with the same Settings Area, flash array, store queue, staging buffer and prospective values, and the same current
operation at the same stage. -/
structure SameStore (s t : State) : Prop where
  settings : t.settings = s.settings
  flash : t.flash = s.flash
  queue : t.store.queue = s.store.queue
  pStar : t.store.pStar = s.store.pStar
  lStar : t.store.lStar = s.store.lStar
  staging : t.store.staging = s.store.staging
  current : t.store.current.map (fun c => (c.op, c.stage)) = s.store.current.map fun c => (c.op, c.stage)

theorem SameStore.refl (s : State) : SameStore s s := ⟨rfl, rfl, rfl, rfl, rfl, rfl, rfl⟩

theorem SameStore.trans {s t u : State} (h : SameStore s t) (k : SameStore t u) : SameStore s u :=
  ⟨k.settings.trans h.settings, k.flash.trans h.flash, k.queue.trans h.queue, k.pStar.trans h.pStar, k.lStar.trans h.lStar,
    k.staging.trans h.staging, k.current.trans h.current⟩

/-- A state with the store, Settings Area and flash array of another. -/
theorem SameStore.of_eq {s t : State} (h1 : t.store = s.store) (h2 : t.settings = s.settings) (h3 : t.flash = s.flash) :
    SameStore s t := ⟨h2, h3, by rw [h1], by rw [h1], by rw [h1], by rw [h1], by rw [h1]⟩

/-- A change of the current operation that keeps its operation and stage. -/
theorem sameStore_modCurrent (s : State) (f : Current → Current) (h : ∀ c, (f c).op = c.op ∧ (f c).stage = c.stage) :
    SameStore s (s.modCurrent f) := by
  refine ⟨rfl, rfl, rfl, rfl, rfl, rfl, ?_⟩
  simp only [State.current_modCurrent, Option.map_map]
  congr 1
  funext c
  simp [(h c).1, (h c).2]

theorem sameStore_startStep (s : State) : SameStore s s.startStep := by
  unfold State.startStep
  split
  · split
    · exact sameStore_modCurrent s _ fun c => ⟨rfl, rfl⟩
    · exact .refl s
  · exact .refl s

theorem sameStore_suspendOrResume (s : State) : SameStore s s.suspendOrResume := by
  unfold State.suspendOrResume
  split
  · split
    · split
      · split
        · exact sameStore_modCurrent s _ fun c => ⟨rfl, rfl⟩
        · exact .refl s
      · exact .refl s
      · split
        · exact sameStore_modCurrent s _ fun c => ⟨rfl, rfl⟩
        · exact .refl s
    · exact .refl s
  · exact .refl s

/-- The array settling keeps everything but the phase of the current step. -/
theorem sameStore_settleArray (s : State) : SameStore s s.settleArray :=
  (sameStore_startStep s).trans (sameStore_suspendOrResume _)

/-- What the array settling keeps beside the store. -/
theorem settleArray_keeps (s : State) : s.settleArray.play = s.play ∧ s.settleArray.levels = s.levels ∧
    s.settleArray.link = s.link ∧ s.settleArray.cues = s.cues ∧ s.settleArray.inFlight = s.inFlight ∧
    s.settleArray.verify = s.verify ∧ s.settleArray.pending = s.pending := by
  have h1 : ∀ t : State, t.startStep.play = t.play ∧ t.startStep.levels = t.levels ∧ t.startStep.link = t.link ∧
      t.startStep.cues = t.cues ∧ t.startStep.inFlight = t.inFlight ∧ t.startStep.verify = t.verify ∧
      t.startStep.pending = t.pending := fun t => by
    unfold State.startStep
    repeat' split
    all_goals exact ⟨rfl, rfl, rfl, rfl, rfl, rfl, rfl⟩
  have h2 : ∀ t : State, t.suspendOrResume.play = t.play ∧ t.suspendOrResume.levels = t.levels ∧
      t.suspendOrResume.link = t.link ∧ t.suspendOrResume.cues = t.cues ∧ t.suspendOrResume.inFlight = t.inFlight ∧
      t.suspendOrResume.verify = t.verify ∧ t.suspendOrResume.pending = t.pending := fun t => by
    unfold State.suspendOrResume
    repeat' split
    all_goals exact ⟨rfl, rfl, rfl, rfl, rfl, rfl, rfl⟩
  obtain ⟨a1, a2, a3, a4, a5, a6, a7⟩ := h1 s
  obtain ⟨b1, b2, b3, b4, b5, b6, b7⟩ := h2 s.startStep
  exact ⟨b1.trans a1, b2.trans a2, b3.trans a3, b4.trans a4, b5.trans a5, b6.trans a6, b7.trans a7⟩

/-- The array settling, as one equation: the current step may start, or change its phase and its suspension count, and everything else
is as it was. -/
theorem settleArray_form (s : State) : ∃ cur, s.settleArray = { s with store := { s.store with current := cur } } ∧
    cur.map (fun c => (c.op, c.stage)) = s.store.current.map fun c => (c.op, c.stage) := by
  have h1 : ∀ t : State, ∃ cur, t.startStep = { t with store := { t.store with current := cur } } := fun t => by
    unfold State.startStep
    repeat' split
    all_goals exact ⟨_, rfl⟩
  have h2 : ∀ t : State, ∃ cur, t.suspendOrResume = { t with store := { t.store with current := cur } } := fun t => by
    unfold State.suspendOrResume
    repeat' split
    all_goals exact ⟨_, rfl⟩
  obtain ⟨a, ha⟩ := h1 s
  obtain ⟨b, hb⟩ := h2 s.startStep
  refine ⟨b, ?_, ?_⟩
  · show s.startStep.suspendOrResume = _
    rw [hb, ha]
  · have := (sameStore_settleArray s).current
    rw [show s.settleArray = s.startStep.suspendOrResume from rfl, hb, ha] at this
    exact this

/-! ## Assembly -/

/-- A dispatch changes the Cue Unit and the on-air blocks only. -/
theorem dispatchAll_frame (r : Region) (n : Nat) (s : State) : (State.dispatchAll r n s).store = s.store ∧
    (State.dispatchAll r n s).settings = s.settings ∧ (State.dispatchAll r n s).flash = s.flash ∧
    (State.dispatchAll r n s).levels = s.levels ∧ (State.dispatchAll r n s).pending = s.pending := by
  induction n generalizing s with
  | zero => exact ⟨rfl, rfl, rfl, rfl, rfl⟩
  | succ n ih =>
    simp only [State.dispatchAll]
    split
    · exact ⟨rfl, rfl, rfl, rfl, rfl⟩
    · exact ih _

/-- The region events of all regions change the Cue Unit and the on-air blocks only. -/
theorem regionEvents_frame (rs : List Region) (s : State) : (rs.foldl State.regionEvents s).store = s.store ∧
    (rs.foldl State.regionEvents s).settings = s.settings ∧ (rs.foldl State.regionEvents s).flash = s.flash ∧
    (rs.foldl State.regionEvents s).levels = s.levels ∧ (rs.foldl State.regionEvents s).pending = s.pending := by
  induction rs generalizing s with
  | nil => exact ⟨rfl, rfl, rfl, rfl, rfl⟩
  | cons r rs ih =>
    obtain ⟨a, b, c, d, e⟩ := ih (s.regionEvents r)
    obtain ⟨a', b', c', d', e'⟩ := dispatchAll_frame r s.cues.table.length s
    exact ⟨a.trans a', b.trans b', c.trans c', d.trans d', e.trans e'⟩

/-- An update of groups 1..7 leaves group 0. -/
theorem mapGroups_zero (gs : Vector GroupRec 8) (f : GroupRec → GroupRec) : (mapGroups gs f)[0] = gs[0] := by
  have : ∀ (l : List GainGroup) (gs : Vector GroupRec 8), (∀ g ∈ l, g ≠ 0) →
      (l.foldl (fun acc g => setGroup acc g (f acc[g])) gs)[0] = gs[0] := by
    intro l
    induction l with
    | nil => exact fun _ _ => rfl
    | cons g l ih =>
      intro gs h
      rw [List.foldl_cons, ih _ fun x hx => h x (List.mem_cons_of_mem _ hx)]
      exact setGroup_other gs g 0 _ (h g List.mem_cons_self)
  exact this allGainGroups.tail gs (by decide)

/-- The events of a sample change the Cue Unit, the on-air blocks and the group ramps only. -/
theorem takeEvents_frame (s : State) : s.takeEvents.store = s.store ∧ s.takeEvents.settings = s.settings ∧
    s.takeEvents.flash = s.flash ∧ s.takeEvents.levels = mapGroups s.levels GroupRec.finishRamp ∧
    s.takeEvents.pending = s.pending := by
  have h := regionEvents_frame allRegions s.groupCompletions
  unfold State.takeEvents
  generalize allRegions.foldl State.regionEvents s.groupCompletions = u at h
  exact h

/-- The mix of a sample changes no store. -/
theorem mixSample_frame (s : State) (p : Period) : (s.mixSample p).store = s.store ∧ (s.mixSample p).settings = s.settings ∧
    (s.mixSample p).flash = s.flash ∧ (s.mixSample p).levels = mapGroups s.levels GroupRec.advance ∧
    (s.mixSample p).pending = s.pending := ⟨rfl, rfl, rfl, rfl, rfl⟩

/-- The egress frame is all that the end of a frame forms. -/
theorem closeFrame_frame (s : State) (p : Period) : (s.closeFrame p).store = s.store ∧
    (s.closeFrame p).settings = s.settings ∧ (s.closeFrame p).flash = s.flash ∧ (s.closeFrame p).levels = s.levels ∧
    (s.closeFrame p).pending = s.pending := by
  unfold State.closeFrame
  split <;> exact ⟨rfl, rfl, rfl, rfl, rfl⟩

/-- A sample, in the steps that it is made of. -/
theorem formSample_cases (s : State) : s.formSample = s ∨
    ∃ p, s.period = some p ∧ s.sample < 48 ∧ s.formSample = ((s.takeEvents.mixSample p).closeFrame p).settleArray := by
  unfold State.formSample
  split
  · rename_i p h
    split
    · rename_i lt
      exact .inr ⟨p, h, lt, rfl⟩
    · exact .inl rfl
  · exact .inl rfl

/-- One sample: the store is as it was but for the phase of the current step, and the waiting commands stand. -/
theorem sameStore_formSample (s : State) : SameStore s s.formSample := by
  rcases formSample_cases s with h | ⟨p, -, -, h⟩
  · rw [h]; exact .refl s
  · rw [h]
    obtain ⟨a1, a2, a3, -, -⟩ := takeEvents_frame s
    obtain ⟨b1, b2, b3, -, -⟩ := mixSample_frame s.takeEvents p
    obtain ⟨c1, c2, c3, -, -⟩ := closeFrame_frame (s.takeEvents.mixSample p) p
    exact SameStore.trans (SameStore.of_eq (c1.trans (b1.trans a1)) (c2.trans (b2.trans a2)) (c3.trans (b3.trans a3)))
      (sameStore_settleArray _)

theorem sameStore_formSamples (n : Nat) (s : State) : SameStore s (State.formSamples n s) := by
  induction n generalizing s with
  | zero => exact .refl s
  | succ n ih => exact (sameStore_formSample s).trans (ih _)

/-- One sample leaves group 0 and the waiting commands. -/
theorem groupZero_formSample (s : State) : s.formSample.levels[0] = s.levels[0] ∧ s.formSample.pending = s.pending := by
  rcases formSample_cases s with h | ⟨p, -, -, h⟩
  · rw [h]; exact ⟨rfl, rfl⟩
  · rw [h]
    obtain ⟨-, -, -, a, a'⟩ := takeEvents_frame s
    obtain ⟨-, -, -, b, b'⟩ := mixSample_frame s.takeEvents p
    obtain ⟨-, -, -, c, c'⟩ := closeFrame_frame (s.takeEvents.mixSample p) p
    obtain ⟨-, d, -, -, -, -, d'⟩ := settleArray_keeps ((s.takeEvents.mixSample p).closeFrame p)
    refine ⟨?_, d'.trans (c'.trans (b'.trans a'))⟩
    rw [d, c, b, mapGroups_zero, a, mapGroups_zero]

theorem groupZero_formSamples (n : Nat) (s : State) :
    (State.formSamples n s).levels[0] = s.levels[0] ∧ (State.formSamples n s).pending = s.pending := by
  induction n generalizing s with
  | zero => exact ⟨rfl, rfl⟩
  | succ n ih => exact ⟨(ih _).1.trans (groupZero_formSample s).1, (ih _).2.trans (groupZero_formSample s).2⟩

/-- What settling after an event, or a region event, leaves of the rest of the part: everything but the on-air blocks and the phase
of the current step. -/
structure SameRest (s t : State) : Prop extends SameStore s t where
  levels : t.levels = s.levels
  link : t.link = s.link
  cues : t.cues = s.cues
  inFlight : t.inFlight = s.inFlight
  verify : t.verify = s.verify
  waiting : t.pending = s.pending

theorem SameRest.refl (s : State) : SameRest s s := ⟨.refl s, rfl, rfl, rfl, rfl, rfl, rfl⟩

theorem SameRest.trans {s t u : State} (h : SameRest s t) (k : SameRest t u) : SameRest s u :=
  ⟨h.toSameStore.trans k.toSameStore, k.levels.trans h.levels, k.link.trans h.link, k.cues.trans h.cues,
    k.inFlight.trans h.inFlight, k.verify.trans h.verify, k.waiting.trans h.waiting⟩

/-- A change of the on-air blocks. -/
theorem sameRest_play (s : State) (p : Play) : SameRest s { s with play := p } :=
  ⟨SameStore.of_eq rfl rfl rfl, rfl, rfl, rfl, rfl, rfl, rfl⟩

theorem sameRest_settleArray (s : State) : SameRest s s.settleArray := by
  obtain ⟨-, b, c, d, e, f, g⟩ := settleArray_keeps s
  exact ⟨sameStore_settleArray s, b, c, d, e, f, g⟩

/-- Settling after an event changes the on-air blocks and the phase of the current step only. -/
theorem sameRest_settle (s : State) : SameRest s s.settle := by
  unfold State.settle
  split
  · exact SameRest.trans (t := { s with play := (s.play.settleArrivals s.now).poolRound s.now, settled := true })
      ⟨SameStore.of_eq rfl rfl rfl, rfl, rfl, rfl, rfl, rfl, rfl⟩ (sameRest_settleArray _)
  · exact sameRest_settleArray s

/-- A region event taken, as one equation: what the settling leaves of the on-air blocks, and everything but them, the marks of the
begun sample and the phase of the current step as it was. -/
theorem taken_form (s : State) (p : Play) : ∃ q cur done,
    s.taken p = { s with play := q, midSample := true, settled := done, store := { s.store with current := cur } } ∧
      cur.map (fun c => (c.op, c.stage)) = s.store.current.map fun c => (c.op, c.stage) := by
  unfold State.taken State.settle
  split
  · obtain ⟨cur, h, k⟩ := settleArray_form { s with
      play := (p.settleArrivals { s with play := p, midSample := true }.now).poolRound { s with play := p, midSample := true }.now
      midSample := true, settled := true }
    exact ⟨_, cur, _, h, k⟩
  · obtain ⟨cur, h, k⟩ := settleArray_form { s with play := p, midSample := true }
    exact ⟨_, cur, _, h, k⟩

/-- A region event taken changes the on-air blocks, the begun sample and the phase of the current step only. -/
theorem sameRest_taken (s : State) (p : Play) : SameRest s (s.taken p) :=
  SameRest.trans (t := { s with play := p, midSample := true }) ⟨SameStore.of_eq rfl rfl rfl, rfl, rfl, rfl, rfl, rfl, rfl⟩
    (sameRest_settle _)

/-- What a voice returned outside a region event does: nothing while events of a begun sample are due, and otherwise the grants. -/
theorem grantReturned_cases (s : State) : s.grantReturned = s ∨ s.grantReturned = { s with play := s.play.grants } := by
  unfold State.grantReturned
  split
  · exact .inl rfl
  · exact .inr rfl

/-- A return outside a region event changes the on-air blocks only. -/
theorem sameRest_grantReturned (s : State) : SameRest s s.grantReturned := by
  rcases grantReturned_cases s with h | h
  · exact h.symm ▸ .refl s
  · exact h ▸ sameRest_play s _

/-- What follows something outside a region event, as one equation: what the grants leave of the on-air blocks, and everything but them
and the phase of the current step as it was. -/
theorem between_form (s : State) (p : Play) : ∃ q cur, s.between p = { s with play := q, store := { s.store with current := cur } } ∧
    cur.map (fun c => (c.op, c.stage)) = (s.store.current.map fun c => (c.op, c.stage)) ∧ (q = p ∨ q = p.grants) := by
  have key : ∃ q, ({ s with play := p } : State).grantReturned = { s with play := q } ∧ (q = p ∨ q = p.grants) :=
    (grantReturned_cases { s with play := p }).elim (fun h => ⟨p, h, .inl rfl⟩) fun h => ⟨p.grants, h, .inr rfl⟩
  obtain ⟨q, h, hq⟩ := key
  obtain ⟨cur, e, k⟩ := settleArray_form { s with play := q }
  refine ⟨q, cur, ?_, k, hq⟩
  unfold State.between
  rw [h, e]

/-- A region event by command changes the on-air blocks and the phase of the current step only. -/
theorem sameRest_event (s : State) (due : Bool) (f : Play → Now → Play) : SameRest s (s.event due f) := by
  unfold State.event
  split
  · exact sameRest_taken s _
  · exact .refl s

/-! ## A block whose erase is interrupted -/

/-- Everything that leaving the block of the current erase open can do: nothing where no erase runs; else the whole block reads as
free pages, one occasion each. -/
theorem loosenErasing_cases (s : State) (c : Current) : s.loosenErasing c = s ∨ ∃ block, s.settings.erasing c = some block ∧
    s.loosenErasing c = { s with flash := looseBlock s.flash block s.occasion, occasion := s.occasion + Config.pagesPerBlock } := by
  unfold State.loosenErasing
  split
  · rename_i block h
    exact .inr ⟨block, h, rfl⟩
  · exact .inl rfl

/-! ## Requests -/

/-- What an answer changes: the Management Agent only. -/
theorem answer_frame (s : State) (m : Message) (code : Code) (body : Body) : (s.answer m code body).store = s.store ∧
    (s.answer m code body).settings = s.settings ∧ (s.answer m code body).flash = s.flash ∧
    (s.answer m code body).levels = s.levels ∧ (s.answer m code body).inFlight = s.inFlight ∧
    (s.answer m code body).pending = s.pending := by
  unfold State.answer
  split <;> exact ⟨rfl, rfl, rfl, rfl, rfl, rfl⟩

/-- Everything a served request can do: nothing, or its action on the state with the message taken, and the answer. -/
theorem serve_cases (s : State) (kind : Nat → Bool) (act : Message → State → Answer) :
    s.serve kind act = s ∨ ∃ m rest, s.headOf kind = some (m, rest) ∧
      s.serve kind act = (act m (s.modAgent fun a => a.taking m rest)).state.answer m
        (act m (s.modAgent fun a => a.taking m rest)).code (act m (s.modAgent fun a => a.taking m rest)).body := by
  unfold State.serve
  split
  · exact .inl rfl
  · rename_i m rest h
    exact .inr ⟨m, rest, h, rfl⟩

/-- What a request may be taken for: it stands at the head of the input queue. -/
theorem head_eq (a : Agent) (kind : Nat → Bool) (m : Message) (rest : List Message) :
    a.head kind = some (m, rest) ↔ a.input = m :: rest ∧ kind m.kind = true ∧ a.mayTake m = true := by
  unfold Agent.head
  split
  · rename_i n ns h
    constructor
    · intro e
      split at e
      · rename_i c
        simp only [Bool.and_eq_true] at c
        cases e
        exact ⟨h, c⟩
      · cases e
    · rintro ⟨e, c⟩
      rw [h] at e
      cases e
      simp [c]
  · rename_i h
    simp [h]

/-- Between two samples a request may be taken for what `head_eq` says, and within one for nothing. -/
theorem headOf_eq (s : State) (kind : Nat → Bool) (m : Message) (rest : List Message) :
    s.headOf kind = some (m, rest) ↔ s.midSample = false ∧ s.play.agent.head kind = some (m, rest) := by
  unfold State.headOf
  cases s.midSample <;> simp

/-- The head message, as `Takes` says it. -/
theorem head_of_takes {s : State} {kind : Nat} {m : Message} {rest : List Message} (h : Takes s kind m rest) (f : Nat → Bool)
    (hf : f kind = true) : s.headOf f = some (m, rest) := by
  refine (headOf_eq _ _ _ _).2 ⟨h.between, ?_⟩
  refine (head_eq _ _ _ _).2 ⟨h.input, by rw [h.kind]; exact hf, ?_⟩
  unfold Agent.mayTake Message.broadcast
  have := h.room
  simp only [h.free, h.calm, Config.returnMax, Option.isNone_none, Bool.true_and, Bool.or_eq_true, beq_iff_eq]
  exact this.imp_right decide_eq_true

end Sys2Proof.Machine
end

