-- ==== Sys2Proof/Laws/Voices.lean ====
section
/-! SUPPORT. What each shared operation over voices and regions can do, said once: later proofs cite these forms and do not unfold
the operations. -/

namespace Sys2Proof.Machine

/-! ## One voice -/

/-- A refill changes the pending read only. -/
theorem Voice.refill_form (v : Voice) : ∃ q, v.refill = { v with pending := q } := by
  unfold Voice.refill
  split
  · exact ⟨v.pending, rfl⟩
  · exact ⟨_, rfl⟩

/-- A start changes the state, the position, the start count, the ring and the pending read only. -/
theorem Voice.start_form (v : Voice) (count skip : Nat) : ∃ ring q,
    v.start count skip = { v with state := .playing, pos := v.pos + skip, startedAt := some count, ring := ring, pending := q } := by
  unfold Voice.start
  obtain ⟨q, h⟩ := ({ v with state := .playing, pos := v.pos + skip, startedAt := some count } : Voice).dropBehind.refill_form
  exact ⟨_, q, h⟩

/-- Staging changes the successor and the pending read only. -/
theorem Voice.stage_form (v : Voice) (u : Successor) : ∃ q, v.stage u = { v with successor := some u, pending := q } :=
  ({ v with successor := some u } : Voice).refill_form

/-- A wrap changes the position, the report, the ring and the pending read only. -/
theorem Voice.wrap_form (v : Voice) : ∃ q, v.wrap = { v with pos := 0, reported := false, ring := v.ringAfterWrap, pending := q } :=
  ({ v with pos := 0, reported := false, ring := v.ringAfterWrap } : Voice).refill_form

/-- Taking a priming: every field but the holder and the pending read is set by it. -/
theorem Voice.take_form (v : Voice) (u : Prime) : ∃ q, v.take u =
    { v with
      state := .priming, clip := some u.clip, format := u.format, trim := u.trim, audioPage := u.audioPage,
      pos := u.startPos, endPos := u.endPos, loop := u.loop, successor := none, fader := .still u.level, group := u.group,
      releaseAtRampEnd := false, ring := [], pending := q, dropout := false, underrun := false, run := u.run, startedAt := none,
      reported := false, waiting := none } := by
  unfold Voice.take
  split
  all_goals exact Voice.refill_form _

/-- The successor taken: every field but the holder, the ring, the pending read and the waiting priming is set by it. -/
theorem Voice.takeSuccessor_form (v : Voice) (u : Successor) (st : VoiceState) (c : Option Nat) : ∃ ring q,
    v.takeSuccessor u st c =
      { v with
        state := st, clip := some u.prime.clip, format := u.prime.format, trim := u.prime.trim, audioPage := u.prime.audioPage,
        pos := u.prime.startPos, endPos := u.prime.endPos, loop := u.prime.loop, successor := none, fader := .still u.prime.level,
        group := u.prime.group, releaseAtRampEnd := false, ring := ring, pending := q, dropout := false, underrun := false,
        run := u.prime.run, startedAt := c, reported := false } := by
  unfold Voice.takeSuccessor
  obtain ⟨q, h⟩ := Voice.refill_form (v := _)
  exact ⟨_, q, h⟩

/-- A released voice is not PRIMING, READY or PLAYING. -/
theorem Voice.active_release (v : Voice) : v.release.active = false := by
  unfold Voice.release
  split
  · unfold Voice.active Voice.idle
    split <;> rfl
  · rename_i h
    simpa [Voice.active] using h

/-! ## Writing back what stands -/

theorem Play.setRegion_same (p : Play) (r : Region) : p.setRegion r (p.region r) = p := by
  simp only [Play.setRegion, Play.region]
  congr
  exact Vector.set_getElem_self r.isLt

theorem Play.setRegion_setRegion (p : Play) (r : Region) (x y : RegionRec) : (p.setRegion r x).setRegion r y = p.setRegion r y := by
  simp only [Play.setRegion]
  congr 1
  apply Vector.ext
  intro i hi
  by_cases h : r.val = i
  · subst h; simp
  · simp [Vector.getElem_set_ne _ _ h]

/-! ## Notices and records -/

/-- Raising a notice changes the Management Agent only. -/
theorem Play.raise_form (p : Play) (t : Now) (tag : Nat) (n : Notice) : ∃ a, p.raise t tag n = { p with agent := a } := ⟨_, rfl⟩

theorem mem_insertNotice (e : QueueEntry) (n : Notice) (l : List QueueEntry) : e ∈ insertNotice e n l := by
  induction l with
  | nil => simp [insertNotice]
  | cons x xs ih =>
    simp only [insertNotice]
    split
    · split
      · exact List.mem_cons_of_mem _ ih
      · exact List.mem_cons_self
    · exact List.mem_cons_self

/-- With room, a raised notice stands in the return queue. -/
theorem Play.mem_raise (p : Play) (t : Now) (tag : Nat) (n : Notice) (h : p.agent.noticeRoom = true) :
    (⟨t.address, tag, .notice n, t.count⟩ : QueueEntry) ∈ (p.raise t tag n).agent.returns := by
  simp only [Play.raise, Agent.place, h, if_true, List.mem_reverse]
  exact mem_insertNotice _ _ _

/-- A log taken changes the log and the Management Agent only. -/
theorem Play.takeLog_form (p : Play) (t : Now) (l : AsRunLog) : ∃ raised a,
    p.takeLog t l = { p with log := { l with raised := raised }, agent := a } := by
  unfold Play.takeLog
  split
  · exact ⟨true, _, rfl⟩
  · exact ⟨l.raised, p.agent, rfl⟩

/-- An append changes the log and the Management Agent only. -/
theorem Play.appendRecord_form (p : Play) (t : Now) (b : AsRunBody) : ∃ raised a,
    p.appendRecord t b = { p with log := { p.log.append b with raised := raised }, agent := a } :=
  p.takeLog_form t (p.log.append b)

/-- What the log becomes depends on the log alone. -/
theorem Play.log_appendRecord (p q : Play) (t : Now) (b : AsRunBody) (h : p.log = q.log) :
    (p.appendRecord t b).log = (q.appendRecord t b).log := by
  unfold Play.appendRecord Play.takeLog
  rw [h]
  split <;> rfl

/-- The record appended stands at the tail of the log. -/
theorem AsRunLog.records_append (l : AsRunLog) (b : AsRunBody) :
    ∃ rest, (l.append b).records = rest ++ [⟨l.appended.toNat % 2 ^ 32, b⟩] := by
  unfold AsRunLog.append
  simp only
  split <;> exact ⟨_, rfl⟩

/-- The ITEM record of an entry changes the log, the Management Agent and the region's note of its appends only. -/
theorem Play.appendItem_form (p : Play) (t : Now) (r : Region) (x : ItemRecord) :
    ∃ (l : AsRunLog) (a : Agent) (f : OpenBreak → Option AppendNote),
      p.appendItem t r x = ({ p with log := l, agent := a } : Play).modBreak r fun b => { b with logged := f b } := by
  unfold Play.appendItem Play.withBreak
  split
  · rename_i h
    refine ⟨p.log, p.agent, fun b => b.logged, ?_⟩
    have : (p.region r).brk.map (fun b : OpenBreak => { b with logged := b.logged }) = (p.region r).brk := by simp
    show p = p.setRegion r { p.region r with brk := (p.region r).brk.map fun b => { b with logged := b.logged } }
    rw [this, Play.setRegion_same]
  · rename_i b h
    obtain ⟨raised, a, k⟩ := p.takeLog_form t (p.log.insert (p.log.appended - (b.noteAppend t p.log).first).toNat x)
    refine ⟨{ p.log.insert (p.log.appended - (b.noteAppend t p.log).first).toNat x with raised := raised }, a,
      fun _ => some (b.noteAppend t p.log), ?_⟩
    simp only
    rw [k]

/-- Without an earlier record of the break at this sample, the record stands at the tail of the log. -/
theorem AsRunLog.insert_zero (l : AsRunLog) (x : ItemRecord) : l.insert 0 x = l.append (.item x) := by
  obtain ⟨rest, h⟩ := l.records_append (.item x)
  unfold AsRunLog.insert
  simp only [h, List.length_append, List.length_singleton, Nat.zero_add, Nat.add_sub_cancel, List.take_left', List.drop_left',
    List.dropLast_singleton, List.map_nil, insertItem, List.zip_cons_cons, List.zip_nil_left, List.map_cons]
  rw [show ({ l.append (.item x) with records := rest ++ [⟨l.appended.toNat % 2 ^ 32, .item x⟩] } : AsRunLog) =
    { l.append (.item x) with records := (l.append (.item x)).records } by rw [h]]

/-- The first ITEM record of a break at a sample is appended as any record is. -/
theorem Play.log_appendItem (p : Play) (t : Now) (r : Region) (x : ItemRecord) (b : OpenBreak) (hb : (p.region r).brk = some b)
    (h : ∀ k, b.logged = some k → k.count ≠ t.count) : (p.appendItem t r x).log = (p.appendRecord t (.item x)).log := by
  have : b.noteAppend t p.log = ⟨t.count, p.log.appended⟩ := by
    unfold OpenBreak.noteAppend
    split
    · rename_i k hk
      rw [if_neg (h k hk)]
    · rfl
  unfold Play.appendItem Play.withBreak
  simp [hb, this, AsRunLog.insert_zero, Play.modBreak, Play.appendRecord]

/-! ## Release -/

/-- A release changes the voice released, and of the regions only the pool voice and lead voice fields of its holder. -/
theorem Play.releaseVoice_form (p : Play) (v : VoiceNo) :
    (p.releaseVoice v = p.modVoice v Voice.release ∨ ∃ x r, x.active = false ∧ (p.voice v).release.holder = some r ∧
      isPool v = true ∧ p.releaseVoice v = (p.setVoice v x).modRegion r fun y => y.dropPool v) := by
  unfold Play.releaseVoice Play.returnPool
  simp only [Play.voice_modVoice, if_true]
  split
  · rename_i h
    simp only [Bool.and_eq_true, beq_iff_eq] at h
    split
    · exact .inl rfl
    · rename_i r hr
      refine .inr ⟨{ (p.voice v).release with holder := none }, r, ?_, hr, h.1, ?_⟩
      · simp [Voice.active, h.2]
      · simp only [Play.modVoice, Play.setVoice]
        congr 2
        apply Vector.ext
        intro i hi
        by_cases e : v.val = i
        · subst e; simp
        · simp [Vector.getElem_set_ne _ _ e]
  · exact .inl rfl

/-- The voice released is inactive, and every other voice is as it was. -/
theorem Play.voice_releaseVoice (p : Play) (v u : VoiceNo) :
    (v = u → ((p.releaseVoice v).voice u).active = false) ∧ (v ≠ u → (p.releaseVoice v).voice u = p.voice u) := by
  rcases p.releaseVoice_form v with h | ⟨x, r, hx, -, -, h⟩
  · rw [h]
    refine ⟨fun e => ?_, fun e => by simp [e]⟩
    subst e
    simp [Voice.active_release]
  · rw [h]
    refine ⟨fun e => ?_, fun e => by simp [e]⟩
    subst e
    simp [hx]

/-- A release changes nothing of a region but its pool voice and lead voice. -/
theorem Play.region_releaseVoice (p : Play) (v : VoiceNo) (q : Region) : ∃ pool lead,
    (p.releaseVoice v).region q = { p.region q with pool := pool, lead := lead } ∧
      ((p.region q).lead = none → lead = none) ∧ ((p.region q).lead ≠ some v → lead = (p.region q).lead) ∧
      ((p.voice v).release.holder ≠ some q → pool = (p.region q).pool ∧ lead = (p.region q).lead) := by
  rcases p.releaseVoice_form v with h | ⟨x, r, -, hr, -, h⟩
  · rw [h]
    exact ⟨_, _, rfl, id, fun _ => rfl, fun _ => ⟨rfl, rfl⟩⟩
  · rw [h]
    by_cases e : r = q
    · subst e
      refine ⟨((p.region r).dropPool v).pool, ((p.region r).dropPool v).lead, by simp; rfl, ?_, ?_, ?_⟩
      · intro k; simp [RegionRec.dropPool, k]
      · intro k; simp [RegionRec.dropPool, k]
      · intro k; exact absurd hr k
    · exact ⟨(p.region q).pool, (p.region q).lead, by simp [e], id, fun _ => rfl, fun _ => ⟨rfl, rfl⟩⟩

/-- A release keeps the plans, the waiting list, the gates, the directory, the log and the agent. -/
theorem Play.rest_releaseVoice (p : Play) (v : VoiceNo) : (p.releaseVoice v).plans = p.plans ∧
    (p.releaseVoice v).waiters = p.waiters ∧ (p.releaseVoice v).gates = p.gates ∧ (p.releaseVoice v).dir = p.dir ∧
    (p.releaseVoice v).log = p.log ∧ (p.releaseVoice v).agent = p.agent := by
  rcases p.releaseVoice_form v with h | ⟨x, r, -, -, -, h⟩ <;> rw [h] <;> exact ⟨rfl, rfl, rfl, rfl, rfl, rfl⟩

/-! ## Preparing the next entry -/

/-- What staging ahead changes: of the region, how far its break has prepared; of the voices, successors and pending reads. -/
structure Prepared (r : Region) (p q : Play) : Prop where
  others : ∀ r', r' ≠ r → q.region r' = p.region r'
  own : ∃ (prep : OpenBreak → Prep) (tested : OpenBreak → Bool), q.region r =
    { p.region r with brk := (p.region r).brk.map fun b => { b with prep := prep b, fillerTested := tested b } }
  voices : ∀ v, ∃ u pend, q.voice v = { p.voice v with successor := u, pending := pend }
  notLead : ∀ v, (p.region r).lead ≠ some v → q.voice v = p.voice v
  rest : q.plans = p.plans ∧ q.waiters = p.waiters ∧ q.gates = p.gates ∧ q.dir = p.dir ∧ q.log = p.log ∧ q.agent = p.agent

theorem Prepared.refl (r : Region) (p : Play) : Prepared r p p :=
  ⟨fun _ _ => rfl, ⟨fun b => b.prep, fun b => b.fillerTested, by cases h : (p.region r).brk <;> simp [← h]⟩, fun v => ⟨_, _, rfl⟩,
    fun _ _ => rfl,
    rfl, rfl, rfl, rfl, rfl, rfl⟩

theorem Play.prepare_form (p : Play) (t : Now) (r : Region) : Prepared r p (p.prepare t r) := by
  unfold Play.prepare Play.withBreak
  split
  · exact .refl r p
  · rename_i b hb
    split
    · exact .refl r p
    · rename_i lead hl
      split
      · simp only
        split
        · unfold Play.stageFiller
          split
          · exact .refl r p
          · simp only
            split
            · refine ⟨fun r' e => by simp [Play.modBreak, Ne.symm e], ⟨fun b => b.prep, fun _ => true, by simp [Play.modBreak, hb]⟩, ?_, ?_,
                rfl, rfl, rfl, rfl, rfl, rfl⟩
              · intro v
                simp only [Play.voice_modVoice, Play.modBreak, Play.voice_modRegion]
                split
                · rename_i e
                  obtain ⟨q, h⟩ := (p.voice lead).stage_form ⟨p.fillerOf r, false⟩
                  exact ⟨_, q, by rw [h, e]⟩
                · exact ⟨_, _, rfl⟩
              · intro v hv
                have : lead ≠ v := fun e => hv (by rw [hl, e])
                simp [Play.modBreak, this]
            · exact ⟨fun r' e => by simp [Play.modBreak, Ne.symm e], ⟨fun b => b.prep, fun _ => true, by simp [Play.modBreak, hb]⟩,
                fun v => ⟨_, _, rfl⟩, fun _ _ => rfl, rfl, rfl, rfl, rfl, rfl, rfl⟩
        · rename_i e _
          split
          · refine ⟨fun r' e => by simp [Play.setPrep, Play.modBreak, Ne.symm e],
              ⟨fun _ => .staged, fun b => b.fillerTested, by simp [Play.setPrep, Play.modBreak, hb]⟩, ?_, ?_,
                rfl, rfl, rfl, rfl, rfl, rfl⟩
            · intro v
              simp only [Play.setPrep, Play.modBreak, Play.voice_modRegion, Play.voice_modVoice]
              split
              · rename_i h'
                obtain ⟨q, h⟩ := (p.voice lead).stage_form ⟨p.primeOf e e.level, (p.linkedTo r e).isSome⟩
                exact ⟨_, q, by rw [h, h']⟩
              · exact ⟨_, _, rfl⟩
            · intro v hv
              have : lead ≠ v := fun e => hv (by rw [hl, e])
              simp [Play.setPrep, Play.modBreak, this]
          · exact .refl r p
      · exact .refl r p

end Sys2Proof.Machine
end

