-- ==== Sys2Proof/WellFormed.lean ====
section
/-! DEFINITION. What the operands of a command may be, where their Lean types do not say it: the fields whose range the
manual gives by their width. Every other field may carry any number, and the command's own rule refuses or clamps it. -/

namespace Sys2Proof

/-- A read attempt names bits of one 4,096-byte page, each at most once (R119, R135). -/
def Attempt.wf (a : Attempt) : Bool := a.all (· < 32768) && decide a.Nodup

/-- "Levels lie in 0..255 by their field width" (R36). -/
def ConfigureRegionFields.wf (f : ConfigureRegionFields) : Bool := f.fillerLevel ≤ 255 && f.duckLevel ≤ 255

/-- The level field of an item is 0..255, its range in the plan item table. -/
def AppendItemFields.wf (f : AppendItemFields) : Bool := f.level ≤ 255

/-- "Every break ID 0..65,535 is accepted" (R42): the field holds no other. -/
def OpenPlanFields.wf (f : OpenPlanFields) : Bool := f.breakId ≤ 65535

/-- "The target is 0..255 by its field width" (R90). -/
def GroupLevelFields.wf (f : GroupLevelFields) : Bool := f.target ≤ 255

/-- The well-formed commands. -/
def Instr.wf : Instr → Bool
  | .readDelivery a b c => Attempt.wf a && Attempt.wf b && Attempt.wf c
  | .configureRegion (some f) => f.wf
  | .appendItem (some f) => f.wf
  | .openPlan (some f) => f.wf
  | .setGroupLevel (some f) => f.wf
  | _ => true

end Sys2Proof
end

