-- ==== Sys2Proof/Tests/Slice0.lean ====
section
/-! SUPPORT. Our own tests: the well-formedness checks, a witness for the hypotheses of every statement that has some, and worked
examples of the spec. Each is about one step or one operation. -/

open Sys2Proof Sys2Proof.Machine

namespace Sys2Proof.Tests

-- The kernel evaluates these one after another: in parallel they would take more memory than the check allows.
set_option Elab.async false

/-! ## Helpers -/

/-- A message to the part at address 0. -/
def msg (kind : Nat) : Message := ⟨0, 7, kind, 0, []⟩

/-- A state whose Management Agent has one message to take. -/
def asked (s : State) (m : Message) : State :=
  { s with play := { s.play with agent := { s.play.agent with input := [m] } } }

/-- The state after reset with one message to take. -/
def plainAsk (kind : Nat) : State := asked State.reset (msg kind)

/-- The state after a command that completes. -/
def ran (c : Instr) (s : State) : State := match exec c s with
  | .next t => t
  | _ => s

/-- Sample `k` of an open period, after `k` samples, over on-air blocks. -/
def onAir (p : Play) (k : Nat) : State :=
  { State.reset with period := some ⟨0, .locked, ⟨0, 0⟩, []⟩, sample := k, play := p, link := { State.reset.link with count := k } }

/-- A header of a 2-second S16 clip. -/
def header0 : ClipHeader := ⟨.s16, 96000, none, 0, none, none, 0⟩

/-- A directory entry of that clip. -/
def clip0 (n block : Nat) (st : ClipState) : DirEntry := ⟨n, st, block, 2, header0, 0, 0, none⟩

/-- A complete directory with clips 5 and 6. -/
def dir0 : Directory := ⟨.complete, [clip0 5 10 .ready, clip0 6 20 .ready], ⟨32768, 2, 0, 0, false⟩, []⟩

/-- An item of clip 5. -/
def item0 : PlanItem := ⟨5, 0, .full, .cut, 0, 231, 1, true, none⟩

/-- A plan for break 9, with lead-in and lead-out of 100 ms. -/
def plan0 : Plan := ⟨9, 100, 100, .earlyNetwork, false, [item0, { item0 with clip := 6 }]⟩

/-- A run entry. -/
def entry (i clip : Nat) (st : EntryStatus) : RunEntry :=
  ⟨i, clip, .full, some 96000, .cut, 0, 0, 231, 1, none, st, RunFlags.clear, none, none, 0⟩

/-- A MIX entry with an overlap of 24,000 samples. -/
def mixEntry (i clip : Nat) : RunEntry := { entry i clip .pending with transition := .mix, transitionSamples := 24000, overlap := 24000 }

/-- A running break 9 with plan slot 0. -/
def break0 (run : List RunEntry) : OpenBreak :=
  ⟨9, 0, run, some ⟨⟨0, 0⟩, 0, ⟨0, 0⟩⟩, some 1000000, true, some ⟨0, 0⟩, 0, 0, 1, none, false, none, .none, false, false, none,
    none⟩

/-- Region 0 in a state with an open break and a lead voice. -/
def inState (st : RegionState) (lead : Option VoiceNo) (b : OpenBreak) : RegionRec :=
  { RegionRec.reset with state := st, brk := some b, lead := lead, bed := .still 0 }

/-- On-air blocks with region 0 given, its plan in slot 0, and its home voice given. -/
def airing (x : RegionRec) (v : Voice) : Play :=
  { (((Play.reset 0).setSlot 0 0 ⟨.inUse, some plan0⟩).setRegion 0 x).setVoice 0 v with dir := dir0 }

/-- A voice of region 0 that plays entry `i` of the run list, with `left` samples to go. -/
def playing (i left : Nat) : Voice :=
  { Voice.idle (some 0) with
    state := .playing, clip := some 5, format := .s16, audioPage := 641, pos := 96000 - left, endPos := 96000, fader := .still 231
    group := 1, run := some i, startedAt := some 0 }

/-- A READY voice of region 0 for entry `i`. -/
def ready (i : Nat) : Voice := { playing i 96000 with state := .ready, fader := .still 0, startedAt := none }

/-- A cue for break 9 with target sample 0 of frame 0, to region 0. -/
def cue0 (k : CueKind) : PendingCue := ⟨k, 9, ⟨0, 0⟩, 1, 60000, 0⟩

/-- A state with that cue in the pending table. -/
def withCue (k : CueKind) (s : State) : State := { s with cues := { s.cues with table := [cue0 k] } }

/-- A store operation that is current at a step. -/
def current0 (op : StoreOp) (st : Stage) : Current := ⟨op, st, true, .running, 0⟩

/-- The state after reset with a complete directory and a Store Controller. -/
def storing (st : Store) : State :=
  { State.reset with store := st, play := { State.reset.play with dir := dir0 } }

/-! ## Well-formedness: each check refuses an ill-formed command -/

theorem test_wf_attempt_range : Instr.wf (.readDelivery [32768] [] []) = false := by decide
theorem test_wf_attempt_repeat : Instr.wf (.readDelivery [] [3, 3] []) = false := by decide
theorem test_wf_attempt_good : Instr.wf (.readDelivery [0, 32767] [] [5]) = true := by decide
theorem test_wf_filler_level : Instr.wf (.configureRegion (some ⟨0, true, 0, 256, 151, 0, 1000, 1⟩)) = false := by decide
theorem test_wf_duck_level : Instr.wf (.configureRegion (some ⟨0, true, 0, 231, 256, 0, 1000, 1⟩)) = false := by decide
theorem test_wf_item_level :
    Instr.wf (.appendItem (some ⟨0, 0, 5, 0, .full, .cut, 0, true, 256, 0, false, 0⟩)) = false := by decide
theorem test_wf_break_id : Instr.wf (.openPlan (some ⟨0, 0, 65536, 0, 0, .filler, false⟩)) = false := by decide
theorem test_wf_group_target : Instr.wf (.setGroupLevel (some ⟨1, 256, 0⟩)) = false := by decide

/-! ## Worked examples of the spec: levels (spec/05) -/

/-- R80: level 231 in a group at 191 with trim −12 gives 179, whose gain in the table is 7,336. -/
theorem test_effective_level : effectiveLevel 231 191 (-12) = 179 ∧ lin 179 = 7336 := by decide
theorem test_effective_level_clamped : effectiveLevel 255 255 24 = 255 ∧ effectiveLevel 10 100 (-64) = 0 := by decide
theorem test_contribution_worked : contribution 1000000 151 = 100006 ∧ contribution 8388607 1 = 11264 := by decide

/-- R82: half-way cases go upward. -/
theorem test_contribution_half_way :
    ((16384 + 16384 : Int) / 32768, (-16384 + 16384 : Int) / 32768, (-16385 + 16384 : Int) / 32768) = (1, 0, -1) := by decide

/-- R85: 231 toward 0 over 500 ms has a step interval of 103. -/
theorem test_ramp_interval : (Fader.still 231).begin 0 500 = ⟨231, some ⟨0, 103, 231, 0⟩⟩ := by decide

/-! ## Worked example of fitting (spec/03) -/

/-- A 30 s CUT, a 30 s droppable CUT and a 4 s MIX of 500 ms. -/
def fitDir : Directory :=
  ⟨.complete, [{ clip0 1 0 .ready with header := { header0 with length := 1440000 } },
    { clip0 2 100 .ready with header := { header0 with length := 1440000 } },
    { clip0 3 200 .ready with header := { header0 with length := 192000 } }], ⟨32768, 3, 0, 0, false⟩, []⟩

/-- The plan of break 640. -/
def fitPlan : Plan :=
  ⟨640, 0, 0, .earlyNetwork, false, [{ item0 with clip := 1, droppable := false }, { item0 with clip := 2 },
    { item0 with clip := 3, transition := .mix, transitionMs := 500, droppable := false }]⟩

/-- R48 to R54: with a nominal length of 60,000 ms the second item is DROPPED and the third keeps its overlap. -/
theorem test_fit_drops :
    ((fit fitPlan fitDir ⟨0, 0⟩ 60000).map fun e => (e.status, e.overlap)) =
      [(.pending, 0), (.skipped .dropped, 0), (.pending, 24000)] ∧
    plannedDuration (fit fitPlan fitDir ⟨0, 0⟩ 60000) = 1608000 := by decide +kernel

/-! ## The machine -/

theorem witness_StepRunsFrontCommand :
    ({ State.reset with pending := [.identify] } : State).pending = .identify :: [] := rfl

/-- The first and the last sample of a period. -/
theorem witness_TickOnEmptyQueue :
    State.reset.pending = [] ∧ (onAir (Play.reset 0) 0).pending = [] ∧ (onAir (Play.reset 0) 0).period.isSome = true ∧
      (onAir (Play.reset 0) 0).sample < 48 ∧ (onAir (Play.reset 0) 47).sample < 48 ∧ (onAir (Play.reset 0) 47).link.count + 1 < 2 ^ 48 := by
  decide +kernel

theorem test_tick_counts : (onAir (Play.reset 0) 47).formSample.sample = 48 ∧ (onAir (Play.reset 0) 47).formSample.egress.isSome = true := by
  decide +kernel

/-- A state with boundary 5, floor 2, and a waiting write of 6 and 3. -/
def fenced : State :=
  { State.reset with
    settings := { Settings.new with boundary := 5, floor := 2 }
    store := { Store.reset 6 3 with queue := [.floor 3 6 0] } }

theorem witness_LockFenceKept : LockInv fenced ∧ ∃ t, step fenced = .next t :=
  ⟨⟨by decide, by decide, by simp [fenced, Store.operations, Store.reset, climbs, StoreOp.leaves], by simp [fenced, Store.reset]⟩,
    _, rfl⟩

theorem witness_UnityGroupKept : UnityInv fenced ∧ ∃ t, step fenced = .next t := ⟨rfl, _, rfl⟩

/-- A state with a byte staged and one programmed page. -/
def written : State :=
  { State.reset with store := { Store.reset 0 0 with staging := [(3, 0x12)] }, flash := [(64, programmed [(0, 0x34)])] }

theorem witness_MemoryFormKept : MemoryInv written ∧ ∃ t, step written = .next t :=
  ⟨⟨by decide, by decide, by decide, by simp [written, Store.reset]⟩, _, rfl⟩

/-! ## Power-on, soft reset and the link -/

/-- R166: 255 is taken as 254; 254 is itself. -/
theorem test_powerOn_address :
    (State.reset.powerOn 255).link.address = 254 ∧ (State.reset.powerOn 254).link.address = 254 := by decide +kernel

/-- A state in which a page program runs: a store operation, but no settings write. -/
def programming : State := { State.reset with store := { State.reset.store with current := some ⟨.commit 5 7 none, .program, true, .running, 0⟩ } }

theorem witness_PowerOnState : State.reset.store.current = none ∧ programming.store.current ≠ none ∧
    (∀ c, programming.store.current = some c → c.started = true → c.stage.writesSettings = false) :=
  ⟨rfl, by decide, by simp [programming, Stage.writesSettings]⟩

theorem witness_AddressSampledOnce :
    (∀ pins, State.reset.pending.head? ≠ some (.powerOn pins)) ∧ (∃ t, step State.reset = .next t) ∧
      Takes (plainAsk 0x01) 0x01 (msg 0x01) [] ∧ (msg 0x01).body = [] :=
  ⟨(fun _ h => nomatch h), ⟨_, rfl⟩, ⟨rfl, rfl, rfl, rfl, rfl, .inr (by decide)⟩, rfl⟩

/-- A Reset with the latch set. -/
def latched : State :=
  { plainAsk 0x03 with play := { State.reset.play with agent := { Agent.reset with input := [msg 0x03], resetEnable := true } } }

/-- The state that the Reset leaves: its OK reply in the return queue, the reset pending on it. -/
def resetTaken : State := ran .reset latched

/-- A state whose reset waits for the boundary alone, with a read in flight. -/
def resetting : State :=
  { asked State.reset (msg 0x01) with
    returnFormed := true, inFlight := some ⟨.scan, 0, 0⟩
    play := { State.reset.play with agent := { Agent.reset with resetPending := some .nextBoundary } } }

theorem witness_SoftResetState :
    resetTaken.sample = 48 ∧ resetTaken.returnFormed = false ∧ resetTaken.play.agent.resetPending = some .onReply ∧
      ((takeEntries 496 resetTaken.play.agent.returns).1.any fun e => e.payload == .reply 0x03 .ok .none) = true ∧
      resetTaken.store.current = none ∧ resetting.play.agent.resetPending = some .nextBoundary ∧
      State.reset.play.agent.resetPending = none ∧ (onAir (Play.reset 0) 47).sample ≠ 48 := by decide +kernel

/-- R174: the reset takes effect on the reply that leaves in the return frame of the boundary. -/
theorem test_softReset_on_reply :
    resetTaken.withReturn.resetDue = true ∧ (resetTaken.withReturn.returnFrame.map fun f => f.entries.length) = some 1 ∧
      resetTaken.withReturn.softReset.play.agent = Agent.reset := by decide +kernel

theorem test_softReset_takes_effect :
    resetting.softReset.play.agent = Agent.reset ∧ resetting.softReset.inFlight = some ⟨.discarded, 0, 0⟩ := by decide +kernel

/-- A frame held for the expected sequence, and none. -/
theorem witness_FramePeriodEventOpensPeriod :
    (State.reset.returnFormed = true → State.reset.returnFrame ≠ none) ∧ State.reset.link.holding = [] ∧
      (resetting.returnFormed = true) ∧ State.reset.sample = 48 ∧ State.reset.returnFormed = false ∧
      State.reset.play.agent.resetPending = none := by decide +kernel

/-- A group whose fade waits for the boundary. -/
theorem witness_FramePeriodEventFades :
    let s : State := { State.reset with levels := State.reset.levels.set 7 ⟨.still 231, some (0, 500), 231⟩ }
    s.sample = 48 ∧ s.returnFormed = false ∧ s.play.agent.resetPending = none ∧ (7 : GainGroup) ≠ 0 ∧
      s.levels[(7 : GainGroup)].waiting = some (0, 500) := by decide +kernel

/-- Gate 0 with regions 0 and 1 expected and region 0 arrived. -/
def gate0 (st : GateState) : Gate := ⟨3, 0, st, some 9, 3, [(0, 0)], some 40, some 0, some 48, []⟩

/-- A WAITING gate with nobody expected, with everybody arrived, and short at its deadline; a message; and the end of a field. -/
theorem witness_FramePeriodEventGates :
    (gate0 .waiting).state = .waiting ∧ ({ gate0 .waiting with expected := 1 } : Gate).arrivedSet = 1 ∧ (1 : BitVec 24) ≠ 0 ∧
      (gate0 .waiting).arrivedSet ≠ (gate0 .waiting).expected ∧ (∀ d, (gate0 .waiting).deadline = some d → 40 ≤ d) ∧
      (msg 1).fits ∧ ([] : List Byte).length < 7 :=
  ⟨rfl, by decide +kernel, by decide, by decide +kernel, by simp [gate0], by simp [Message.fits, msg], by decide⟩

/-- An OPEN gate with everybody arrived, and short before its join deadline. -/
theorem witness_FramePeriodEventOpenGates :
    (gate0 .opened).state = .opened ∧ ({ gate0 .opened with expected := 1 } : Gate).arrivedSet = 1 ∧
      (gate0 .opened).arrivedSet ≠ (gate0 .opened).expected ∧ (∀ d, (gate0 .opened).joinDeadline = some d → 47 < d) :=
  ⟨rfl, by decide +kernel, by decide +kernel, by simp [gate0]⟩

/-- R99: the OPEN gate whose arrived set is complete closes at the boundary, its sets kept. -/
theorem test_open_gate_closes :
    let p := (Play.reset 0).setGate 0 { gate0 .opened with expected := 1 }
    ((p.gateTests (onAir p 47).now).gate 0) = { gate0 .closed with expected := 1 } := by decide +kernel

/-- R165: two messages back to back, then the end mark. -/
theorem test_read_messages :
    readMessages 30 ((msg 1).bytes ++ (msg 3).bytes ++ [0xFF, 0, 0, 0xFF, 0, 0, 0]) = [msg 1, msg 3] := by decide +kernel

/-- R157: the frame period event without a frame after power-on stays ACQUIRING, counts a holdover period, and opens a period. -/
theorem test_framePeriodEvent_without_frame :
    State.reset.boundary.link.state = .acquiring ∧ State.reset.boundary.link.counts.holdover = 1 ∧
      State.reset.boundary.sample = 0 ∧ State.reset.boundary.link.expected = 1 := by decide +kernel

/-- A programme frame with sequence `seq`, no cues and no messages. -/
def frame (seq : Nat) : List Byte :=
  let bs := [0xB4, 0x2D, 0x71, 0x00] ++ toLE 2 330 ++ toLE 2 seq ++ toLE 4 0 ++ toLE 2 0 ++ List.replicate 312 0
  bs ++ toLE 4 (sum32 bs)

/-- A link in a state that expects sequence 10. -/
def linked (st : LinkState) (run : Nat) : State :=
  { State.reset with link := { State.reset.link with state := st, expected := 10, lockRun := run, lockLast := 8 } }

/-- An invalid frame, and a valid one of the least length; one whose check does not fit. -/
theorem witness_InvalidFrameChangesCountOnly :
    frameValid [] = false ∧ frameValid (frame 10) = true ∧ (frame 10).length = 330 ∧ frameValid (frame 10 ++ [0]) = false ∧
      frameValid ((frame 10).set 6 0x99) = false := by decide +kernel

/-- R159: a lock run ends at an event before which no valid frame has arrived, and stands where one has. -/
theorem test_lock_run_ends :
    (linked .acquiring 2).boundary.link.lockRun = 0 ∧
      ({ linked .acquiring 2 with link := { (linked .acquiring 2).link with arrived := true } } : State).boundary.link.lockRun = 2 := by
  decide +kernel

/-- The boundary distances: 0, 1, 2, 32,767 and 32,768; and the fourth frame of a lock run. -/
theorem witness_ValidFrameMovesLink :
    frameValid (frame 10) = true ∧ (linked .locked 0).link.state = .locked ∧ (linked .holdover 0).link.state = .holdover ∧
      (linked .locked 0).link.expected < 65536 ∧ (linked .acquiring 3).link.state = .acquiring ∧
      (linked .free 3).link.state = .free ∧ (linked .free 3).link.lockRun ≤ 3 := by decide +kernel

theorem test_frame_held : ((linked .holdover 0).link.arrive (frame 11)).state = .locked ∧
    ((linked .holdover 0).link.arrive (frame 11)).holding.length = 1 := by decide +kernel

/-- A frame held for the expected sequence at its frame period event. -/
theorem witness_FramePeriodEventHeld :
    ((linked .locked 0).link.arrive (frame 10)).holding.find? (fun f => f.seq == 10) = some (readFrame (frame 10)) := by decide +kernel

/-- R159: the fourth frame of a run locks, here with a sequence step from 10 to 9. -/
theorem test_lock_run : ((linked .acquiring 3).link.arrive (frame 9)).state = .locked ∧
    ((linked .acquiring 3).link.arrive (frame 9)).counts.steps = 1 := by decide +kernel

/-! ## Region events -/

theorem witness_SettlingFrame :
    (∀ r, ((Play.reset 0).region r).arriving = none) ∧ (∀ r, (Play.reset 0).requestDue r = false) ∧ (Play.reset 0).waiters = [] := by
  decide +kernel

/-- Region 0 in GATED on its READY home voice, arriving at gate 0 in a state. -/
def arrivingAt (x : Gate) : Play :=
  (airing { inState .gated (some 0) (break0 [{ entry 0 5 .pending with link := some 0 }]) with arriving := some 0 }
    { ready 0 with fader := .still 231 }).setGate 0 x

/-- An arrival for every case: missed, CLOSED, awaited at a WAITING and at an OPEN gate, and unexpected; the sample is quiet. -/
theorem witness_SettlingArrivals :
    ((arrivingAt (gate0 .closed)).region 0).brk.isSome = true ∧ ((arrivingAt (gate0 .closed)).region 0).lead = some 0 ∧
      nextPending (break0 [entry 0 5 .pending]).run = some (entry 0 5 .pending) ∧
      (onAir (arrivingAt (gate0 .closed)) 5).quiet = true ∧ ((arrivingAt (gate0 .closed)).region 0).arriving = some 0 ∧
      (∀ q, q ≠ 0 → ((arrivingAt (gate0 .closed)).region q).arriving = none) ∧
      (((arrivingAt (gate0 .closed)).resolveArrival (onAir (Play.reset 0) 5).now 0 0).region 0).arriving = none ∧
      inMask ({ gate0 .waiting with arrived := [] } : Gate).expected 0 = true ∧
      ((gate0 .waiting).arrived.any fun a => a.1 == 0) = true := by decide +kernel

/-- R95: at a CLOSED gate the first arrival expects the regions with the linked entry pending, here region 0 alone. -/
theorem test_first_arrival :
    let x := ((arrivingAt (gate0 .closed)).resolveArrival (onAir (Play.reset 0) 5).now 0 0).gate 0
    x.state = .waiting ∧ x.expected = 1 ∧ x.arrived = [(0, 0)] ∧ x.deadline = some 5 := by decide +kernel

/-- R98: an awaited region joins an OPEN gate 5 samples after its open point, and plays from there. -/
theorem test_late_join :
    let p := (arrivingAt { gate0 .opened with arrived := [] }).resolveArrival (onAir (Play.reset 0) 5).now 0 0
    (p.region 0).state = .localPlay ∧ (p.voice 0).pos = 5 ∧ (p.gate 0).arrived = [(0, 5)] := by decide +kernel

/-- A free pool voice, and a waiting entry of region 0. -/
theorem witness_SettlingGrants :
    let p : Play := { airing (inState .localPlay (some 0) { break0 [entry 0 5 .playing, mixEntry 1 6] with prep := .waiting }) (playing 0 28800)
      with waiters := [⟨0, 1, 0⟩] }
    p.freePool.head? = some 24 ∧ p.waiters = [⟨0, 1, 0⟩] ∧ (p.region 0).brk.isSome = true ∧
      findEntry (break0 [entry 0 5 .playing, mixEntry 1 6]).run 1 = some (mixEntry 1 6) ∧ p.grantOne.freePool.head? = some 25 ∧
      (p.grantOne.region 0).pool = some 24 := by decide +kernel

/-- A waiting entry with a free voice: between two samples, within one whose events are all taken, and within one with an event due. -/
theorem witness_SettlingBetween :
    let p : Play := { airing (inState .localPlay (some 0) { break0 [entry 0 5 .playing, mixEntry 1 6] with prep := .waiting }) (playing 0 28800)
      with waiters := [⟨0, 1, 0⟩] }
    p.waiters ≠ [] ∧ (onAir p 5).midSample = false ∧ (onAir p 5).quiet = true ∧
      ({ onAir (p.modRegion 0 fun x => { x with bed := ⟨0, some ⟨0, 1, 0, 0⟩⟩ }) 5 with midSample := true } : State).quiet = false := by
  decide +kernel

/-- Sample 0 with regions 0 and 1 in LEADIN before gate 0: region 1's home voice is READY, region 0's waits for its read in flight. -/
def racing : State :=
  let e := { entry 0 5 .pending with link := some 0 }
  let waits := { inState .leadin none { break0 [e] with leadInStart := none } with bed := .still 231 }
  let p := ((airing waits { ready 0 with state := .priming, endPos := 1000, pending := some ⟨⟨.current, 0, 641⟩, true⟩ }).setGate 0
    (gate0 .closed)).setSlot 1 0 ⟨.inUse, some plan0⟩
  { onAir ((p.setRegion 1 waits).setVoice 1 { ready 0 with holder := some 1 }) 0 with inFlight := some ⟨.voice 0, 641, 10⟩ }

/-- The lead-in of region 1 taken and settled, then the read of region 0 delivered. -/
def raced : State := ran (.readDelivery [] [] []) (ran (.leadInStart 1) racing)

theorem witness_SettlingSettled :
    (ran (.leadInStart 1) racing).settled = true ∧ racing.settled = false ∧ (ran (.readDelivery [] [] []) racing).play.leadInDue
      (ran (.readDelivery [] [] []) racing).now 0 = true := by decide +kernel

/-- R95, R21: region 1 has made the first arrival, and region 0, READY only now, begins its lead-in at the next frame. -/
theorem test_settled_sample :
    (raced.play.gate 0).arrived = [(1, 0)] ∧ (raced.play.voice 0).state = .ready ∧ raced.play.leadInDue raced.now 0 = false ∧
      (raced.play.leadInDue { raced.now with settled := false } 0) = true ∧ raced.formSample.settled = false := by decide +kernel

/-- R95: with both READY, region 0 makes the first arrival though its lead-in is taken second. -/
theorem test_lowest_arrives_first :
    ((ran (.leadInStart 0) (ran (.leadInStart 1) (ran (.readDelivery [] [] []) racing))).play.gate 0).arrived = [(0, 0), (1, 0)] := by
  decide +kernel

/-- On-air blocks of a region in NETWORK with the plan READY. -/
def idlePlay : Play := { (Play.reset 0).setSlot 0 0 ⟨.ready, some plan0⟩ with dir := dir0 }

theorem witness_CueDispatchMarks :
    (withCue .prepare (onAir idlePlay 0)).assembling = true ∧
      (withCue .prepare (onAir idlePlay 0)).dueCue 0 = some (cue0 .prepare) ∧
      ((idlePlay.setRegion 0 { RegionRec.reset with state := .bypass }).region 0).state = .bypass := by decide +kernel

/-- A cue record of kind `kind` for break 9 with a target. -/
def record0 (kind seq sample : Nat) : CueRecord := ⟨kind, 9, ⟨seq, sample⟩, 1, 700000⟩

/-- A table of eight cues, due in frames 1 to 8. -/
def fullTable : List PendingCue := [1, 2, 3, 4, 5, 6, 7, 8].map fun n => ⟨.split, 1, ⟨n, 0⟩, 1, 0, 0⟩

/-- What the intake of frame 0 makes of a record. -/
def taken0 (u : CueUnit) (x : CueRecord) : CueUnit := (takeCue (onAir (Play.reset 0) 0).now 0 (u, Play.reset 0) x).1

/-- R1: the first and the last kind, and one to each side; the last sample, and one behind it. -/
theorem witness_CueDispatchRecords :
    [(record0 0 0 0).cue.isSome, (record0 1 0 0).cue.isSome, (record0 4 0 47).cue.isSome, (record0 4 0 48).cue.isSome,
      (record0 5 0 0).cue.isSome] = [false, true, true, false, false] ∧
      ((record0 2 0 0).cue.map PendingCue.nominal, (record0 3 0 0).cue.map PendingCue.nominal) = (some 600000, some 0) := by decide +kernel

/-- R3 to R6: distances 255, 256, 65,532 and 65,533; a repeat; a full table whose latest entry is displaced, or stays. -/
theorem witness_CueDispatchIntake :
    [255, 256, 65532, 65533].map (fun n => ((taken0 CueUnit.reset (record0 2 n 0)).table.length, (taken0 CueUnit.reset (record0 2 n 0)).dropped)) =
        [(1, 0), (0, 1), (0, 1), (1, 0)] ∧
      taken0 (taken0 CueUnit.reset (record0 2 3 0)) { record0 2 3 0 with nominal := 5 } = taken0 CueUnit.reset (record0 2 3 0) ∧
      ((taken0 { CueUnit.reset with table := fullTable } (record0 2 7 47)).table.map fun c => c.target.seq) = [1, 2, 3, 4, 5, 6, 7, 7] ∧
      taken0 { CueUnit.reset with table := fullTable } (record0 2 8 0) = { CueUnit.reset with table := fullTable, dropped := 1 } ∧
      (Play.reset 0).agent.noticeRoom = true := by decide +kernel

/-- The Cue Unit with eight cues is in its bounds, and a state with it steps. -/
theorem witness_CueDispatchInvariant :
    CueInv { CueUnit.reset with table := fullTable } ∧ ∃ t, step { State.reset with cues := { CueUnit.reset with table := fullTable } } = .next t :=
  ⟨⟨by decide, by unfold fullTable SameCue; decide, by decide, by decide⟩, _, rfl⟩

theorem witness_PlanLookup : idlePlay.findPlan 0 9 = some 0 ∧ idlePlay.findPlan 0 8 = none := by decide +kernel

/-- Region 0 with a READY slot is in order, and so is every region without a plan. -/
theorem witness_PlanLookupInvariant : (∀ r, SlotInv idlePlay r) ∧ ∃ t, step (onAir idlePlay 0) = .next t := by
  have h1 : ∀ r : Region, (idlePlay.region r).brk = none ∧ (idlePlay.region r).state = .network := by decide +kernel
  have h2 : ∀ (r : Region) (n : Fin 16), idlePlay.slot r n = ⟨.ready, some plan0⟩ ∧ n = 0 ∨ idlePlay.slot r n = ⟨.empty, none⟩ := by
    decide +kernel
  refine ⟨fun r => ⟨fun n m pl pl' hnm hn hm => ?_, ?_, fun n => ?_, fun n => ?_, fun b hb => ?_⟩, _, rfl⟩
  · rcases h2 r n with h | h <;> rcases h2 r m with k | k <;> simp_all
  · simp [h1 r]
  · rcases h2 r n with ⟨h, -⟩ | h <;> simp [h, h1 r, SlotState.held]
  · rcases h2 r n with ⟨h, -⟩ | h <;> simp [h]
  · rw [(h1 r).1] at hb; cases hb

theorem witness_PrepareArmsRegion :
    let s := withCue .prepare (onAir idlePlay 0)
    s.assembling = true ∧ s.dueCue 0 = some (cue0 .prepare) ∧ (s.play.region 0).state = .network ∧
      s.play.findPlan 0 9 = some 0 ∧ (s.play.slot 0 0).plan = some plan0 ∧ (s.play.voice (homeVoice 0)).state = .idle ∧
      ((fit plan0 s.play.dir s.link.air 60000).find? fun e => e.status == .pending).isSome = true := by decide +kernel

/-- What fitting meets: a usable main clip, a usable substitute, neither, a SHORT item, and an item that is dropped. -/
theorem witness_PrepareFits :
    fitPlan.items[1]? = some { item0 with clip := 2 } ∧ fitDir.usable 1 ⟨0, 0⟩ = true ∧ fitDir.usable 9 ⟨0, 0⟩ = false ∧
      (fit { fitPlan with items := [{ item0 with clip := 9, substitute := 1, length := .short }, { item0 with clip := 9 }] } fitDir ⟨0, 0⟩ 0).map
        (fun e => (e.clip, e.effective, e.flags.substituted, e.flags.shortAbsent, e.status)) =
        [(1, some 1440000, true, true, .pending), (9, none, false, false, .skipped .absent)] ∧
      ((fit fitPlan fitDir ⟨0, 0⟩ 60000).any fun e => e.status == .skipped .dropped) = true ∧ 60000 ≠ 0 := by decide +kernel

/-- R17: after the PREPARE the region is PRIMED, its slot IN_USE, and its home voice PRIMING from position 0. -/
theorem test_prepare :
    let p := ((withCue .prepare (onAir idlePlay 0)).dispatch 0 (cue0 .prepare)).play
    (p.region 0).state = .primed ∧ (p.slot 0 0).state = .inUse ∧ (p.voice 0).state = .priming ∧ (p.voice 0).clip = some 5 ∧
      (p.region 0).armDeadline = some 1440000 := by decide +kernel

/-- A region in LEADIN that waits for its READY home voice. -/
def awaitingLeadIn (run : List RunEntry) : Play :=
  airing { inState .leadin none { break0 run with leadInStart := none } with bed := .still 231 } (ready 0)

theorem witness_LeadInStartRecords :
    let s := onAir (awaitingLeadIn [entry 0 5 .pending]) 0
    s.assembling = true ∧ s.play.leadInDue s.now 0 = true ∧ (s.play.region 0).brk.isSome = true ∧
      s.play.linkedTo 0 (entry 0 5 .pending) = none ∧
      (onAir (awaitingLeadIn []) 0).play.leadInDue (onAir (awaitingLeadIn []) 0).now 0 = true := by decide +kernel

/-- R25: the lead-in begins on the home voice with the bed ramping to 0 over 100 ms. -/
theorem test_lead_in :
    let p := (onAir (awaitingLeadIn [entry 0 5 .pending]) 0).play.leadInStart (onAir (awaitingLeadIn [entry 0 5 .pending]) 0).now 0
    (p.region 0).state = .leadin ∧ (p.region 0).bed = (Fader.still 231).begin 0 100 ∧ (p.voice 0).state = .playing := by
  decide +kernel

/-- An armed region whose deadline is at sample 0. -/
def armed : Play :=
  airing { inState .primed none { break0 [entry 0 5 .pending] with split := none, timerRuns := false, leadInStart := none, deadline := none } with
    armDeadline := some 0, bed := .still 231 } (ready 0)

theorem witness_ArmExpiryDisarms :
    let s := onAir armed 0
    s.assembling = true ∧ s.play.armDue s.now 0 = true ∧ s.armSetAside 0 = false ∧ (s.play.region 0).brk.isSome = true ∧
      (s.play.slot 0 0).plan = some plan0 ∧ s.play.agent.noticeRoom = true := by decide +kernel

/-- R19: the region is back in NETWORK, the slot READY, and ARM_EXPIRED stands in the return queue. -/
theorem test_arm_expiry :
    let p := armed.armExpire (onAir armed 0).now 0
    (p.region 0).state = .network ∧ (p.slot 0 0).state = .ready ∧
      p.agent.returns.map QueueEntry.payload = [.notice (.armExpired 0 9 0)] := by decide +kernel

/-- A region whose break deadline is at sample 0. -/
def overdue (st : RegionState) : Play :=
  airing (inState st (some 0) { break0 [entry 0 5 .playing, entry 1 6 .pending] with deadline := some 0 }) (playing 0 1000)

theorem witness_BreakExpiryEnds :
    let s := fun st => onAir (overdue st) 0
    (s .localPlay).assembling = true ∧ (s .localPlay).play.breakDue (s .localPlay).now 0 = true ∧
      ((s .localPlay).play.region 0).brk.isSome = true ∧
      ((s .localPlay).play.region 0).state ∈ [RegionState.leadin, .localPlay, .gated, .fill] ∧
      0 < ((s .localPlay).play.heldPlan 0 (break0 [])).leadOutMs ∧ ((s .localPlay).play.region 0).bed.level ≠ 231 ∧
      (s .leadout).play.breakDue (s .leadout).now 0 = true ∧ (break0 []).closing = false ∧
      (s .returned).play.breakDue (s .returned).now 0 = true := by decide +kernel

/-- The same region with its bed at 231 already and its home voice given. -/
def overdueAtUnity (v : Voice) : Play := ((overdue .localPlay).modRegion 0 fun x => { x with bed := .still 231 }).setVoice 0 v

/-- A bed at 231 with no voice playing, and with one that ramps out; a REJOIN of the break at the same sample. -/
theorem witness_BreakExpiryAtUnity :
    let a := onAir (overdueAtUnity (Voice.idle (some 0))) 5
    let b := onAir (overdueAtUnity (playing 0 1000)) 5
    a.play.breakDue a.now 0 = true ∧ a.rejoinDue 0 = false ∧ ((break0 []).bedBefore 5 (a.play.region 0).bed).level = 231 ∧
      (∀ v ∈ a.play.voicesOf 0, (a.play.voice v).state ≠ .playing) ∧ b.play.breakDue b.now 0 = true ∧ 0 ∈ b.play.voicesOf 0 ∧
      (b.play.voice 0).itemEndDue = false ∧ (b.play.voice 0).startedAt ≠ some b.link.count ∧ (b.play.voice 0).fader.level ≠ 0 ∧
      (break0 []).before = none ∧
      (withCue .rejoin (onAir (overdueAtUnity { playing 0 1000 with startedAt := none }) 0)).dueCue 0 = some (cue0 .rejoin) := by
  decide +kernel

/-- R30: with the bed at 231 and nothing playing the break closes with TIMEOUT; a voice that plays ramps out first. -/
theorem test_expiry_at_unity :
    let ended := fun v => (overdueAtUnity v).breakEnd (onAir (overdueAtUnity v) 5).now 0 .timeout false
    ((ended (Voice.idle (some 0))).region 0).state = .network ∧ ((ended (playing 0 1000)).region 0).state = .leadout ∧
      ((ended (playing 0 1000)).voice 0).releaseAtRampEnd = true := by decide +kernel

/-- A REJOIN of the same sample still to come, and a lead-out duration of 0. -/
theorem witness_BreakExpiryMeetsRejoin :
    (withCue .rejoin (onAir (overdue .localPlay) 0)).rejoinDue 0 = true ∧
      (withCue .rejoin (onAir (overdue .localPlay) 0)).play.breakDue (onAir (overdue .localPlay) 0).now 0 = true ∧
      (((overdue .localPlay).setSlot 0 0 ⟨.inUse, some { plan0 with leadOutMs := 0 }⟩).heldPlan 0 (break0 [])).leadOutMs = 0 := by
  decide +kernel

/-- R31: the REJOIN amends a TIMEOUT of its own sample, and the break closes with REJOIN_CUE where nothing is left to ramp. -/
theorem test_rejoin_amends :
    let t := (onAir (overdue .localPlay) 5).now
    let p := airing { inState .leadin none (break0 [entry 0 5 .pending]) with bed := .still 231 } (Voice.idle (some 0))
    let q := (p.breakEnd t 0 .timeout true).breakEnd t 0 .rejoinCue false
    (q.region 0).state = .network ∧ (q.log.records.getLast?.map fun x => x.body) =
      some (.brk ⟨0, 9, ⟨0, 0⟩, ⟨0, 0⟩, .rejoinCue, 0, 0, 1⟩) := by decide +kernel

/-- R22, R31, R32: TIMEOUT begins the lead-out; the PENDING entry is TRIMMED with a record, and the voice ramps out. -/
theorem test_break_expiry :
    let p := (overdue .localPlay).breakEnd (onAir (overdue .localPlay) 5).now 0 .timeout false
    (p.region 0).state = .leadout ∧ p.log.records.length = 1 ∧ (p.voice 0).releaseAtRampEnd = true ∧
      (p.region 0).bed = (Fader.still 0).begin 231 100 := by decide +kernel

/-- A fader with a completed ramp at a level. -/
def arrivedAt (level : Nat) : Fader := ⟨level, some ⟨level, 1, 0, 0⟩⟩

/-- A region in LEADIN with its bed ramp complete. -/
def ledIn : Play := airing { inState .leadin (some 0) (break0 [entry 0 5 .playing]) with bed := arrivedAt 0 } (playing 0 1000)

/-- A region whose voice has completed a ramp. -/
def rampedOut (release : Bool) : Play :=
  airing (inState .leadout (some 0) { break0 [entry 0 5 .playing] with closing := true })
    { playing 0 1000 with fader := arrivedAt 0, releaseAtRampEnd := release }

theorem witness_RampCompletion :
    (onAir ledIn 5).assembling = true ∧ ((onAir ledIn 5).play.region 0).bed.complete = true ∧
      ((onAir ledIn 5).play.region 0).state = .leadin ∧
      (∀ b, ((onAir (rampedOut b) 5).play.voice 0).holder = some 0 ∧ ((onAir (rampedOut b) 5).play.voice 0).state = .playing ∧
        ((onAir (rampedOut b) 5).play.voice 0).fader.complete = true ∧
        ((onAir (rampedOut b) 5).play.voice 0).releaseAtRampEnd = b ∧
        ((onAir (rampedOut b) 5).play.voicesInRunOrder 0).head? = some 0 ∧
        ((onAir (rampedOut b) 5).play.voice 0).itemEndDue = false) := by decide +kernel

/-- A region in lead-out with its bed ramp complete, and one that plays with a completed bed ramp. -/
def ledOut (closing : Bool) (v : Voice) : Play :=
  airing { inState .leadout (some 0) { break0 [entry 0 5 .done] with closing := closing } with bed := arrivedAt 231 } v

theorem witness_RampCompletionOfBed :
    (∀ b, ((onAir (ledOut b (Voice.idle (some 0))) 5).play.region 0).bed.complete = true ∧
      ((ledOut b (Voice.idle (some 0))).region 0).state = .leadout ∧
      ∀ v ∈ (ledOut b (Voice.idle (some 0))).voicesOf 0, ((ledOut b (Voice.idle (some 0))).voice v).active = false) ∧
      ((ledOut true (playing 0 9)).voice 0).active = true ∧ 0 ∈ (ledOut true (playing 0 9)).voicesOf 0 ∧
      ((airing { inState .localPlay (some 0) (break0 []) with bed := arrivedAt 0 } (playing 0 9)).region 0).bed.complete = true := by
  decide +kernel

/-- R33, R71: the last release ramp of a closing lead-out with the bed at rest closes the break: an ITEM and a BREAK record. -/
theorem test_release_closes :
    let p := (rampedOut true).voiceRampEnd (onAir (rampedOut true) 5).now 0 0
    (p.region 0).state = .network ∧ p.log.records.length = 2 ∧ (p.voice 0).state = .idle := by decide +kernel

/-- A region in LEADOUT with a bed, whose lead voice on the pool and outgoing home voice both complete a release ramp. -/
def bothOut (closing : Bool) (bed : Fader) : Play :=
  let v := fun i => { playing i 1000 with fader := arrivedAt 0, releaseAtRampEnd := true }
  (airing { inState .leadout (some 24) { break0 [entry 0 5 .playing, entry 1 6 .playing] with closing := closing } with
    pool := some 24, bed := bed } (v 0)).setVoice 24 { v 1 with holder := some 0 }

/-- A release ramp that ends: of a voice alone, closing and not, with the bed at rest and on its way; and of two voices. -/
theorem witness_RampCompletionReleases :
    (rampedOut true).voicesOf 0 = [0] ∧ ((rampedOut true).voice 0).releaseDue = true ∧
      ((rampedOut true).voice 0).itemEndDue = false ∧ ((rampedOut true).voice 0).run = some 0 ∧
      findEntry [entry 0 5 .playing] 0 = some (entry 0 5 .playing) ∧
      ((rampedOut true).voicesInRunOrder 0).takeWhile (· != (0 : VoiceNo)) = [] ∧
      ((rampedOut true).region 0).state = .leadout ∧ ((rampedOut true).region 0).bed.ramp = none ∧
      ((bothOut false ((Fader.still 0).begin 231 100)).region 0).bed.ramp ≠ none ∧
      (bothOut true (.still 231)).voicesInRunOrder 0 = [0, 24] ∧
      (∀ v ∈ [(0 : VoiceNo), 24], ((bothOut true (.still 231)).voice v).releaseDue = true ∧
        ((bothOut true (.still 231)).voice v).itemEndDue = false) ∧ ((bothOut true (.still 231)).voice 24).run = some 1 := by
  decide +kernel

/-- R32, R149: the completion taken for the second voice releases both, and their AIRED_TRIMMED records stand in run order. -/
theorem test_two_releases :
    let p := (bothOut false ((Fader.still 0).begin 231 100)).voiceRampEnd (onAir (bothOut false (.still 0)) 5).now 0 24
    (p.voice 0).active = false ∧ (p.voice 24).active = false ∧
      (p.log.records.map fun x => match x.body with | .item y => (y.run, y.outcome) | _ => (9, .airedFull)) =
        [(0, .airedTrimmed), (1, .airedTrimmed)] := by decide +kernel

/-- The lead voice at its item end with entry 1 staged. -/
def ending : Play :=
  airing (inState .localPlay (some 0) { break0 [entry 0 5 .playing, entry 1 6 .pending] with prep := .staged })
    { playing 0 0 with successor := some ⟨⟨6, .s16, 0, 1281, 0, 96000, 231, 1, false, some 1⟩, false⟩ }

/-- An outgoing voice at its item end, the pool voice leading. -/
def outgoing : Play :=
  (airing { inState .localPlay (some 24) (break0 [entry 0 5 .playing, entry 1 6 .playing]) with pool := some 24 } (playing 0 0)).setVoice 24
    (playing 1 5000)

theorem witness_ItemEndCloses :
    let s := onAir ending 7
    let o := onAir outgoing 7
    s.assembling = true ∧ (s.play.voice 0).holder = some 0 ∧ (s.play.voice 0).itemEndDue = true ∧
      (s.play.voicesInRunOrder 0).head? = some 0 ∧ (s.play.region 0).brk.isSome = true ∧ (s.play.voice 0).run = some 0 ∧
      (s.play.region 0).lead = some 0 ∧ (s.play.voice 0).successor.isSome = true ∧
      s.play.linkedTo 0 (entry 1 6 .pending) = none ∧ (o.play.voice 0).itemEndDue = true ∧
      (o.play.voicesInRunOrder 0).head? = some 0 ∧ (o.play.region 0).lead ≠ some 0 ∧ (o.play.region 0).state = .localPlay := by
  decide +kernel

/-- The successor held for gate 0, the filler staged, and the run list exhausted. -/
theorem witness_ItemEndEnds :
    let e := { entry 1 6 .pending with link := some 0 }
    let h := ending.setGate 0 (gate0 .closed)
    let x := airing (inState .localPlay (some 0) (break0 [entry 0 5 .playing, entry 1 6 .done])) (playing 0 0)
    h.linkedTo 0 e = some 0 ∧ e.index ≠ (entry 0 5 .playing).index ∧ findEntry [entry 0 5 .playing, e] 1 = some e ∧
      (x.region 0).lead = some 0 ∧ (x.voice 0).successor = none ∧ (x.voice 0).itemEndDue = true ∧
      (∀ u ∈ x.voicesOf 0, u ≠ 0 → (x.voice u).active = false) ∧ 0 < (x.heldPlan 0 (break0 [])).leadOutMs ∧
      (x.region 0).bed.level ≠ 231 ∧ (∀ k, (break0 []).logged = some k → k.count ≠ 7) := by decide +kernel

/-- R29: with the run list exhausted the early-network lead-out begins, the break open. -/
theorem test_exhausted :
    let x := airing (inState .localPlay (some 0) (break0 [entry 0 5 .playing, entry 1 6 .done])) (playing 0 0)
    let p := x.itemEnd (onAir x 7).now 0 0
    (p.region 0).state = .leadout ∧ (p.region 0).bed = (Fader.still 0).begin 231 100 ∧
      ((p.region 0).brk.map fun b => (b.closing, b.endCause)) = some (false, none) := by decide +kernel

/-- R64: the successor plays from this sample, and one ITEM record stands in the log. -/
theorem test_item_end :
    let p := ending.itemEnd (onAir ending 7).now 0 0
    (p.voice 0).clip = some 6 ∧ (p.voice 0).pos = 0 ∧ (p.voice 0).state = .playing ∧ p.log.records.length = 1 := by decide +kernel

/-- An outgoing voice at its item end that entry 2 waits for, its read in flight or not. -/
def awaited (reading : Bool) : Play :=
  (airing { inState .localPlay (some 24) { break0 [entry 0 5 .playing, entry 1 6 .playing, mixEntry 2 5] with prep := .awaiting 0 } with
    pool := some 24 } { playing 0 0 with pending := if reading then some ⟨⟨.current, 88, 729⟩, true⟩ else none }).setVoice 24 (playing 1 5000)

/-- A region in LEADOUT whose voice is at its item end. -/
def endingInLeadOut (closing : Bool) (bed : Fader) : Play :=
  airing { inState .leadout (some 0) { break0 [entry 0 5 .playing] with closing := closing } with bed := bed } (playing 0 0)

/-- The outgoing home voice and the lead pool voice at their item ends together, entry 2 staged. -/
def bothEnding : Play :=
  (airing { inState .localPlay (some 24)
      { break0 [entry 0 5 .playing, entry 1 6 .playing, entry 2 5 .pending] with prep := .staged } with pool := some 24 } (playing 0 0)).setVoice
    24 { playing 1 0 with successor := some ⟨⟨5, .s16, 0, 641, 0, 96000, 231, 1, false, some 2⟩, false⟩ }

/-- An awaited voice, idle and reading; a lead-out that runs on and one that is complete, closing and not; two item ends. -/
theorem witness_ItemEndOthers :
    (∀ b, ((awaited b).voice 0).itemEndDue = true ∧ ((awaited b).voice 0).reading = b ∧ 0 ∈ (awaited b).voicesOf 0 ∧
      ((awaited b).region 0).lead ≠ some 0 ∧ ((awaited b).voicesInRunOrder 0).takeWhile (· != (0 : VoiceNo)) = []) ∧
      nextPending [entry 0 5 .playing, entry 1 6 .playing, mixEntry 2 5] = some (mixEntry 2 5) ∧
      (∀ b, ∀ bed ∈ [Fader.still 231, (Fader.still 0).begin 231 100], ((endingInLeadOut b bed).voice 0).itemEndDue = true ∧
        ((endingInLeadOut b bed).voice 0).successor = none ∧ ((endingInLeadOut b bed).region 0).lead = some 0 ∧
        ((endingInLeadOut b bed).region 0).state = .leadout) ∧
      bothEnding.voicesInRunOrder 0 = [0, 24] ∧ (∀ v ∈ [(0 : VoiceNo), 24], (bothEnding.voice v).itemEndDue = true) ∧
      (bothEnding.region 0).lead = some 24 ∧ bothEnding.linkedTo 0 (entry 2 5 .pending) = none := by decide +kernel

/-- R67: the voice that ends its item is primed with the entry that waits for it, and is its incoming voice. -/
theorem test_awaited_item_end :
    let after := fun b => (awaited b).itemEnd (onAir (awaited b) 7).now 0 0
    ((after false).voice 0).state = .priming ∧ ((after false).voice 0).run = some 2 ∧ ((after true).voice 0).state = .releasing ∧
      ((after true).voice 0).waiting.map Prime.run = some (some 2) ∧
      ∀ b, ((after b).region 0).brk.map OpenBreak.prep = some (.incoming 0) := by decide +kernel

/-- R32, R33: the item end that completes a lead-out goes to RETURNED, or closes a closing break. -/
theorem test_lead_out_item_end :
    let after := fun b bed => (endingInLeadOut b bed).itemEnd (onAir (endingInLeadOut b bed) 7).now 0 0
    ((after false (.still 231)).region 0).state = .returned ∧ ((after true (.still 231)).region 0).state = .network ∧
      ((after true (.still 231)).log.records.length) = 2 ∧
      ((after true ((Fader.still 0).begin 231 100)).region 0).state = .leadout := by decide +kernel

/-- R149: taken for the second voice, the item end takes the first before it; the second plays the staged entry on. -/
theorem test_two_item_ends :
    let p := (ran (.itemEnd 24) (onAir bothEnding 7)).play
    (p.voice 0).active = false ∧ (p.voice 24).run = some 2 ∧ (p.voice 24).state = .playing ∧
      (p.log.records.map fun x => match x.body with | .item y => y.run | _ => 9) = [0, 1] := by decide +kernel

/-- A filler that loops, at its end. -/
def looping : Play := airing (inState .fill (some 0) (break0 [])) { playing 0 0 with loop := true, run := none }

theorem witness_LoopWrapRestarts :
    (onAir looping 3).assembling = true ∧ ((onAir looping 3).play.voice 0).state = .playing ∧
      ((onAir looping 3).play.voice 0).loop = true ∧
      ((onAir looping 3).play.voice 0).endPos ≤ ((onAir looping 3).play.voice 0).pos := by decide +kernel

theorem test_loop_wrap : (playing 0 0).wrap.pos = 0 := by decide +kernel

/-- A region in GATED with what it waits for. -/
def gatedPlay (prep : Prep) (opening : Option LinkGroup) : Play :=
  airing { inState .gated (some 0) { break0 [entry 0 5 .pending] with prep := prep } with opening := opening } (ready 0)

/-- A region in FILL with the filler primed after a skip. -/
def fillPlay : Play := airing (inState .fill (some 0) { break0 [] with prep := .fillerAfterSkip }) (ready 0)

theorem witness_HeldAndFillerStarts :
    (onAir (gatedPlay .none (some 2)) 0).assembling = true ∧
      (onAir (gatedPlay .none (some 2)) 0).play.openingDue (onAir (gatedPlay .none (some 2)) 0).now 0 2 = true ∧
      (onAir (gatedPlay .afterSkip none) 0).play.primedDue (onAir (gatedPlay .afterSkip none) 0).now 0 = true ∧
      (onAir fillPlay 0).play.fillerDue (onAir fillPlay 0).now 0 = true ∧ ((onAir fillPlay 0).play.region 0).lead = some 0 := by
  decide +kernel

/-- R97: the held entry plays from the opening, the bed cut to 0. -/
theorem test_gate_opening :
    let p := (gatedPlay .none (some 2)).openRegions (onAir (gatedPlay .none (some 2)) 0).now 2
    (p.region 0).state = .localPlay ∧ (p.region 0).bed = .still 0 ∧ (p.voice 0).state = .playing := by decide +kernel

theorem test_filler_start : (fillPlay.fillerStart (onAir fillPlay 0).now 0).voice 0 = (ready 0).start 0 0 := by decide +kernel

/-- A region at the request point of its MIX entry: 24,000 + 9,600 samples left. -/
def requesting (lead : VoiceNo) (pool : Option VoiceNo) : Play :=
  ((airing { inState .localPlay (some lead) (break0 [entry 0 5 .playing, mixEntry 1 6]) with pool := pool } (Voice.idle (some 0))).setVoice
    24 { Voice.idle none with holder := pool.map fun _ => 0 }).setVoice lead (playing 0 33600)

/-- On-air blocks with every pool voice held. -/
def poolHeld (p : Play) : Play :=
  [24, 25, 26, 27, 28, 29, 30, 31].foldl (fun q v => q.setVoice v { Voice.idle (some 1) with state := .ready }) p

/-- A region whose waiting entry has reached its decision point. -/
def deciding : Play :=
  { poolHeld (airing (inState .localPlay (some 0) { break0 [entry 0 5 .playing, mixEntry 1 6] with prep := .waiting }) (playing 0 28800))
      with waiters := [⟨0, 1, 0⟩] }

theorem witness_PoolRequestAndDecision :
    (onAir (requesting 0 none) 0).assembling = true ∧ (onAir (requesting 0 none) 0).play.requestDue 0 = true ∧
      ((onAir (requesting 0 none) 0).play.moving 0).isSome = true ∧ ((requesting 0 none).region 0).pool = none ∧
      (requesting 0 (some 24)).requestDue 0 = true ∧ ((requesting 0 (some 24)).voice 24).state = .idle ∧
      (((requesting 0 (some 24)).setVoice 24 (playing 0 9)).voice 24).state = .playing ∧
      (requesting 24 (some 24)).requestDue 0 = true ∧ ((requesting 24 (some 24)).voice (homeVoice 0)).state = .idle ∧
      (onAir deciding 0).play.decisionDue (onAir deciding 0).now 0 = true ∧ (deciding.requests (onAir deciding 0).now).wouldBeGranted 0 = false ∧
      (deciding.moving 0).isSome = true := by decide +kernel

/-- R67: the decision point lies 4,800 samples before the mix start: 33,600 − 24,000 − 4,800 samples on. -/
theorem test_pool_request : ((requesting 0 none).request (onAir (requesting 0 none) 0).now 0).waiters = [⟨0, 1, 4800⟩] := by
  decide +kernel

/-- R67: with the mix start at or before the request sample the decision point is that sample, 10,000; one sample later it lies 4,800
before the mix start, so before the request sample. -/
theorem test_decision_point :
    let t : Now := ⟨10000, ⟨0, 0⟩, ⟨0, 0⟩, [], 0, false⟩
    [24000, 24001, 28800, 33600].map (fun left => decisionPoint t left 24000) = [10000, 5201, 10000, 14800] := by decide +kernel

/-- The same waiting entry, with a free pool voice. -/
def decidingFree : Play := deciding.setVoice 31 (Voice.idle none)

theorem witness_DecisionGranted :
    (onAir decidingFree 0).assembling = true ∧ (onAir decidingFree 0).play.decisionDue (onAir decidingFree 0).now 0 = true ∧
      (decidingFree.requests (onAir decidingFree 0).now).wouldBeGranted 0 = true ∧
      ({ onAir decidingFree 0 with midSample := true } : State).quiet = true ∧ (∀ q, (decidingFree.region q).arriving = none) ∧
      (∀ q, decidingFree.requestDue q = false) ∧ decidingFree.wouldBeGranted 0 = true ∧ decidingFree.waiters = [⟨0, 1, 0⟩] ∧ (decidingFree.region 0).brk.isSome = true ∧
      findEntry [entry 0 5 .playing, mixEntry 1 6] 1 = some (mixEntry 1 6) := by decide +kernel

/-- R68: at the decision point the free voice is granted, and is being primed with the entry. -/
theorem test_decision_granted :
    let p := (ran (.decisionPoint 0) (onAir decidingFree 0)).play
    (p.voice 31).holder = some 0 ∧ (p.voice 31).state = .priming ∧ (p.voice 31).run = some 1 ∧ p.waiters = [] := by decide +kernel

/-- Region 1's entry at its decision point, a free pool voice, and region 0 at a late request point whose decision point is no later. -/
def overtaken : State :=
  let b := { break0 [entry 0 5 .playing, mixEntry 1 6] with prep := .waiting }
  let p := ((((decidingFree.modRegion 0 fun x => { x with brk := x.brk.map fun b => { b with prep := .none } }).setSlot 1 0
    ⟨.inUse, some plan0⟩).setRegion 1 (inState .localPlay (some 1) b)).setVoice 1 { playing 0 28800 with holder := some 1 })
  onAir { p.setVoice 0 (playing 0 20000) with waiters := [⟨1, 1, 0⟩] } 0

/-- R68: the free voice goes to region 0, whose request of the sample stands first, though region 1's decision point is taken before;
R69: region 1's entry is then degraded. -/
theorem test_requests_before_decision :
    let t := ran (.decisionPoint 1) overtaken
    (overtaken.play.wouldBeGranted 1) = true ∧ (t.play.voice 31).holder = some 0 ∧ t.play.waiters = [] ∧
      ((t.play.voice 1).successor.map fun u => u.prime.run) = some (some 1) := by decide +kernel

/-- The same waiting entry, with a pool voice of region 1 that is RELEASING, its read in flight. -/
def returning : State :=
  { onAir (((deciding.setRegion 1 { RegionRec.reset with pool := some 24 }).setVoice 24
      { Voice.idle (some 1) with state := .releasing, pending := some ⟨⟨.current, 0, 641⟩, true⟩ })) 0 with
    inFlight := some ⟨.voice 24, 641, 10⟩ }

/-- R68: the voice that the delivery returns is granted at once. -/
theorem test_return_by_delivery :
    let p := (ran (.readDelivery [] [] []) returning).play
    (p.voice 24).holder = some 0 ∧ (p.voice 24).state = .priming ∧ p.waiters = [] := by decide +kernel

/-- R68: so is the voice that Force Network returns. -/
theorem test_return_by_force_network :
    let p := deciding.setRegion 1 { inState .localPlay (some 24) (break0 []) with pool := some 24 }
    let q := (ran (.forceNetwork (some 1)) (asked { State.reset with play := p } (msg 0x12))).play
    (q.voice 24).holder = some 0 ∧ (q.voice 24).state = .priming ∧ (q.region 1).state = .bypass := by decide +kernel

/-- R69: the entry is staged as a CUT at its own level. -/
theorem test_decision :
    ((deciding.degrade 0).voice 0).successor.map (fun u => (u.prime.clip, u.prime.level, u.held)) = some (6, 231, false) ∧
      (deciding.degrade 0).waiters = [] := by decide +kernel

/-- A region at its mix start, its incoming voice in a state. -/
def mixing (st : VoiceState) : Play :=
  (airing { inState .localPlay (some 0) { break0 [entry 0 5 .playing, mixEntry 1 6] with prep := .incoming 24 } with pool := some 24 }
    (playing 0 24000)).setVoice 24 { ready 1 with state := st }

/-- A late mix, with the outgoing voice playing or gone. -/
def lateMix (lead : Option VoiceNo) : Play :=
  (airing { inState .localPlay lead { break0 [entry 0 5 .playing, mixEntry 1 6] with prep := .incoming 24, mixLate := true } with
    pool := some 24 } (playing 0 4800)).setVoice 24 (ready 1)

theorem witness_MixesStart :
    (onAir (mixing .ready) 9).assembling = true ∧ (mixing .ready).mixDue 0 = true ∧ ((mixing .ready).moving 0).isSome = true ∧
      (mixing .priming).mixDue 0 = true ∧ ((mixing .priming).voice 24).state ≠ .ready ∧
      (lateMix (some 0)).lateMixDue (onAir (lateMix (some 0)) 0).now 0 = true ∧
      ((lateMix (some 0)).voice 0).pos < ((lateMix (some 0)).voice 0).endPos ∧
      (lateMix none).lateMixDue (onAir (lateMix none) 0).now 0 = true ∧ ((lateMix none).region 0).lead = none := by decide +kernel

/-- R66: the crossfade is over 500 ms both ways. -/
theorem test_mix_start :
    let p := (mixing .ready).mixStart (onAir (mixing .ready) 9).now 0
    (p.region 0).lead = some 24 ∧ (p.voice 24).fader = (Fader.still 0).begin 231 500 ∧
      (p.voice 0).fader = (Fader.still 231).begin 0 500 := by decide +kernel

/-- R70: with 4,800 samples left the late crossfade is over 100 ms. -/
theorem test_late_mix :
    (((lateMix (some 0)).lateMixStart (onAir (lateMix (some 0)) 0).now 0).voice 24).fader = (Fader.still 0).begin 231 100 := by
  decide +kernel

/-- The end of a period with that gate. -/
def atGate (st : GateState) : State := onAir ((Play.reset 0).setGate 0 (gate0 st)) 48

theorem witness_GateBoundaries :
    (atGate .waiting).sample = 48 ∧ (atGate .waiting).play.gateDeadlineDue (atGate .waiting).now 0 = true ∧
      (atGate .waiting).play.agent.noticeRoom = true ∧ (atGate .opened).play.joinDeadlineDue (atGate .opened).now 0 = true ∧
      inMask (gate0 .opened).expected 1 = true ∧ ((gate0 .opened).arrived.any fun a => a.1 == 1) = false := by decide +kernel

/-- R99: region 1 enters the missed set with break 9. -/
theorem test_join_deadline : (gate0 .opened).close.missed = [(1, 9)] := by decide +kernel

/-- A warm split of the armed region. -/
def splitting : State := withCue .split (onAir armed 0)

theorem witness_WarmSplitSetsTimer :
    splitting.assembling = true ∧ splitting.dueCue 0 = some (cue0 .split) ∧ (splitting.play.region 0).state = .primed ∧
      (splitting.play.region 0).brk.isSome = true ∧ splitting.play.openId 0 = 9 := by decide +kernel

/-- The armed region in gate 0's mask, with its run list and home voice given. -/
def armedWith (run : List RunEntry) (v : Voice) : Play :=
  ((armed.modRegion 0 fun x => { x with brk := x.brk.map fun b => { b with run := run } }).setVoice 0 v).setGate 0 (gate0 .closed)

/-- A voice of region 0 whose priming waits for its read. -/
def delayed : Voice :=
  { Voice.idle (some 0) with
    state := .releasing, pending := some ⟨⟨.current, 0, 641⟩, true⟩
    waiting := some ⟨5, .s16, 0, 641, 0, 96000, 0, 1, false, some 0⟩ }

/-- A warm split with the home voice READY with an entry, linked or not, and with the filler; PRIMING; with a priming that waits; and
with nothing primed. -/
theorem witness_WarmSplitLeadIn :
    let e := { entry 0 5 .pending with link := some 0 }
    (∀ p ∈ [armedWith [entry 0 5 .pending] (ready 0), armedWith [e] (ready 0), armedWith [] (ready 0),
        armedWith [entry 0 5 .pending] { ready 0 with state := .priming }, armedWith [entry 0 5 .pending] delayed,
        armedWith [] (Voice.idle (some 0))],
      (withCue .split (onAir p 0)).assembling = true ∧ (withCue .split (onAir p 0)).dueCue 0 = some (cue0 .split) ∧
        (p.region 0).state = .primed ∧ p.openId 0 = 9) ∧
      (armedWith [e] (ready 0)).linkedTo 0 e = some 0 ∧ (armedWith [entry 0 5 .pending] (ready 0)).linkedTo 0 (entry 0 5 .pending) = none ∧
      delayed.active = false ∧ delayed.waiting.isSome = true ∧ (Voice.idle (some 0)).waiting = none := by decide +kernel

/-- R21, R25, R96: what the lead-in of each begins: the entry, the held entry in GATED, the filler, nothing yet, RETURNED. -/
theorem test_warm_split_lead_in :
    let after := fun run v => ((armedWith run v).onCue (onAir armed 0).now 0 (cue0 .split) 0).region 0
    ((after [entry 0 5 .pending] (ready 0)).state, (after [{ entry 0 5 .pending with link := some 0 }] (ready 0)).state,
      (after [] (ready 0)).state, (after [entry 0 5 .pending] { ready 0 with state := .priming }).state,
      (after [entry 0 5 .pending] delayed).state, (after [] (Voice.idle (some 0))).state) =
      (.leadin, .gated, .fill, .leadin, .leadin, .returned) ∧
    (after [entry 0 5 .pending] { ready 0 with state := .priming }).bed = .still 231 := by decide +kernel

/-- A cold split, and cues that meet an open break: the armed ID, another ID, a running state, and every state of a break end. -/
theorem witness_WarmSplitCues :
    (armed.region 0).brk.map (fun b => b.run.map RunEntry.index) = some [0] ∧
      (withCue .split (onAir idlePlay 0)).dueCue 0 = some (cue0 .split) ∧ (idlePlay.region 0).state = .network ∧
      idlePlay.findPlan 0 9 = some 0 ∧ (idlePlay.voice (homeVoice 0)).state = .idle ∧ (idlePlay.voice (homeVoice 0)).waiting = none ∧
      (withCue .prepare (onAir armed 0)).dueCue 0 = some (cue0 .prepare) ∧ (armed.region 0).state = .primed ∧ armed.openId 0 = 9 ∧
      ({ onAir armed 0 with cues := { CueUnit.reset with table := [{ cue0 .split with breakId := 8 }] } } : State).dueCue 0 =
        some { cue0 .split with breakId := 8 } ∧
      (∀ st ∈ [RegionState.localPlay, .leadout, .returned], ((overdue st).region 0).state = st ∧ (overdue st).openId 0 = 9 ∧
        (withCue .rejoin (onAir (overdue st) 0)).dueCue 0 = some (cue0 .rejoin)) ∧
      (withCue .cancel (onAir armed 0)).dueCue 0 = some (cue0 .cancel) := by decide +kernel

/-- R19: a REJOIN in PRIMED disarms with CUE_SEQUENCE; a CANCEL disarms alone. -/
theorem test_rejoin_in_primed :
    let t := (onAir armed 0).now
    ((armed.onCue t 0 (cue0 .rejoin) 0).region 0).state = .network ∧
      (armed.onCue t 0 (cue0 .rejoin) 0).agent.returns.map QueueEntry.payload =
        [.notice (.cueSequence 0 .rejoin 9 ⟨0, 0⟩ .primed 9 ⟨0, 0⟩)] ∧
      (armed.onCue t 0 (cue0 .cancel) 0).agent.returns = [] := by decide +kernel

/-- R23: a cold split goes to LEADIN with its home voice PRIMING. -/
theorem test_cold_split :
    let p := idlePlay.onCue (onAir idlePlay 0).now 0 (cue0 .split) 0
    (p.region 0).state = .leadin ∧ (p.voice 0).state = .priming ∧ (p.slot 0 0).state = .inUse := by decide +kernel

/-- On-air blocks of a region in NETWORK whose plan holds one absent clip, with a filler clip. -/
def fillerIdle (filler : Nat) (fill : FillPolicy) : Play :=
  { ((Play.reset 0).setSlot 0 0 ⟨.ready, some { plan0 with fill := fill, items := [{ item0 with clip := 9 }] }⟩).setRegion 0
      { RegionRec.reset with config := { RegionConfig.reset with fillerClip := filler } } with dir := dir0 }

/-- A cold split with every entry skipped: with a usable filler, with one that is not registered, and with early network. -/
theorem witness_WarmSplitFiller :
    let plan : Plan := { plan0 with fill := .filler, items := [{ item0 with clip := 9 }] }
    (∀ n ∈ [5, 7], (withCue .split (onAir (fillerIdle n .filler) 0)).dueCue 0 = some (cue0 .split) ∧
      ((fillerIdle n .filler).region 0).state = .network ∧ (fillerIdle n .filler).findPlan 0 9 = some 0) ∧
      (∀ e ∈ fit plan dir0 ⟨0, 0⟩ 60000, e.status ≠ .pending) ∧ (fillerIdle 5 .filler).dir.usable 5 ⟨0, 0⟩ = true ∧
      (fillerIdle 7 .filler).dir.usable 7 ⟨0, 0⟩ = false := by decide +kernel

/-- R23, R29: the filler is primed, looping at the filler level; with no usable one the region goes to RETURNED. -/
theorem test_filler_split :
    let after := fun n => (fillerIdle n .filler).onCue (onAir idlePlay 0).now 0 (cue0 .split) 0
    ((after 5).region 0).state = .leadin ∧ ((after 5).voice 0).clip = some 5 ∧ ((after 5).voice 0).loop = true ∧
      ((after 7).region 0).state = .returned ∧ ((after 7).voice 0).state = .idle := by decide +kernel

/-- R22, worked: 60,000 ms and the default overrun of 2,000 ms with a lateness of 76 leave 2,975,924 samples to run. -/
theorem test_break_deadline :
    (((break0 []).splitAt ⟨1000, ⟨0, 0⟩, ⟨0, 0⟩, [], 0, false⟩ RegionConfig.reset (cue0 .split) 76).deadline.map fun d => d - 1000) =
      some 2975924 := by decide +kernel

/-! ## Levels and the mix -/

theorem witness_RampFollowsItsSteps :
    (231 - 0) + (0 - 231) ≠ 0 ∧ 500 ≠ 0 ∧ 11536 ≤ max 1 (500 * 48 / 231) * 231 := by decide

/-- The ends of the range over which the gain table rises. -/
theorem witness_ContributionRounds : (1 ≤ 1 ∧ 1 < 255) ∧ (1 ≤ 254 ∧ 254 < 255) ∧ 255 ≤ 255 := by decide

/-- On-air blocks of a region that plays clip 5 in a state, its page in the ring failed or whole. -/
def hearing (st : RegionState) (failed : Bool) : Play :=
  airing (inState st (some 0) (break0 [entry 0 5 .playing]))
    { playing 0 5000 with ring := [⟨⟨.current, 88, 729⟩, programmed [(2, 0x01)], failed⟩] }

/-- A voice that hands a failed page, one that hands a whole one, and one that hands none; a fill sample; a third fault; an open
period at its first and last sample. -/
theorem witness_MixSumsAndClamps :
    let p := hearing .localPlay true
    (p.voicesOf 0).Nodup ∧ p.voicesOf 0 = [0] ∧ (p.voice 0).state = .playing ∧ (p.voice 0).hands = ((0, 0), false, true) ∧
      (p.voice 0).reported = false ∧ (p.voice 0).clip = some 5 ∧ (p.region 0).brk.isSome = true ∧ (p.voice 0).run = some 0 ∧
      ((hearing .localPlay false).voice 0).hands.2 = (false, false) ∧ (playing 0 5000).hands = ((0, 0), true, false) ∧
      ((hearing .fill false).region 0).state = .fill ∧ dir0.find 5 = some (clip0 5 10 .ready) ∧ p.agent.noticeRoom = true ∧
      ({ clip0 5 10 .ready with faults := 2 } : DirEntry).faults = 2 ∧ (onAir p 0).sample < 48 ∧ (onAir p 47).period.isSome = true := by
  decide +kernel

/-- R63, R72: the play position and the samples played rise by 1, and DROPOUT is set on the voice and its entry; R29: a fill sample. -/
theorem test_mix_counts :
    let q := (hearing .localPlay true).mixRegion (onAir (Play.reset 0) 5).now State.reset.levels (0, 0) 0
    (q.voice 0).pos = 91001 ∧ (q.voice 0).dropout = true ∧ ((q.dir.find 5).map fun e => e.faults) = some 1 ∧
      ((q.region 0).brk.map fun b => b.run.map fun e => (e.played, e.flags.dropout)) = some [(1, true)] ∧
      ((((hearing .fill false).mixRegion (onAir (Play.reset 0) 5).now State.reset.levels (0, 0) 0).region 0).brk.map
        fun b => b.fillSamples) = some 1 := by decide +kernel

/-- R110: the third fault takes a READY entry to SUSPECT with its notice. -/
theorem test_third_fault :
    let p := { Play.reset 0 with dir := { dir0 with entries := [{ clip0 5 10 .ready with faults := 2 }] } }
    let q := p.reportFault (onAir p 5).now 5
    ((q.dir.find 5).map fun e => (e.state, e.faults)) = some (.suspect, 3) ∧
      q.agent.returns.map QueueEntry.payload = [.notice (.clipSuspect 5 10 3 0)] := by decide +kernel

theorem witness_AsRunLogBalance :
    AsRunLog.reset.Balanced ∧
      (⟨(List.range 4096).map fun i => ⟨i, .item (itemRecord 0 9 (entry 0 5 .done) ⟨0, 0⟩)⟩, 4096, 0, 0, true⟩ : AsRunLog).Balanced ∧
      AsRunLog.reset.appended.toNat + 1 < 2 ^ 48 := by
  refine ⟨⟨rfl, by decide, fun i x h => by simp [AsRunLog.reset] at h⟩, ⟨by simp, by simp, fun i x h => ?_⟩, by decide⟩
  simp only [List.getElem?_map, Option.map_eq_some_iff] at h
  obtain ⟨a, ha, rfl⟩ := h
  rw [List.getElem?_eq_some_iff] at ha
  obtain ⟨hi, rfl⟩ := ha
  simp at hi ⊢
  omega

/-- The queues after reset are in their bounds. -/
theorem witness_AsRunLogQueues : QueueInv State.reset ∧ ∃ t, step State.reset = .next t :=
  ⟨⟨by decide, by decide, by decide, by decide⟩, _, rfl⟩

/-- On-air blocks whose return queue holds some ARM_EXPIRED notices of region 3, raised at sample 0. -/
def noticed (n : Nat) : Play :=
  { Play.reset 0 with agent := { Agent.reset with returns := List.replicate n ⟨0, 0, .notice (.armExpired 3 9 0), 0⟩ } }

/-- Room for a notice, and none; a last notice that stands behind the new one, and one that does not. -/
theorem witness_AsRunLogNotices :
    (noticed 1).agent.noticeRoom = true ∧ (noticed 24).agent.noticeRoom = false ∧
      (Notice.armExpired 2 9 0).before (.armExpired 3 9 0) = true ∧ (Notice.armExpired 4 9 0).before (.armExpired 3 9 0) = false := by
  decide +kernel

/-- R172: region 2 stands ahead of region 3 and displaces the last notice of a full queue; region 4 finds no room there. -/
theorem test_notice_order :
    let after := fun n r => ((noticed n).raise (onAir (Play.reset 0) 0).now 0 (.armExpired r 9 0)).agent
    (after 1 2).returns.map QueueEntry.payload = [.notice (.armExpired 2 9 0), .notice (.armExpired 3 9 0)] ∧
      (after 24 2).returns.length = 24 ∧ (after 24 2).noticesDropped = true ∧ (after 24 4).returns = (noticed 24).agent.returns ∧
      (after 24 4).noticesDropped = true := by decide +kernel

/-- R149: the record of entry 0 stands before that of entry 1 where both are appended at one sample, the sequences in the order of the log. -/
theorem test_run_order :
    let p := outgoing
    let t := (onAir outgoing 7).now
    let q := (p.appendItem t 0 (itemRecord 0 9 (entry 1 6 .trimmed) ⟨0, 0⟩)).appendItem t 0 (itemRecord 0 9 (entry 0 5 .trimmed) ⟨0, 0⟩)
    q.log.records = [⟨0, .item (itemRecord 0 9 (entry 0 5 .trimmed) ⟨0, 0⟩)⟩, ⟨1, .item (itemRecord 0 9 (entry 1 6 .trimmed) ⟨0, 0⟩)⟩] := by
  decide +kernel

/-! ## The flash array -/

/-- Voice 0 playing with an empty ring and its read asked for. -/
def hungry : State := onAir (airing (inState .localPlay (some 0) (break0 [entry 0 5 .playing])) (playing 0 5000).refill) 0

/-- A relocation that waits for its first copy. -/
def copying : State :=
  storing { Store.reset 0 0 with current := some ⟨.commit 5 7 none, .relocRead ⟨0, [], 0, 0⟩ 0, false, .running, 0⟩ }

theorem witness_ReadStartServesFirst :
    State.reset.inFlight = none ∧ 5 ∈ [1, 2, 3, 4, 5] ∧ 5 ≤ State.reset.openClass ∧ State.reset.firstOf 5 = some ⟨.scan, 0⟩ ∧
      (∀ m ∈ [1, 2, 3, 4, 5], m < 5 → State.reset.firstOf m = none) ∧
      1 ≤ hungry.openClass ∧ (hungry.firstOf 1).map ReadRequest.who = some (.voice 0) ∧
      3 ≤ copying.openClass ∧ copying.firstOf 3 = some ⟨.relocation, 0⟩ ∧ copying.firstOf 1 = none ∧ copying.firstOf 2 = none := by
  decide +kernel

/-- R135: eight flips in a span are corrected, nine are not; and 4,096 is the first bit of the second span. -/
theorem witness_ReadOutcomeBySpans :
    attemptOutcome [0, 1, 2, 3, 4, 5, 6, 4095] = .corrected 8 ∧ attemptOutcome [0, 1, 2, 3, 4, 5, 6, 7, 4095] = .uncorrectable ∧
      attemptOutcome [0, 1, 2, 3, 4, 5, 6, 7, 4096] = .corrected 8 ∧ attemptOutcome [] = .clean := by decide +kernel

/-- The read of the voice in flight. -/
def delivering : State := { hungry with
  inFlight := some ⟨.voice 0, 641 + 88, 11⟩
  play := hungry.play.setVoice 0 { hungry.play.voice 0 with pending := (hungry.play.voice 0).pending.map fun q => { q with inFlight := true } } }

theorem witness_ReadDeliveryJoinsRing :
    delivering.inFlight.isSome = true ∧ (delivering.play.voice 0).pending.isSome = true ∧
      (delivering.play.voice 0).state ≠ .releasing ∧
      ({ delivering.play.voice 0 with pending := none } : Voice).wanted = (delivering.play.voice 0).pending.map PendingRead.ref := by
  decide +kernel

/-- A delivery for a RELEASING voice, with and without a priming that waits, and for a voice that has moved on; six bits corrected. -/
theorem witness_ReadDeliveryMovedOn :
    returning.inFlight.map InFlight.who = some (.voice 24) ∧ (returning.play.voice 24).state = .releasing ∧
      (returning.play.voice 24).pending.isSome = true ∧ (returning.play.voice 24).waiting = none ∧ delayed.waiting.isSome = true ∧
      delayed.pending.isSome = true ∧ ({ playing 0 5000 with pending := none } : Voice).wanted ≠ some ⟨.current, 7, 648⟩ ∧
      (endRead false [0, 1, 2, 3, 4, 5] [] []).outcome = .corrected 6 := by decide +kernel

/-- R136: six corrected bits of a voice's page raise the weak-read count of its clip, five do not. -/
theorem test_weak_read :
    let after := fun a => ((ran (.readDelivery a [] []) delivering).play.dir.find 5).map fun e => e.weak
    after [0, 1, 2, 3, 4, 5] = some 1 ∧ after [0, 1, 2, 3, 4] = some 0 := by decide +kernel

/-- R71, R74: the page is discarded, and the RELEASING voice takes the priming that waits on it. -/
theorem test_delivery_to_releasing :
    let s := { delivering with play := delivering.play.setVoice 0 delayed }
    let p := (ran (.readDelivery [] [] []) s).play
    (p.voice 0).state = .priming ∧ (p.voice 0).ring = [] ∧ (p.voice 0).run = some 0 ∧ (p.voice 0).waiting = none := by decide +kernel

/-- A read that a soft reset has left. -/
theorem witness_ReadDeliveryDiscards : resetting.softReset.inFlight = some ⟨.discarded, 0, 0⟩ := by decide +kernel

/-- The header page of a one-page M16 clip. -/
def headPage (clip : Nat) : PageImage :=
  let magic : List Byte := [0x6C, 0xE7, 0x1A, 0x93]
  let rest := toLE 2 clip ++ [1, 0] ++ toLE 4 2048 ++ List.replicate 48 0
  programmed (writeCells [] 0 (magic ++ toLE 4 ((wordSum magic + wordSum rest) % 2 ^ 32) ++ rest))

/-- The fields of that header. -/
def headFields : ClipHeader := ⟨.m16, 2048, none, 0, none, none, 0⟩

/-- The start-up scan with the head page of block 0 in flight. -/
def scanning (p : PageImage) (d : Directory) : State :=
  { State.reset with inFlight := some ⟨.scan, 0, 0⟩, flash := [(0, p)], play := { State.reset.play with dir := d } }

/-- A Verify Unit at a page of clip 7, which lies at block 0. -/
def verifyingAt (next : Nat) : State :=
  let d : Directory := ⟨.complete, [⟨7, .unverified, 0, 1, headFields, 0, 0, none⟩], ⟨32768, 1, 0, 0, false⟩, []⟩
  { scanning (headPage 7) d with inFlight := some ⟨.verify, next, 0⟩, verify := some ⟨7, none, next, next, 0, none, 0, true⟩ }

/-- A Read Page of 3 bytes at offset 62, in flight. -/
def readingPage : State :=
  { scanning (headPage 7) State.reset.play.dir with
    inFlight := some ⟨.readPage, 0, 0⟩
    play := { State.reset.play with agent := { Agent.reset with inHand := some ⟨false, 7, ⟨0, 62, 3, true⟩⟩ } } }

/-- The copy read of a relocation of page 5, in flight. -/
def copyDelivered : State :=
  { storing { Store.reset 0 0 with current := some ⟨.commit 5 7 none, .relocRead ⟨0, [], 0, 0⟩ 0, true, .running, 0⟩ } with
    inFlight := some ⟨.relocation, 0, 0⟩ }

/-- A head page that fits its block; a clip number that is registered; the first and the last page of a clip; a Read Page; a copy. -/
theorem witness_ReadDeliveryOthers :
    (headPage 7).header = .header 7 headFields ∧ (headPage 0).header = .malformed ∧ 0 + headFields.extent ≤ 32768 ∧
      (scanning (headPage 7) State.reset.play.dir).play.dir.find 7 = none ∧
      ((scanning (headPage 7) { State.reset.play.dir with entries := [clip0 7 10 .ready] }).play.dir.find 7).isSome = true ∧
      (∀ n ∈ [0, 1], (verifyingAt n).verify.isSome = true ∧ ((verifyingAt n).play.dir.find 7).isSome = true) ∧
      headFields.audioPages = 1 ∧ readingPage.play.agent.inHand.isSome = true ∧
      copyDelivered.store.current.map Current.stage = some (.relocRead ⟨0, [], 0, 0⟩ 0) := by decide +kernel

/-- R115: clip 7 is registered, and the scan goes on behind its extent. -/
theorem test_scan_registers :
    let t := (scanning (headPage 7) State.reset.play.dir).deliver ⟨.scan, 0, 0⟩ [] [] []
    (t.play.dir.entries.map fun e => (e.clip, e.state)) = [(7, .unverified)] ∧ t.play.dir.scan.next = 1 ∧
      t.play.dir.queue = [(7, none)] := by decide +kernel

/-- R138: behind its last audio page the clip, whose page reads 0xFF and whose header gives checksum 0, is BAD. -/
theorem test_verify_ends :
    let t := (verifyingAt 1).deliver ⟨.verify, 1, 0⟩ [] [] []
    t.verify = none ∧ (t.play.dir.entries.map fun e => e.state) = [.bad] := by decide +kernel

/-- R114, R115: the first delivery of the scan over an erased block goes on to block 1. -/
theorem test_scan_goes_on :
    (({ State.reset with inFlight := some ⟨.scan, 0, 0⟩ } : State).deliver ⟨.scan, 0, 0⟩ [] [] []).play.dir.scan.next = 1 := by
  decide +kernel

/-- A Verify Unit with clip 5 in its queue. -/
def verifying : State := { storing (Store.reset 0 0) with play := { State.reset.play with dir := { dir0 with queue := [(5, some 7)] } } }

theorem witness_VerifyTakeStartsJob :
    verifying.verify = none ∧ verifying.play.dir.state = .complete ∧ verifying.play.dir.queue = (5, some 7) :: [] ∧
      verifying.inFlight = none := by decide +kernel

/-- A store with one operation queued. -/
def queued (op : StoreOp) : State := storing { Store.reset 0 0 with queue := [op] }

theorem witness_StoreOperationStarts :
    (queued (.erase 3 7)).inFlight = none ∧ (queued (.erase 3 7)).store.current = none ∧ (queued (.erase 3 7)).play.refilling = false ∧
      (queued (.erase 3 7)).store.queue = .erase 3 7 :: [] ∧ (queued (.erase 3 7)).play.agent.noticeRoom = true := by decide +kernel

/-- A store operation at a step. -/
def busy (op : StoreOp) (st : Stage) : State := storing { Store.reset 0 0 with current := some (current0 op st), staging := [(0, 0x12)] }

theorem witness_PageProgramEnds :
    (busy (.commit 5 7 none) .program).store.current = some ⟨.commit 5 7 none, .program, true, .running, 0⟩ ∧
      (busy (.commit 5 7 none) .program).play.agent.noticeRoom = true := by decide +kernel

/-- A head commit of clip 7, and the programs of a relocation. -/
theorem witness_PageProgramOthers :
    let s := storing { Store.reset 0 0 with current := some (current0 (.commit 64 7 (some (7, 1))) .program), staging := (headPage 7).cells }
    s.store.stagedHeader = .header 7 headFields ∧ s.play.dir.find 7 = none ∧
      (busy (.commit 5 7 none) (.relocProgram ⟨0, [], 0, 0⟩ 4 (programmed []))).store.current.isSome = true ∧
      (busy (.commit 5 7 none) (.relocStaged ⟨0, [], 0, 0⟩)).store.current.isSome = true ∧ ([] : List Nat).Pairwise (· < ·) := by
  decide +kernel

/-- R143, R144: the last copy is followed by the staged page; a failed one spends the spare. -/
theorem test_relocation_program :
    let c := current0 (.commit 5 7 none) (.relocProgram ⟨0, [], 0, 0⟩ 4 (programmed []))
    (((busy c.op c.stage).programEnds c true).store.current.map Current.stage,
        ((busy c.op c.stage).programEnds c false).store.current.map Current.stage) =
      (some (.relocStaged ⟨0, [], 1, 0⟩), some (.relocErase ⟨1, [0], 0, 0⟩)) := by decide +kernel

/-- R124: page 5 holds the staged byte with its tag set. -/
theorem test_program_passes :
    let t := (busy (.commit 5 7 none) .program).programEnds (current0 (.commit 5 7 none) .program) true
    t.flash = [(5, programmed [(0, 0x12)])] ∧ t.store.staging = [] ∧ t.store.current = none := by decide +kernel

/-- R144: a failed program goes on with the erase of spare 0. -/
theorem test_program_fails :
    ((busy (.commit 5 7 none) .program).programEnds (current0 (.commit 5 7 none) .program) false).store.current.map Current.stage =
      some (.relocErase ⟨0, [], 0, 0⟩) := by decide +kernel

/-- A suspending erase with a class 1 read waiting. -/
def suspending : State :=
  { hungry with store := { Store.reset 0 0 with current := some ⟨.erase 3 7, .erase, true, .suspending, 1⟩ } }

theorem witness_EraseEndsAndSuspends :
    (busy (.erase 3 7) .erase).store.current = some ⟨.erase 3 7, .erase, true, .running, 0⟩ ∧
      (busy (.erase 3 7) .erase).play.agent.noticeRoom = true ∧ suspending.store.current.isSome = true ∧
      suspending.play.urgent = true := by decide +kernel

/-- The erase of block 3, of a spare for a relocation, and of one for a remap, each SUSPENDING with a class 1 request pending. -/
theorem witness_EraseSuspensions :
    ∀ st ∈ [Stage.erase, .relocErase ⟨3, [], 0, 0⟩, .remapErase ⟨3, [], 0, 0⟩],
      let s : State := { suspending with store := { Store.reset 0 0 with current := some ⟨.erase 3 7, st, true, .suspending, 1⟩ } }
      st.erases = true ∧ s.play.urgent = true ∧ (s.store.current.map Current.phase) = some .suspending := by decide +kernel

/-- R128: block 3 reads as free pages once its erase is SUSPENDED (log 10), and block 4 as before. -/
theorem test_erase_suspended :
    let t := ran .eraseSuspended suspending
    t.store.current.map Current.phase = some .suspended ∧ t.occasion = suspending.occasion + 64 ∧
      (readFlash t.flash 255).fill = .free (suspending.occasion + 63) ∧ readFlash t.flash 256 = PageImage.blank := by decide +kernel

/-- The erase of a spare, for a relocation and for a remap. -/
theorem witness_EraseOfSpare :
    (busy (.commit 5 7 none) (.relocErase ⟨3, [], 0, 0⟩)).store.current =
        some ⟨.commit 5 7 none, .relocErase ⟨3, [], 0, 0⟩, true, .running, 0⟩ ∧
      (busy (.erase 3 7) (.remapErase ⟨3, [], 0, 0⟩)).store.current = some ⟨.erase 3 7, .remapErase ⟨3, [], 0, 0⟩, true, .running, 0⟩ ∧
      (busy (.erase 3 7) .erase).play.agent.returns.length + 2 ≤ 24 := by decide +kernel

/-- The settings writes of relocations and remaps, over a remap table with one entry. -/
theorem witness_SettingsWriteInstalls :
    (∀ st ∈ [Stage.relocInstall ⟨3, [2], 0, 0⟩, .remapInstall ⟨3, [2], 0, 0⟩, .relocWorn [2], .remapWorn [2]],
      (busy (.erase 3 7) st).store.current = some ⟨.erase 3 7, st, true, .running, 0⟩) ∧
      ([(3, 1)].map Prod.fst).Pairwise (· < ·) := by decide +kernel

/-- The settings writes of a head commit of clip 7, remapped, and of WORN operations. -/
theorem witness_SettingsWriteEnds :
    let s := storing { Store.reset 0 0 with
      current := some (current0 (.commit 64 7 (some (7, 1))) (.relocInstall ⟨3, [], 0, 0⟩)), staging := (headPage 7).cells }
    s.store.stagedHeader = .header 7 headFields ∧ s.play.dir.find 7 = none ∧ (s.play.dir.queue.any fun q => q.1 == 7) = false ∧
      (busy (.commit 64 7 (some (7, 1))) (.relocWorn [2])).store.current.isSome = true ∧
      (busy (.erase 10 7) (.remapWorn [2])).store.current.isSome = true := by decide +kernel

/-- R106, R143: the remapped head commit registers clip 7 UNVERIFIED at block 1. -/
theorem test_remapped_head :
    let s := storing { Store.reset 0 0 with
      current := some (current0 (.commit 64 7 (some (7, 1))) (.relocInstall ⟨3, [], 0, 0⟩)), staging := (headPage 7).cells }
    let t := ran .settingsWriteComplete s
    (t.play.dir.entries.map fun e => (e.clip, e.state, e.firstBlock)) = [(5, .ready, 10), (6, .ready, 20), (7, .unverified, 1)] ∧
      t.play.dir.queue = [(7, none)] ∧ t.store.staging = [] := by decide +kernel

/-- R113, R144: the WORN erase takes the RETIRING clip of its block away. -/
theorem test_worn_erase :
    let s := busy (.erase 10 7) (.remapWorn [2])
    let t := ran .settingsWriteComplete
      { s with play := { s.play with dir := { dir0 with entries := [clip0 5 10 .retiring, clip0 6 20 .ready] } } }
    (t.play.dir.entries.map fun e => e.clip) = [6] ∧ t.settings.worn = [10] := by decide +kernel

/-- R143: the block is mapped to the new spare, and its former spare and those spent on the way are spent. -/
theorem test_install :
    (({ Settings.new with remap := [(3, 1)] } : Settings).install 3 ⟨4, [2], 0, 0⟩) =
      { Settings.new with remap := [(3, 4)], spent := [1, 2] } := by decide +kernel

theorem witness_SettingsWriteTakesEffect :
    (busy (.boundary 40 7) .settings).store.current = some ⟨.boundary 40 7, .settings, true, .running, 0⟩ ∧
      (busy (.floor 3 40 7) .settings).store.current = some ⟨.floor 3 40 7, .settings, true, .running, 0⟩ ∧
      (busy (.boundary 40 7) .settings).settings.floor = 0 := by decide +kernel

/-! ## Requests -/

/-- The Management Agent takes a request of any kind after reset. -/
theorem witness_takes (kind : Nat) : Takes (plainAsk kind) kind (msg kind) [] := ⟨rfl, rfl, rfl, rfl, rfl, .inr (Nat.zero_lt_succ 31)⟩

/-- A request waits while the head message is of another kind, and while the return queue has no room. -/
theorem witness_RequestWaits :
    requestKind .identify = some 0x01 ∧ (∀ m rest, ¬ Takes State.reset 0x01 m rest) ∧
      (∀ m rest, m.kind ∉ catalogue → ¬ Takes (plainAsk 0x01) m.kind m rest) := by
  refine ⟨rfl, fun m rest h => ?_, fun m rest hk h => ?_⟩
  · have := h.input; cases this
  · have hm : m = msg 0x01 := by
      have := h.input
      simp only [plainAsk, asked, List.cons.injEq] at this
      exact this.1.symm
    rw [hm] at hk; exact hk (by decide)

/-- Code 0x04 is in no catalogue; a body of one byte is not empty. -/
theorem witness_RequestRefusedAtTaking :
    Takes (plainAsk 0x04) (msg 0x04).kind (msg 0x04) [] ∧ (msg 0x04).kind ∉ catalogue ∧
      requestKind (.readPlan none) = some 0x24 ∧ Takes (plainAsk 0x24) 0x24 (msg 0x24) [] ∧
      Takes (plainAsk 0x55) 0x55 (msg 0x55) [] ∧
      Takes (asked State.reset ⟨0, 7, 0x01, 0, [0]⟩) 0x01 ⟨0, 7, 0x01, 0, [0]⟩ [] ∧ (⟨0, 7, 0x01, 0, [0]⟩ : Message).body ≠ [] :=
  ⟨witness_takes _, by decide, rfl, witness_takes _, witness_takes _, ⟨rfl, rfl, rfl, rfl, rfl, .inr (by decide)⟩, by decide⟩

theorem witness_IdentifyAnswers : Takes (plainAsk 0x01) 0x01 (msg 0x01) [] ∧ (msg 0x01).body = [] := ⟨witness_takes _, rfl⟩

theorem witness_ResetNeedsItsLatch :
    Takes (plainAsk 0x02) 0x02 (msg 0x02) [] ∧ Takes (plainAsk 0x03) 0x03 (msg 0x03) [] ∧
      (plainAsk 0x03).play.agent.resetEnable = false ∧ Takes latched 0x03 (msg 0x03) [] ∧ latched.play.agent.resetEnable = true :=
  ⟨witness_takes _, witness_takes _, rfl, ⟨rfl, rfl, rfl, rfl, rfl, .inr (by decide)⟩, rfl⟩

/-- A request to on-air blocks. -/
def askedOf (p : Play) (kind : Nat) : State := asked { State.reset with play := p } (msg kind)

theorem witness_takesOf (p : Play) (kind : Nat) (h : p.agent = Agent.reset) : Takes (askedOf p kind) kind (msg kind) [] :=
  ⟨rfl, rfl, rfl, by simp [askedOf, asked, h, Agent.reset], by simp [askedOf, asked, h, Agent.reset],
    .inr (by simp [askedOf, asked, h, Agent.reset])⟩

/-- A region in BYPASS, and one that is off NETWORK and BYPASS. -/
theorem witness_RegionRequests :
    Takes (plainAsk 0x10) 0x10 (msg 0x10) [] ∧ ((plainAsk 0x10).play.region 0).state = .network ∧
      Takes (askedOf armed 0x10) 0x10 (msg 0x10) [] ∧ ((askedOf armed 0x10).play.region 0).state = .primed ∧
      (1023 < 1024 ∧ 1023 ≤ 1023) ∧
      Takes (askedOf ((Play.reset 0).setRegion 0 { RegionRec.reset with state := .bypass }) 0x13) 0x13 (msg 0x13) [] ∧
      Takes (plainAsk 0x13) 0x13 (msg 0x13) [] ∧ Takes (plainAsk 0x12) 0x12 (msg 0x12) [] ∧
      Takes (askedOf armed 0x11) 0x11 (msg 0x11) [] ∧ ((askedOf armed 0x11).play.region 0).armDeadline = some 0 :=
  ⟨witness_takes _, rfl, witness_takesOf _ _ rfl, rfl, by decide, witness_takesOf _ _ rfl, witness_takes _, witness_takes _,
    witness_takesOf _ _ rfl, rfl⟩

theorem witness_ForceNetworkBypasses :
    Takes (plainAsk 0x12) 0x12 (msg 0x12) [] ∧ ((plainAsk 0x12).play.region 0).brk = none ∧
      Takes (askedOf (overdue .localPlay) 0x12) 0x12 (msg 0x12) [] ∧
      ((askedOf (overdue .localPlay) 0x12).play.region 0).state = .localPlay ∧
      ((askedOf (overdue .localPlay) 0x12).play.region 0).brk ≠ none ∧ ((askedOf armed 0x12).play.region 0).state = .primed ∧
      ∀ v ∈ (askedOf (overdue .localPlay) 0x12).play.voicesOf 0,
        ((askedOf (overdue .localPlay) 0x12).play.voice v).holder = some 0 :=
  ⟨witness_takes _, rfl, witness_takesOf _ _ rfl, rfl, by decide +kernel, rfl, by decide +kernel⟩

/-- R35: two ITEM records and the BREAK record, the bed at 231, the region in BYPASS. -/
theorem test_force_network :
    let p := (overdue .localPlay).forceNetwork (onAir (overdue .localPlay) 5).now 0
    (p.region 0).state = .bypass ∧ (p.region 0).bed = .still 231 ∧ p.log.records.length = 3 := by decide +kernel

/-- On-air blocks with a plan of `n` items LOADING in slot 0 of region 0. -/
def loadingPlay (n : Nat) : Play :=
  (Play.reset 0).setSlot 0 0 ⟨.loading, some { plan0 with items := List.replicate n item0 }⟩

theorem witness_PlanLoaded :
    Takes (plainAsk 0x20) 0x20 (msg 0x20) [] ∧ ((plainAsk 0x20).play.slot 0 0).state = .empty ∧
      ((askedOf idlePlay 0x20).play.slot 0 0).state ≠ .empty ∧ Takes (askedOf idlePlay 0x20) 0x20 (msg 0x20) [] ∧
      Takes (askedOf (loadingPlay 11) 0x21) 0x21 (msg 0x21) [] ∧ Takes (askedOf (loadingPlay 12) 0x21) 0x21 (msg 0x21) [] ∧
      ((askedOf (loadingPlay 12) 0x21).play.slot 0 0).state = .loading ∧ Takes (plainAsk 0x21) 0x21 (msg 0x21) [] :=
  ⟨witness_takes _, rfl, by decide +kernel, witness_takesOf _ _ rfl, witness_takesOf _ _ rfl, witness_takesOf _ _ rfl, rfl, witness_takes _⟩

/-- The fields of an item of clip 5, as a request gives them. -/
def itemFields : AppendItemFields := ⟨0, 0, 5, 0, .full, .mix, 3000, false, 7, 1, false, 0⟩

/-- R43: the transition is clamped to 2,000 ms, and the level not given is 231. -/
theorem test_item_clamped : (itemOf itemFields).map (fun i => (i.transitionMs, i.level)) = some (2000, 231) := by decide +kernel

/-- A second READY slot with the same break ID. -/
def twinPlay : Play := (loadingPlay 1).setSlot 0 1 ⟨.ready, some plan0⟩

theorem witness_PlanSlotRequests :
    Takes (askedOf (loadingPlay 1) 0x22) 0x22 (msg 0x22) [] ∧ Takes (askedOf (loadingPlay 0) 0x22) 0x22 (msg 0x22) [] ∧
      Takes (askedOf twinPlay 0x22) 0x22 (msg 0x22) [] ∧ ((askedOf twinPlay 0x22).play.slot 0 1).state = .ready ∧
      ((askedOf twinPlay 0x22).play.slot 0 1).plan.map Plan.breakId = some 9 ∧ Takes (plainAsk 0x22) 0x22 (msg 0x22) [] ∧
      Takes (plainAsk 0x23) 0x23 (msg 0x23) [] ∧ Takes (plainAsk 0x24) 0x24 (msg 0x24) [] ∧ (23 < 24 ∨ 15 < 0) ∧
      requestKind (.readPlan (some ⟨24, 0⟩)) = some 0x24 :=
  ⟨witness_takesOf _ _ rfl, witness_takesOf _ _ rfl, witness_takesOf _ _ rfl, rfl, rfl, witness_takes _, witness_takes _, witness_takes _,
    by decide, rfl⟩

theorem witness_ReadPlanAnswers : Takes (plainAsk 0x24) 0x24 (msg 0x24) [] ∧ (⟨23, 15⟩ : SlotFields).region = (23 : Region).val :=
  ⟨witness_takes _, rfl⟩

theorem witness_VoiceStatusAnswers : Takes (plainAsk 0x30) 0x30 (msg 0x30) [] ∧ (31 : VoiceNo).val = 31 ∧ 31 < 32 :=
  ⟨witness_takes _, rfl, by decide⟩

/-- R62: a RELEASING voice's read is of class 2, a PRIMING voice's of class 1. -/
theorem test_read_class :
    let c := fun st => ({ Voice.idle none with state := st, pending := some ⟨⟨.current, 0, 641⟩, true⟩ } : Voice).readClass
    (c .releasing, c .priming, c .playing, c .ready) = (2, 1, 1, 1) := by decide +kernel

theorem witness_GroupFades :
    Takes (plainAsk 0x38) 0x38 (msg 0x38) [] ∧ (7 : GainGroup) ≠ 0 ∧ (7 : GainGroup).val = 7 ∧ 7 < 8 ∧
      Takes (plainAsk 0x39) 0x39 (msg 0x39) [] ∧ (msg 0x39).body = [] :=
  ⟨witness_takes _, by decide, rfl, by decide, witness_takes _, rfl⟩

/-- R90: a request that waits begins its ramp at the boundary. -/
theorem test_group_fade :
    (GroupRec.atBoundary ⟨.still 231, some (0, 500), 231⟩).fader = ⟨231, some ⟨0, 103, 231, 0⟩⟩ := by decide +kernel

theorem witness_LinkGroupRequests :
    Takes (plainAsk 0x40) 0x40 (msg 0x40) [] ∧ ((plainAsk 0x40).play.gate 6).state = .closed ∧
      Takes (askedOf ((Play.reset 0).setGate 0 (gate0 .waiting)) 0x40) 0x40 (msg 0x40) [] ∧
      ((askedOf ((Play.reset 0).setGate 0 (gate0 .waiting)) 0x40).play.gate 0).state ≠ .closed ∧
      Takes (plainAsk 0x41) 0x41 (msg 0x41) [] ∧ (6 : LinkGroup).val + 1 = 7 :=
  ⟨witness_takes _, rfl, witness_takesOf _ _ rfl, by decide +kernel, witness_takes _, rfl⟩

theorem witness_DirectoryRequests :
    Takes (plainAsk 0x48) 0x48 (msg 0x48) [] ∧ Takes (plainAsk 0x49) 0x49 (msg 0x49) [] ∧ (1023 < 1024 ∧ 1 ≤ 1 ∧ 1023 ≤ 1023) :=
  ⟨witness_takes _, witness_takes _, by decide⟩

/-- R117: both clips of the directory, and nothing to continue with. -/
theorem test_directory_query :
    ({ Play.reset 0 with dir := dir0 } : Play).query 1 = .directory [⟨5, .ready, 10, 2, .s16, 96000, 0, 0⟩, ⟨6, .ready, 20, 2, .s16, 96000, 0, 0⟩] .complete 0 := by
  decide +kernel

/-- Clip 5 at the head of the verify queue, in place 0, and clip 6 not in it. -/
theorem witness_DirectoryPlaces :
    placeOf 5 0 verifying.play.dir.queue = some 0 ∧ placeOf 6 0 verifying.play.dir.queue = none := by decide +kernel

/-- A store request to a complete directory. -/
def storeAsk (st : Store) (kind : Nat) : State := asked (storing st) (msg kind)

theorem witness_takesStore (st : Store) (kind : Nat) : Takes (storeAsk st kind) kind (msg kind) [] :=
  ⟨rfl, rfl, rfl, rfl, rfl, .inr (Nat.zero_lt_succ 31)⟩

theorem witness_StagingLoaded :
    Takes (plainAsk 0x50) 0x50 (msg 0x50) [] ∧ (plainAsk 0x50).play.dir.state = .scanning ∧
      Takes (storeAsk (Store.reset 0 0) 0x50) 0x50 (msg 0x50) [] ∧ (storeAsk (Store.reset 0 0) 0x50).play.dir.state = .complete ∧
      Takes (storeAsk (Store.reset 0 0) 0x51) 0x51 (msg 0x51) [] ∧
      (storeAsk { Store.reset 0 0 with holds := some 5 } 0x51).store.holds ≠ none ∧
      ¬ (4095 < 4095 ∨ 2 = 0 ∨ 480 < 2 ∨ [(0x11 : Byte), 0x22].length ≠ 2) :=
  ⟨witness_takes _, rfl, witness_takesStore _ _, rfl, witness_takesStore _ _, by decide, by decide⟩

/-- R122: two bytes at offset 4,095 wrap to offset 0. -/
theorem test_load_wraps : writeCells [] 4095 [0x11, 0x22] = [(0, 0x22), (4095, 0x11)] := by decide

theorem witness_LatchGuardsStore :
    Takes (plainAsk 0x52) 0x52 (msg 0x52) [] ∧ requestKind (.commitPage (some 0)) = some 0x52 ∧
      Takes (storeAsk (Store.reset 0 0) 0x52) 0x52 (msg 0x52) [] ∧ (storeAsk (Store.reset 0 0) 0x52).store.unlocked = false :=
  ⟨witness_takes _, rfl, witness_takesStore _ _, rfl⟩

/-- A store that is unlocked. -/
def unlockedStore : Store := { Store.reset 0 0 with unlocked := true }

theorem witness_CommitAndEraseQueued :
    Takes (storeAsk unlockedStore 0x52) 0x52 (msg 0x52) [] ∧ (storeAsk unlockedStore 0x52).play.dir.state = .complete ∧
      (storeAsk unlockedStore 0x52).store.unlocked = true ∧ Takes (storeAsk unlockedStore 0x53) 0x53 (msg 0x53) [] ∧
      firstRefusal ((storeAsk unlockedStore 0x53).eraseTests 10) = none ∧
      ((storeAsk unlockedStore 0x53).play.dir.ofFirstBlock 10).isSome = true ∧
      firstRefusal ((storeAsk unlockedStore 0x53).eraseTests 11) = some .clipPresent ∧
      firstRefusal ((storeAsk unlockedStore 0x53).eraseTests 32767) = none ∧
      firstRefusal ((storeAsk unlockedStore 0x53).eraseTests 32768) = some .badArgument :=
  ⟨witness_takesStore _ _, rfl, rfl, witness_takesStore _ _, by decide +kernel, by decide +kernel, by decide +kernel, by decide +kernel,
    by decide +kernel⟩

/-- The two clips of the directory stand in order, with a head commit of clip 7 current. -/
theorem witness_CommitAndEraseInvariant :
    let s := storing { Store.reset 0 0 with
      current := some (current0 (.commit 64 7 (some (7, 1))) .program), staging := (headPage 7).cells, holds := some 64 }
    DirInv s ∧ ∃ t, step s = .next t := by
  refine ⟨⟨by decide, by unfold apart; decide, fun h => ?_, fun f h => ?_, by decide, ?_, ?_⟩, _, rfl⟩
  · exact absurd h (by decide)
  · cases h
  · intro page tag head h
    simp [storing, Store.operations, current0, Store.reset] at h ⊢
    exact h.1.symm
  · intro page tag x clip h hm hh
    have hp : page = 64 := by simp [storing, Store.operations, current0, Store.reset] at hm; exact hm.1
    have hs : (storing { Store.reset 0 0 with
      current := some (current0 (.commit 64 7 (some (7, 1))) .program), staging := (headPage 7).cells, holds := some 64 }).store.stagedHeader =
        .header 7 headFields := by decide +kernel
    rw [hs] at hh
    cases hh
    subst hp
    exact ⟨by decide +kernel, by unfold apart; decide +kernel⟩

theorem witness_ProtectionQueued :
    Takes (storeAsk unlockedStore 0x54) 0x54 (msg 0x54) [] ∧ Takes (storeAsk unlockedStore 0x55) 0x55 (msg 0x55) [] ∧
      (storeAsk unlockedStore 0x54).play.dir.state = .complete ∧ (storeAsk unlockedStore 0x54).store.unlocked = true :=
  ⟨witness_takesStore _ _, witness_takesStore _ _, rfl, rfl⟩

theorem witness_VerifyAndReadAccepted :
    Takes (storeAsk (Store.reset 0 0) 0x58) 0x58 (msg 0x58) [] ∧ (storeAsk (Store.reset 0 0) 0x58).play.dir.find 5 = some (clip0 5 10 .ready) ∧
      (storeAsk (Store.reset 0 0) 0x58).play.dir.find 7 = none ∧ (storeAsk (Store.reset 0 0) 0x58).verify = none ∧
      Takes (plainAsk 0x59) 0x59 (msg 0x59) [] ∧
      badReadPage ⟨2097151, 4095, 1, false⟩ = false ∧ badReadPage ⟨2097152, 0, 1, false⟩ = true ∧
      badReadPage ⟨0, 4095, 2, false⟩ = true :=
  ⟨witness_takesStore _ _, by decide, by decide, rfl, witness_takes _, by decide, by decide, by decide⟩

theorem witness_StoreAndLinkStatus :
    Takes (plainAsk 0x5A) 0x5A (msg 0x5A) [] ∧ (255 ≤ 255 ∧ 255 < 256) ∧ Takes (plainAsk 0x68) 0x68 (msg 0x68) [] ∧ (msg 0x68).body = [] :=
  ⟨witness_takes _, by decide, witness_takes _, rfl⟩

theorem witness_FetchAsRunRemoves : Takes (plainAsk 0x60) 0x60 (msg 0x60) [] := witness_takes _

/-- R151: 0 is taken as 16, and 17 as 16. -/
theorem test_fetch_count : fetchCount 0 = 16 ∧ fetchCount 17 = 16 ∧ fetchCount 3 = 3 := by decide

theorem witness_AsRunStatusAnswers :
    Takes (plainAsk 0x61) 0x61 (msg 0x61) [] ∧ (msg 0x61).body = [] ∧ (plainAsk 0x61).play.log.records = [] := ⟨witness_takes _, rfl, rfl⟩

end Sys2Proof.Tests
end

/-! # Read Plan (O48): a request taken and answered (R170, R171), the slot it names (R41), and its reply (R46) -/

namespace Sys2Proof.Machine

/-! ## A request that is taken and answered -/

/-- Both sides discard the reply to a broadcast message, and place any other at the end of the return queue. -/
theorem answer_taking (s : State) (m : Message) (rest : List Message) (code : Code) (body : Body) :
    (s.modAgent fun a => a.taking m rest).answer m code body = s.answered m rest code body := by
  by_cases broadcast : m.target = 255
  · have nothing : repliesTo s m code body = [] := if_pos broadcast
    simp [State.answer, Message.broadcast, State.modAgent, State.answered, State.agentAfter, Agent.taking, Agent.less, broadcast, nothing]
  · have one : repliesTo s m code body = [⟨s.link.address, m.tag, .reply m.kind code body, s.link.count⟩] := if_neg broadcast
    simp [State.answer, Message.broadcast, State.modAgent, State.answered, State.agentAfter, Agent.taking, Agent.less, Agent.reply,
      broadcast, one]

/-- A request with fields whose action leaves the state with the message taken, and answers `code` and `body`. -/
theorem serveWith_answered {α : Type} {s : State} {kind : Nat} {m : Message} {rest : List Message} (h : Takes s kind m rest) (x : α)
    {act : α → Message → State → Answer} {code : Code} {body : Body}
    (answers : let t := s.modAgent fun a => a.taking m rest; act x m t = ⟨t, code, body⟩) :
    s.serveWith kind (some x) act = s.answered m rest code body := by
  have head : s.headOf (fun k => k == kind) = some (m, rest) := head_of_takes h _ (beq_self_eq_true kind)
  rw [← answer_taking]
  simp only [State.serveWith, State.serve, head, answers]

/-! ## The slot that a plan request names -/

@[simp] theorem regionOf_val (r : Region) : regionOf r.val = some r := dif_pos r.isLt

@[simp] theorem slotOf_val (n : Fin 16) : slotOf n.val = some n := dif_pos n.isLt

theorem onSlot_val (s : State) (r : Region) (n : Fin 16) (act : Region → Fin 16 → Slot → Answer) :
    s.onSlot r.val n.val act = act r n (s.play.slot r n) := by
  simp only [State.onSlot, regionOf_val, slotOf_val]

@[simp] theorem slot_modAgent (s : State) (f : Agent → Agent) (r : Region) (n : Fin 16) :
    (s.modAgent f).play.slot r n = s.play.slot r n := rfl

/-! ## READ_PLAN (R46) -/

theorem exec_readPlan_eq (f : Option SlotFields) (s : State) : exec (.readPlan f) s = execReadPlan f s := rfl

/-- Settles O48: taking the message leaves the slot as it was, and the request leaves the state and answers from that slot. -/
theorem readPlanAnswers : Obligations.ReadPlanAnswers := by
  intro s m rest f r n takes hregion hslot
  rw [exec_readPlan_eq]
  refine congrArg Host.Outcome.next (serveWith_answered takes f ?_)
  intro t
  rw [hregion, hslot, onSlot_val, slot_modAgent]

end Sys2Proof.Machine

/-! # As-Run Status (O60): a request without parameters taken and answered (R170), and the sequences of its reply (R152) -/

namespace Sys2Proof.Machine

/-- A request whose body is empty, as its kind requires, and whose action leaves the state with the message taken, and answers `code`
and `body`. -/
theorem servePlain_answered {s : State} {kind : Nat} {m : Message} {rest : List Message} (h : Takes s kind m rest) (plain : m.body = [])
    {act : Message → State → Answer} {code : Code} {body : Body}
    (answers : let t := s.modAgent fun a => a.taking m rest; act m t = ⟨t, code, body⟩) :
    s.servePlain kind act = s.answered m rest code body := by
  have head : s.headOf (fun k => k == kind) = some (m, rest) := head_of_takes h _ (beq_self_eq_true kind)
  have empty : m.body.isEmpty = true := List.isEmpty_iff.2 plain
  rw [← answer_taking]
  simp only [State.servePlain, State.serve, head, empty, if_true, answers]

/-! ## The sequences of the As-Run Log -/

theorem oldestSeq_of_cons {l : AsRunLog} {x : AsRunRecord} {xs : List AsRunRecord} (held : l.records = x :: xs) :
    l.oldestSeq = x.seq := by
  rw [AsRunLog.oldestSeq, held]

theorem oldestSeq_of_nil {l : AsRunLog} (empty : l.records = []) : l.oldestSeq = l.nextSeq := by
  rw [AsRunLog.oldestSeq, empty]

/-! ## AS_RUN_STATUS (R152) -/

theorem exec_asRunStatus_eq (s : State) : exec .asRunStatus s = execAsRunStatus s := rfl

/-- Settles O60: taking the message leaves the log as it was, and the oldest sequence answered is that of the first record held, or the
next one where none is held. -/
theorem asRunStatusAnswers : Obligations.AsRunStatusAnswers := by
  intro s m rest takes plain l
  refine ⟨l.oldestSeq, ?answered, fun _ _ => oldestSeq_of_cons, oldestSeq_of_nil⟩
  case answered =>
    rw [exec_asRunStatus_eq]
    exact congrArg Host.Outcome.next (servePlain_answered takes plain rfl)

end Sys2Proof.Machine

/-! # The device address (O8, R166): what no step but POWER_ON changes, and what each return frame carries -/

namespace Sys2Proof.Machine

/-! ## The device address and the return frame that stands -/

/-- What R166 speaks of: the device address, and the return frame being sent. -/
def State.wire (s : State) : Nat × Option ReturnFrame := (s.link.address, s.returnFrame)

/-- The device address stands, and a return frame formed meanwhile carries it. -/
def CarriesAddress (s t : State) : Prop :=
  t.link.address = s.link.address ∧
    (t.returnFrame = s.returnFrame ∨ ∃ f, t.returnFrame = some f ∧ f.address = s.link.address)

theorem wire_eq_iff {s t : State} : t.wire = s.wire ↔ t.link.address = s.link.address ∧ t.returnFrame = s.returnFrame := Prod.mk_inj

/-- What forms no return frame. -/
theorem CarriesAddress.of_wire {s t : State} (same : t.wire = s.wire) : CarriesAddress s t :=
  (wire_eq_iff.1 same).imp_right .inl

theorem CarriesAddress.trans {s t u : State} (first : CarriesAddress s t) (second : CarriesAddress t u) : CarriesAddress s u := by
  obtain ⟨address, sent⟩ := first
  obtain ⟨address', sent'⟩ := second
  refine ⟨address'.trans address, ?_⟩
  rcases sent' with stands | ⟨f, formed, carries⟩
  · rwa [stands]
  · exact .inr ⟨f, formed, carries.trans address⟩

/-! ## The parts of the state that are not on the wire -/

@[simp] theorem wire_withPlay (s : State) (p : Play) : ({ s with play := p } : State).wire = s.wire := rfl
@[simp] theorem wire_withStore (s : State) (st : Store) : ({ s with store := st } : State).wire = s.wire := rfl
@[simp] theorem wire_withSettings (s : State) (t : Settings) : ({ s with settings := t } : State).wire = s.wire := rfl
@[simp] theorem wire_withFlash (s : State) (flash : List (Nat × PageImage)) : ({ s with flash := flash } : State).wire = s.wire := rfl

/-! ## The flash array and the store operations -/

@[simp] theorem wire_settleArray (s : State) : s.settleArray.wire = s.wire := by
  obtain ⟨_, form, -⟩ := settleArray_form s
  rw [form]
  rfl

@[simp] theorem wire_raise (s : State) (tag : Nat) (n : Notice) : (s.raise tag n).wire = s.wire := rfl
@[simp] theorem wire_modDir (s : State) (f : Directory → Directory) : (s.modDir f).wire = s.wire := rfl
@[simp] theorem wire_goStage (s : State) (st : Stage) : (s.goStage st).wire = s.wire := rfl
@[simp] theorem wire_beginOp (s : State) (op : StoreOp) (st : Stage) : (s.beginOp op st).wire = s.wire := rfl
@[simp] theorem wire_writePage (s : State) (page : Nat) (i : PageImage) : (s.writePage page i).wire = s.wire := rfl
@[simp] theorem wire_loosenPage (s : State) (page : Nat) : (s.loosenPage page).wire = s.wire := by
  simp only [State.wire, State.loosenPage]
@[simp] theorem wire_loosen (s : State) (block : Nat) : (s.loosen block).wire = s.wire := by
  simp only [State.wire, State.loosen]

@[simp] theorem wire_loosenErasing (s : State) (c : Current) : (s.loosenErasing c).wire = s.wire := by
  rcases loosenErasing_cases s c with same | ⟨_, -, loosened⟩
  · rw [same]
  · simp only [loosened, State.wire]

@[simp] theorem wire_registerHead (s : State) (op : StoreOp) : (s.registerHead op).wire = s.wire := by
  unfold State.registerHead
  repeat' split
  all_goals rfl

@[simp] theorem wire_closeOp (s : State) (op : StoreOp) (good : Bool) : (s.closeOp op good).wire = s.wire := by
  cases op with
  | commit page tag head =>
    cases good with
    | true => exact wire_registerHead s _
    | false => rfl
  | erase block tag => rfl
  | boundary value tag => rfl
  | floor value boundary tag => rfl

@[simp] theorem wire_endStore (s : State) (op : StoreOp) (r : StoreResult) : (s.endStore op r).wire = s.wire :=
  wire_closeOp s op r.good

@[simp] theorem wire_endRemapped (s : State) (op : StoreOp) (m : Spares) (cause : RemapCause) :
    (s.endRemapped op m cause).wire = s.wire := wire_endStore s op .remapped

@[simp] theorem wire_startOp (s : State) (op : StoreOp) : (s.startOp op).wire = s.wire := by
  unfold State.startOp
  repeat' split
  all_goals simp

@[simp] theorem wire_startHead (s : State) : s.startHead.wire = s.wire := by
  unfold State.startHead
  split
  · exact wire_startOp _ _
  · rfl

@[simp] theorem wire_beginReloc (s : State) (spent : List Nat) : (s.beginReloc spent).wire = s.wire := by
  unfold State.beginReloc
  split <;> rfl

@[simp] theorem wire_beginRemap (s : State) : s.beginRemap.wire = s.wire := by
  unfold State.beginRemap
  split <;> rfl

@[simp] theorem wire_copyFrom (s : State) (op : StoreOp) (m : Spares) (i : Nat) : (s.copyFrom op m i).wire = s.wire := by
  unfold State.copyFrom
  split <;> rfl

theorem wire_programEnds (s : State) (c : Current) (pass : Bool) : (s.programEnds c pass).wire = s.wire := by
  unfold State.programEnds
  repeat' split
  all_goals simp

theorem wire_eraseEnds (s : State) (c : Current) (pass : Bool) : (s.eraseEnds c pass).wire = s.wire := by
  unfold State.eraseEnds
  dsimp only
  repeat' split
  all_goals simp

theorem wire_afterWrite (s : State) (c : Current) : (s.afterWrite c).wire = s.wire := by
  unfold State.afterWrite
  split
  all_goals simp

theorem wire_writeEnds (s : State) (c : Current) : (s.writeEnds c).wire = s.wire := wire_afterWrite _ c

/-! ## Reads, their delivery and the Verify Unit -/

theorem wire_deliverCopy (s : State) (image : PageImage) (e : ReadEnd) : (s.deliverCopy image e).wire = s.wire := by
  unfold State.deliverCopy
  repeat' split
  all_goals simp

theorem wire_deliverPage (s : State) (image : PageImage) (e : ReadEnd) (block : Nat) :
    (s.deliverPage image e block).wire = s.wire := by
  unfold State.deliverPage
  split <;> rfl

theorem wire_deliverVerify (s : State) (image : PageImage) (r : ReadEnd) : (s.deliverVerify image r).wire = s.wire := by
  unfold State.deliverVerify
  dsimp only
  repeat' split
  all_goals rfl

@[simp] theorem wire_scanOn (s : State) (block : Nat) : (s.scanOn block).wire = s.wire := by
  unfold State.scanOn
  dsimp only
  split <;> simp

@[simp] theorem wire_scanHead (s : State) (b clip : Nat) (h : ClipHeader) : (s.scanHead b clip h).wire = s.wire := by
  unfold State.scanHead
  split <;> simp

theorem wire_deliverScan (s : State) (image : PageImage) (e : ReadEnd) : (s.deliverScan image e).wire = s.wire := by
  unfold State.deliverScan
  dsimp only
  repeat' split
  all_goals simp

theorem wire_deliver (s : State) (f : InFlight) (a b c : Attempt) : (s.deliver f a b c).wire = s.wire := by
  unfold State.deliver
  dsimp only
  cases f.who with
  | voice v => rfl
  | relocation => exact wire_deliverCopy _ _ _
  | readPage => exact wire_deliverPage _ _ _ _
  | verify => exact wire_deliverVerify _ _ _
  | cancelledVerify => rfl
  | scan => exact wire_deliverScan _ _ _
  | discarded => rfl

theorem wire_launch (s : State) (q : ReadRequest) : (s.launch q).wire = s.wire := by
  unfold State.launch
  dsimp only
  split <;> rfl

theorem wire_verifyTake (s : State) : s.verifyTake.wire = s.wire := by
  unfold State.verifyTake
  split <;> rfl

@[simp] theorem wire_cancelVerify (s : State) (clip : Nat) : (s.cancelVerify clip).wire = s.wire := by
  unfold State.cancelVerify
  dsimp only
  repeat' split
  all_goals rfl

/-! ## Region events and the samples of a period -/

theorem wire_taken (s : State) (p : Play) : (s.taken p).wire = s.wire := by
  obtain ⟨_, _, _, form, -⟩ := taken_form s p
  rw [form]
  rfl

theorem wire_event (s : State) (due : Bool) (f : Play → Now → Play) : (s.event due f).wire = s.wire := by
  unfold State.event
  split
  · exact wire_taken s _
  · rfl

@[simp] theorem wire_grantReturned (s : State) : s.grantReturned.wire = s.wire := by
  rcases grantReturned_cases s with same | granted
  · rw [same]
  · rw [granted, wire_withPlay]

theorem wire_afterDelivery (s : State) (who : Requester) : (s.afterDelivery who).wire = s.wire := by
  unfold State.afterDelivery
  split
  · exact wire_grantReturned s
  · rfl

theorem wire_dispatchAll (r : Region) (n : Nat) (s : State) : (State.dispatchAll r n s).wire = s.wire := by
  induction n generalizing s with
  | zero => rfl
  | succ n ih =>
    unfold State.dispatchAll
    split
    · rfl
    · exact ih _

theorem wire_regionEvents (s : State) (r : Region) : (s.regionEvents r).wire = s.wire := wire_dispatchAll r _ s

theorem wire_allRegionEvents (rs : List Region) (s : State) : (rs.foldl State.regionEvents s).wire = s.wire := by
  induction rs generalizing s with
  | nil => rfl
  | cons r rs ih => exact (ih _).trans (wire_regionEvents s r)

theorem wire_takeEvents (s : State) : s.takeEvents.wire = s.wire := by
  unfold State.takeEvents
  rw [wire_withPlay, wire_allRegionEvents]
  rfl

theorem wire_mixSample (s : State) (p : Period) : (s.mixSample p).wire = s.wire := rfl

theorem wire_closeFrame (s : State) (p : Period) : (s.closeFrame p).wire = s.wire := by
  unfold State.closeFrame
  split <;> rfl

theorem wire_formSample (s : State) : s.formSample.wire = s.wire := by
  rcases formSample_cases s with same | ⟨p, -, -, formed⟩
  · rw [same]
  · rw [formed, wire_settleArray, wire_closeFrame, wire_mixSample, wire_takeEvents]

theorem wire_formSamples (n : Nat) (s : State) : (State.formSamples n s).wire = s.wire := by
  induction n generalizing s with
  | zero => rfl
  | succ n ih => exact (ih _).trans (wire_formSample s)

/-! ## The Link Receiver -/

theorem address_place (l : Link) (f : ProgFrame) : (l.place f).address = l.address := by
  unfold Link.place Link.hold
  dsimp only
  repeat' split
  all_goals rfl

theorem address_run (l : Link) (f : ProgFrame) : (l.run f).address = l.address := by
  unfold Link.run
  dsimp only
  repeat' split
  all_goals rfl

theorem address_arrive (l : Link) (bytes : List Byte) : (l.arrive bytes).address = l.address := by
  unfold Link.arrive
  split
  · cases l.state with
    | locked => exact address_place _ _
    | holdover => exact address_place _ _
    | acquiring => exact address_run _ _
    | free => exact address_run _ _
  · rfl

theorem address_settle (l : Link) : l.settle.1.address = l.address := by
  unfold Link.settle
  split <;> rfl

/-! ## The frame boundary and soft reset -/

/-- The one place where a return frame is formed (R164). -/
theorem carriesAddress_withReturn (s : State) : CarriesAddress s s.withReturn := by
  unfold State.withReturn
  split
  · exact .of_wire rfl
  · exact ⟨rfl, .inr ⟨_, rfl, rfl⟩⟩

theorem wire_abandonStep (s : State) : s.abandonStep.wire = s.wire := by
  unfold State.abandonStep
  repeat' split
  all_goals simp

theorem wire_softReset (s : State) : s.softReset.wire = s.wire := wire_abandonStep s

theorem wire_resetIfDue (s : State) : s.resetIfDue.wire = s.wire := by
  unfold State.resetIfDue
  split
  · exact wire_softReset s
  · rfl

theorem wire_boundaryTests (s : State) : s.boundaryTests.wire = s.wire := rfl

theorem wire_passFrame (s : State) : s.passFrame.wire = s.wire :=
  wire_eq_iff.2 ⟨address_settle s.link, rfl⟩

/-! ## Requests -/

theorem wire_answer (s : State) (m : Message) (code : Code) (body : Body) : (s.answer m code body).wire = s.wire := by
  unfold State.answer
  split <;> rfl

/-- A request whose action leaves the device address and the return frame as they were. -/
theorem wire_serve {s : State} {kind : Nat → Bool} {act : Message → State → Answer} (acts : ∀ m t, (act m t).state.wire = t.wire) :
    (s.serve kind act).wire = s.wire := by
  rcases serve_cases s kind act with idle | ⟨m, rest, -, taken⟩
  · rw [idle]
  · rw [taken, wire_answer, acts]
    rfl

theorem wire_servePlain {s : State} {kind : Nat} {act : Message → State → Answer} (acts : ∀ m t, (act m t).state.wire = t.wire) :
    (s.servePlain kind act).wire = s.wire :=
  wire_serve fun m t => by
    split
    · exact acts m t
    · rfl

theorem wire_serveWith {α : Type} {s : State} {kind : Nat} {f : Option α} {act : α → Message → State → Answer}
    (acts : ∀ x m t, (act x m t).state.wire = t.wire) : (s.serveWith kind f act).wire = s.wire :=
  wire_serve fun m t => by
    cases f with
    | some x => exact acts x m t
    | none => rfl

theorem wire_onSlot {s : State} {region slot : Nat} {act : Region → Fin 16 → Slot → Answer}
    (acts : ∀ r n x, (act r n x).state.wire = s.wire) : (s.onSlot region slot act).state.wire = s.wire := by
  unfold State.onSlot
  split
  · exact acts _ _ _
  · rfl

theorem wire_storeRequest {α : Type} {s : State} {kind : Nat} {f : Option α} {tests : α → State → List (Bool × Code)}
    {act : α → Message → State → Answer} (acts : ∀ x m t, (act x m t).state.wire = t.wire) :
    (s.storeRequest kind f tests act).wire = s.wire :=
  wire_serve fun m t => by
    cases f with
    | none => rfl
    | some x =>
      dsimp only
      split
      · rfl
      · exact acts x m t.lock

theorem wire_retire (s : State) (block : Nat) : (s.retire block).wire = s.wire := by
  unfold State.retire
  split <;> simp

theorem wire_configure (s : State) (r : Region) (f : ConfigureRegionFields) : (s.configure r f).state.wire = s.wire := by
  unfold State.configure
  dsimp only
  repeat' split
  all_goals rfl

theorem wire_append (s : State) (r : Region) (n : Fin 16) (pl : Plan) (it : PlanItem) :
    (s.append r n pl it).state.wire = s.wire := by
  unfold State.append
  split <;> rfl

theorem wire_closePlan (s : State) (r : Region) (n : Fin 16) (pl : Plan) : (s.closePlan r n pl).state.wire = s.wire := by
  unfold State.closePlan
  repeat' split
  all_goals rfl

/-! ## The commands -/

/-- A command completes, with the device address as it was and on each return frame formed. -/
def KeepsAddress (s : State) (o : Host.Outcome State Fault Refusal) : Prop := ∃ t, o = .next t ∧ CarriesAddress s t

theorem keepsAddress_of_wire {s t : State} (same : t.wire = s.wire) : KeepsAddress s (.next t) := ⟨t, rfl, .of_wire same⟩

theorem keepsAddress_framePeriodEvent (s : State) : KeepsAddress s (execFramePeriodEvent s) := by
  let formed := State.formSamples (48 - s.sample) s
  have samples : CarriesAddress s formed := .of_wire (wire_formSamples _ s)
  have opened : formed.withReturn.resetIfDue.boundaryTests.passFrame.settleArray.wire = formed.withReturn.wire := by
    rw [wire_settleArray, wire_passFrame, wire_boundaryTests, wire_resetIfDue]
  exact ⟨_, rfl, (samples.trans (carriesAddress_withReturn formed)).trans (.of_wire opened)⟩

theorem keepsAddress_softReset (s : State) : KeepsAddress s (execSoftReset s) := by
  refine ⟨_, rfl, ?_⟩
  split
  · exact (carriesAddress_withReturn s).trans (.of_wire (wire_softReset _))
  · exact .of_wire rfl

theorem keepsAddress_event (s : State) (due : Bool) (f : Play → Now → Play) : KeepsAddress s (.next (s.event due f)) :=
  keepsAddress_of_wire (wire_event s due f)

theorem keepsAddress_gateDeadline (g : LinkGroup) (s : State) : KeepsAddress s (execGateDeadline g s) :=
  keepsAddress_of_wire (by split <;> rfl)

theorem keepsAddress_joinDeadline (g : LinkGroup) (s : State) : KeepsAddress s (execJoinDeadline g s) :=
  keepsAddress_of_wire (by split <;> rfl)

theorem keepsAddress_cueDispatch (r : Region) (s : State) : KeepsAddress s (execCueDispatch r s) := by
  unfold execCueDispatch
  split
  · refine keepsAddress_of_wire ?_
    split
    · exact wire_taken _ _
    · rfl
  · exact keepsAddress_of_wire rfl

theorem keepsAddress_rampCompletion (h : RampHolder) (s : State) : KeepsAddress s (execRampCompletion h s) := by
  refine keepsAddress_of_wire ?_
  cases h with
  | bed r => exact wire_event s _ _
  | voice v =>
    dsimp only
    split
    · exact wire_event s _ _
    · rfl
  | group g =>
    dsimp only
    split <;> rfl

theorem keepsAddress_itemEnd (v : VoiceNo) (s : State) : KeepsAddress s (execItemEnd v s) := by
  refine keepsAddress_of_wire ?_
  split
  · exact wire_event s _ _
  · rfl

theorem keepsAddress_readStart (s : State) : KeepsAddress s (execReadStart s) := by
  unfold execReadStart
  split
  · exact keepsAddress_of_wire (wire_launch s _)
  · exact keepsAddress_of_wire rfl

theorem keepsAddress_readDelivery (a b c : Attempt) (s : State) : KeepsAddress s (execReadDelivery a b c s) := by
  unfold execReadDelivery
  split
  · exact keepsAddress_of_wire (by rw [wire_settleArray, wire_afterDelivery, wire_deliver])
  · exact keepsAddress_of_wire rfl

theorem keepsAddress_verifyTake (s : State) : KeepsAddress s (execVerifyTake s) := by
  refine keepsAddress_of_wire ?_
  split
  · exact wire_verifyTake s
  · rfl

theorem keepsAddress_storeOperationStart (s : State) : KeepsAddress s (execStoreOperationStart s) := by
  refine keepsAddress_of_wire ?_
  split <;> simp

theorem keepsAddress_pageProgramComplete (pass : Bool) (s : State) : KeepsAddress s (execPageProgramComplete pass s) := by
  unfold execPageProgramComplete
  split
  · exact keepsAddress_of_wire ((wire_settleArray _).trans (wire_programEnds s _ pass))
  · exact keepsAddress_of_wire rfl

theorem keepsAddress_blockEraseComplete (pass : Bool) (s : State) : KeepsAddress s (execBlockEraseComplete pass s) := by
  unfold execBlockEraseComplete
  split
  · exact keepsAddress_of_wire ((wire_settleArray _).trans (wire_eraseEnds s _ pass))
  · exact keepsAddress_of_wire rfl

theorem keepsAddress_eraseSuspended (s : State) : KeepsAddress s (execEraseSuspended s) := by
  unfold execEraseSuspended
  split
  · refine keepsAddress_of_wire ?_
    split
    · exact (wire_settleArray _).trans (wire_loosenErasing s _)
    · rfl
  · exact keepsAddress_of_wire rfl

theorem keepsAddress_settingsWriteComplete (s : State) : KeepsAddress s (execSettingsWriteComplete s) := by
  unfold execSettingsWriteComplete
  split
  · exact keepsAddress_of_wire ((wire_settleArray _).trans (wire_writeEnds s _))
  · exact keepsAddress_of_wire rfl

theorem keepsAddress_forceNetwork (f : Option Nat) (s : State) : KeepsAddress s (execForceNetwork f s) := by
  unfold execForceNetwork
  split
  · refine keepsAddress_of_wire ?_
    rw [wire_settleArray, wire_grantReturned, wire_withPlay, wire_answer]
    rfl
  · exact keepsAddress_of_wire (wire_serveWith fun _ _ _ => rfl)

theorem keepsAddress_readPage (f : Option ReadPageFields) (s : State) : KeepsAddress s (execReadPage f s) := by
  refine keepsAddress_of_wire ?_
  split
  · dsimp only
    split
    · exact wire_answer _ _ _ _
    · rfl
  · exact wire_serveWith fun _ _ _ => rfl

/-- Every command but POWER_ON keeps the device address, and forms no return frame that does not carry it. -/
theorem exec_keepsAddress (c : Instr) (s : State) (noPowerOn : ∀ pins, c ≠ .powerOn pins) : KeepsAddress s (exec c s) := by
  cases c with
  | powerOn pins => exact absurd rfl (noPowerOn pins)
  | framePeriodEvent => exact keepsAddress_framePeriodEvent s
  | softReset => exact keepsAddress_softReset s
  | programmeFrameArrival bytes => exact keepsAddress_of_wire (wire_eq_iff.2 ⟨address_arrive s.link bytes, rfl⟩)
  | gateDeadline g => exact keepsAddress_gateDeadline g s
  | joinDeadline g => exact keepsAddress_joinDeadline g s
  | gateOpening g => exact keepsAddress_event s _ _
  | cueDispatch r => exact keepsAddress_cueDispatch r s
  | leadInStart r => exact keepsAddress_event s _ _
  | armTimerExpiry r => exact keepsAddress_event s _ _
  | breakTimerExpiry r => exact keepsAddress_event s _ _
  | rampCompletion h => exact keepsAddress_rampCompletion h s
  | itemEnd v => exact keepsAddress_itemEnd v s
  | loopWrap v => exact keepsAddress_event s _ _
  | primedEntryStart r => exact keepsAddress_event s _ _
  | fillerStartAfterSkip r => exact keepsAddress_event s _ _
  | poolRequest r => exact keepsAddress_event s _ _
  | decisionPoint r => exact keepsAddress_event s _ _
  | mixStart r => exact keepsAddress_event s _ _
  | lateCrossfadeStart r => exact keepsAddress_event s _ _
  | readStart => exact keepsAddress_readStart s
  | readDelivery a b c => exact keepsAddress_readDelivery a b c s
  | verifyTake => exact keepsAddress_verifyTake s
  | storeOperationStart => exact keepsAddress_storeOperationStart s
  | pageProgramComplete pass => exact keepsAddress_pageProgramComplete pass s
  | blockEraseComplete pass => exact keepsAddress_blockEraseComplete pass s
  | eraseSuspended => exact keepsAddress_eraseSuspended s
  | settingsWriteComplete => exact keepsAddress_settingsWriteComplete s
  | unknownKind => exact keepsAddress_of_wire (wire_serve fun _ _ => rfl)
  | identify => exact keepsAddress_of_wire (wire_servePlain fun _ _ => rfl)
  | resetEnable => exact keepsAddress_of_wire (wire_servePlain fun _ _ => rfl)
  | reset => exact keepsAddress_of_wire (wire_servePlain fun m t => by split <;> rfl)
  | configureRegion f =>
    refine keepsAddress_of_wire (wire_serveWith fun f _ t => ?_)
    split
    · exact wire_configure t _ f
    · rfl
  | regionStatus f => exact keepsAddress_of_wire (wire_serveWith fun n _ t => by split <;> rfl)
  | forceNetwork f => exact keepsAddress_forceNetwork f s
  | releaseBypass f =>
    refine keepsAddress_of_wire (wire_serveWith fun _ _ t => ?_)
    repeat' split
    all_goals rfl
  | openPlan f =>
    refine keepsAddress_of_wire (wire_serveWith fun f _ t => wire_onSlot fun r n x => ?_)
    repeat' split
    all_goals rfl
  | appendItem f =>
    refine keepsAddress_of_wire (wire_serveWith fun f _ t => wire_onSlot fun r n x => ?_)
    split
    · split
      · exact wire_append t r n _ _
      · rfl
    · rfl
  | closePlan f =>
    refine keepsAddress_of_wire (wire_serveWith fun f _ t => wire_onSlot fun r n x => ?_)
    split
    · exact wire_closePlan t r n _
    · rfl
  | clearPlan f => exact keepsAddress_of_wire (wire_serveWith fun f _ t => wire_onSlot fun _ _ _ => rfl)
  | readPlan f => exact keepsAddress_of_wire (wire_serveWith fun f _ t => wire_onSlot fun _ _ _ => rfl)
  | voiceStatus f => exact keepsAddress_of_wire (wire_serveWith fun n _ t => by split <;> rfl)
  | setGroupLevel f =>
    refine keepsAddress_of_wire (wire_serveWith fun f _ t => ?_)
    repeat' split
    all_goals rfl
  | readLevels => exact keepsAddress_of_wire (wire_servePlain fun _ _ => rfl)
  | configureLinkGroup f =>
    refine keepsAddress_of_wire (wire_serveWith fun f _ t => ?_)
    repeat' split
    all_goals rfl
  | gateStatus f => exact keepsAddress_of_wire (wire_serveWith fun n _ t => by split <;> rfl)
  | directoryQuery f => exact keepsAddress_of_wire (wire_serveWith fun n _ t => by split <;> rfl)
  | clipStatus f => exact keepsAddress_of_wire (wire_serveWith fun n _ t => by split <;> rfl)
  | storeUnlock => exact keepsAddress_of_wire (wire_servePlain fun _ t => by split <;> rfl)
  | loadPageData f => exact keepsAddress_of_wire (wire_serveWith fun f _ t => by split <;> rfl)
  | commitPage f => exact keepsAddress_of_wire (wire_storeRequest fun _ _ _ => rfl)
  | eraseBlock f => exact keepsAddress_of_wire (wire_storeRequest fun block m t => wire_retire _ block)
  | setProtectBoundary f => exact keepsAddress_of_wire (wire_storeRequest fun _ _ _ => rfl)
  | raiseLockFloor f => exact keepsAddress_of_wire (wire_storeRequest fun _ _ _ => rfl)
  | verifyClip f => exact keepsAddress_of_wire (wire_serveWith fun n _ t => by split <;> rfl)
  | readPage f => exact keepsAddress_readPage f s
  | remapStatus f => exact keepsAddress_of_wire (wire_serveWith fun n _ t => by split <;> rfl)
  | fetchAsRun f => exact keepsAddress_of_wire (wire_serveWith fun _ _ _ => rfl)
  | asRunStatus => exact keepsAddress_of_wire (wire_servePlain fun _ _ => rfl)
  | linkStatus => exact keepsAddress_of_wire (wire_servePlain fun _ _ => rfl)

/-- A step takes the command in front of the queue, or forms a sample, which forms no return frame. -/
theorem step_keepsAddress (s : State) (noPowerOn : ∀ pins, s.pending.head? ≠ some (.powerOn pins)) : KeepsAddress s (step s) := by
  unfold step
  cases waiting : s.pending with
  | nil => exact keepsAddress_of_wire (wire_formSample s)
  | cons c rest =>
    have other : ∀ pins, c ≠ .powerOn pins := fun pins isPowerOn => noPowerOn pins (by rw [waiting, isPowerOn]; rfl)
    exact exec_keepsAddress c { s with pending := rest } other

/-- Settles O8: POWER_ON samples the pins, `step_keepsAddress` is what every other step does, and taking the message of an Identify
leaves the address that it reports. -/
theorem addressSampledOnce : Obligations.AddressSampledOnce := by
  refine ⟨?sampled, ?kept, ?reported⟩
  case sampled => exact fun s pins => ⟨_, rfl, rfl⟩
  case kept =>
    intro s t noPowerOn stepped
    obtain ⟨u, next, carries⟩ := step_keepsAddress s noPowerOn
    cases stepped.symm.trans next
    exact carries
  case reported =>
    intro s m rest takes plain
    exact ⟨_, congrArg Host.Outcome.next (servePlain_answered takes plain rfl), rfl⟩

end Sys2Proof.Machine

/-! # Identify (O42): the identity record (R173), read at the taking -/

namespace Sys2Proof.Machine

/-! ## The identity record -/

theorem identity_eq (s : State) : s.identity =
    { vendor := 0x3A71, part := 2432, revision := 1, address := s.link.address, regions := 24, voices := 32, blocks := 32768,
      spares := 256, sparesUsed := s.settings.remap.length + s.settings.spent.length, boundary := s.settings.boundary,
      floor := s.settings.floor, directory := s.play.dir.state } := rfl

/-- No field of the record is the Management Agent's, so the record read after the message is taken is the one before it. -/
@[simp] theorem identity_modAgent (s : State) (f : Agent → Agent) : (s.modAgent f).identity = s.identity := rfl

/-! ## IDENTIFY (R173) -/

theorem exec_identify_eq (s : State) : exec .identify s = execIdentify s := rfl

/-- Settles O42: taking the message leaves the identity record as it was, and the request leaves the state and answers that record. -/
theorem identifyAnswers : Obligations.IdentifyAnswers := by
  intro s m rest takes plain
  rw [exec_identify_eq, ← identity_eq]
  refine congrArg Host.Outcome.next (servePlain_answered takes plain ?_)
  intro t
  rw [identity_modAgent]

end Sys2Proof.Machine

/-! # What the commands leave of the Store Controller and the group levels: the layer under O3, O4 and O5 -/

namespace Sys2Proof.Machine

/-! ## Relations that a request keeps -/

/-- A relation between two states that does not look at the Management Agent. -/
structure AgentBlind (R : State → State → Prop) : Prop where
  refl : ∀ s, R s s
  trans : ∀ {s t u}, R s t → R t u → R s u
  agent : ∀ s f, R s (s.modAgent f)

section
variable {R : State → State → Prop}

theorem AgentBlind.answer (blind : AgentBlind R) (s : State) (m : Message) (code : Code) (body : Body) : R s (s.answer m code body) := by
  unfold State.answer
  split
  · exact blind.refl s
  · exact blind.agent s _

/-- A request relates the states before and after it as its action does. -/
theorem AgentBlind.serve (blind : AgentBlind R) {s : State} {kind : Nat → Bool} {act : Message → State → Answer}
    (acts : ∀ m t, R t (act m t).state) : R s (s.serve kind act) := by
  rcases serve_cases s kind act with idle | ⟨m, rest, -, taken⟩
  · rw [idle]
    exact blind.refl s
  · rw [taken]
    exact blind.trans (blind.agent s _) (blind.trans (acts m _) (blind.answer _ _ _ _))

theorem AgentBlind.servePlain (blind : AgentBlind R) {s : State} {kind : Nat} {act : Message → State → Answer}
    (acts : ∀ m t, R t (act m t).state) : R s (s.servePlain kind act) :=
  blind.serve fun m t => by
    split
    · exact acts m t
    · exact blind.refl t

theorem AgentBlind.serveWith (blind : AgentBlind R) {α : Type} {s : State} {kind : Nat} {f : Option α} {act : α → Message → State → Answer}
    (acts : ∀ x m t, R t (act x m t).state) : R s (s.serveWith kind f act) :=
  blind.serve fun m t => by
    cases f with
    | some x => exact acts x m t
    | none => exact blind.refl t

theorem AgentBlind.onSlot (blind : AgentBlind R) {s : State} {region slot : Nat} {act : Region → Fin 16 → Slot → Answer}
    (acts : ∀ r n, R s (act r n (s.play.slot r n)).state) : R s (s.onSlot region slot act).state := by
  unfold State.onSlot
  split
  · exact acts _ _
  · exact blind.refl s

/-- A store request whose tests pass acts on the state with the latch cleared. -/
theorem AgentBlind.storeRequest (blind : AgentBlind R) (latch : ∀ t : State, R t t.lock) {α : Type} {s : State} {kind : Nat}
    {f : Option α} {tests : α → State → List (Bool × Code)} {act : α → Message → State → Answer}
    (acts : ∀ x m t, firstRefusal (tests x t) = none → R t.lock (act x m t.lock).state) : R s (s.storeRequest kind f tests act) :=
  blind.serve fun m t => by
    cases f with
    | none => exact latch t
    | some x =>
      dsimp only
      split
      · exact latch t
      · rename_i passed
        refine blind.trans (latch t) (acts x m t ?_)
        simp only [firstRefusal] at passed
        split at passed
        · cases passed
        · split at passed
          · cases passed
          · exact passed

end

/-! ## The stores and the group levels as they were -/

/-- The store, but for the phase of the current step, and the group levels are as they were. -/
structure SameStocks (s t : State) : Prop extends SameStore s t where
  levels : t.levels = s.levels

theorem SameStocks.refl (s : State) : SameStocks s s := ⟨.refl s, rfl⟩

theorem SameStocks.trans {s t u : State} (first : SameStocks s t) (second : SameStocks t u) : SameStocks s u :=
  ⟨first.toSameStore.trans second.toSameStore, second.levels.trans first.levels⟩

theorem SameRest.sameStocks {s t : State} (same : SameRest s t) : SameStocks s t := ⟨same.toSameStore, same.levels⟩

/-- A state that differs in none of the three stores and not in the levels. -/
theorem SameStocks.of_eq {s t : State} (store : t.store = s.store) (settings : t.settings = s.settings) (flash : t.flash = s.flash)
    (levels : t.levels = s.levels) : SameStocks s t := ⟨.of_eq store settings flash, levels⟩

theorem agentBlind_sameStocks : AgentBlind SameStocks :=
  ⟨.refl, .trans, fun _ _ => .of_eq rfl rfl rfl rfl⟩

theorem sameStocks_lock (s : State) : SameStocks s s.lock := ⟨⟨rfl, rfl, rfl, rfl, rfl, rfl, rfl⟩, rfl⟩

theorem sameStocks_play (s : State) (p : Play) : SameStocks s { s with play := p } := .of_eq rfl rfl rfl rfl

theorem sameStocks_inFlight (s : State) (f : Option InFlight) : SameStocks s { s with inFlight := f } := .of_eq rfl rfl rfl rfl

theorem sameStocks_raise (s : State) (tag : Nat) (n : Notice) : SameStocks s (s.raise tag n) := .of_eq rfl rfl rfl rfl

theorem sameStocks_modDir (s : State) (f : Directory → Directory) : SameStocks s (s.modDir f) := .of_eq rfl rfl rfl rfl

theorem sameStocks_putSlot (s : State) (r : Region) (n : Fin 16) (x : Slot) : SameStocks s (s.putSlot r n x) := .of_eq rfl rfl rfl rfl

/-! ## The commands that touch neither -/

/-- The commands that may change the store beyond the phase of its current step, or the group levels. -/
def touchesStocks : Instr → Bool
  | .powerOn _ | .framePeriodEvent | .softReset | .rampCompletion _ | .readDelivery .. | .storeOperationStart
  | .pageProgramComplete _ | .blockEraseComplete _ | .eraseSuspended | .settingsWriteComplete | .setGroupLevel _ | .loadPageData _
  | .commitPage _ | .eraseBlock _ | .setProtectBoundary _ | .raiseLockFloor _ => true
  | _ => false

/-- A command completes with the stores and the group levels as they were. -/
def KeepsStocks (s : State) (o : Host.Outcome State Fault Refusal) : Prop := ∃ t, o = .next t ∧ SameStocks s t

theorem KeepsStocks.next {s t : State} (same : SameStocks s t) : KeepsStocks s (.next t) := ⟨t, rfl, same⟩

theorem keepsStocks_event (s : State) (due : Bool) (f : Play → Now → Play) : KeepsStocks s (.next (s.event due f)) :=
  .next (sameRest_event s due f).sameStocks

theorem keepsStocks_cueDispatch (r : Region) (s : State) : KeepsStocks s (execCueDispatch r s) := by
  unfold execCueDispatch
  split
  · refine .next ?_
    split
    · exact .trans (t := s.dispatch r _) (.of_eq rfl rfl rfl rfl) (sameRest_taken _ _).sameStocks
    · exact .refl s
  · exact .next (.refl s)

theorem sameStocks_launch (s : State) (q : ReadRequest) : SameStocks s (s.launch q) := by
  unfold State.launch
  dsimp only
  split
  case h_2 =>
    exact (sameStocks_inFlight s _).trans
      ⟨sameStore_modCurrent _ (fun c => { c with started := true }) fun c => ⟨rfl, rfl⟩, rfl⟩
  all_goals exact .of_eq rfl rfl rfl rfl

theorem keepsStocks_forceNetwork (f : Option Nat) (s : State) : KeepsStocks s (execForceNetwork f s) := by
  unfold execForceNetwork
  split
  · rename_i r m rest _ _
    let t := (s.modAgent fun a => a.taking m rest).answer m .ok .none
    let u : State := { t with play := t.play.forceNetwork t.now r }
    have answered : SameStocks s t := agentBlind_sameStocks.trans (agentBlind_sameStocks.agent s _) (agentBlind_sameStocks.answer _ _ _ _)
    have forced : SameStocks s u := answered.trans (sameStocks_play t _)
    exact .next ((forced.trans (sameRest_grantReturned u).sameStocks).trans (sameRest_settleArray _).sameStocks)
  · exact .next (agentBlind_sameStocks.serveWith fun _ _ t => .refl t)

theorem keepsStocks_readPage (f : Option ReadPageFields) (s : State) : KeepsStocks s (execReadPage f s) := by
  refine .next ?_
  split
  · dsimp only
    split
    · exact agentBlind_sameStocks.trans (agentBlind_sameStocks.agent s _) (agentBlind_sameStocks.answer _ _ _ _)
    · exact .of_eq rfl rfl rfl rfl
  · exact agentBlind_sameStocks.serveWith fun _ _ t => .refl t

theorem sameStocks_configure (s : State) (r : Region) (f : ConfigureRegionFields) : SameStocks s (s.configure r f).state := by
  unfold State.configure
  dsimp only
  repeat' split
  all_goals exact .of_eq rfl rfl rfl rfl

theorem sameStocks_append (s : State) (r : Region) (n : Fin 16) (pl : Plan) (it : PlanItem) :
    SameStocks s (s.append r n pl it).state := by
  unfold State.append
  split
  · exact .refl s
  · exact sameStocks_putSlot s r n _

theorem sameStocks_closePlan (s : State) (r : Region) (n : Fin 16) (pl : Plan) : SameStocks s (s.closePlan r n pl).state := by
  unfold State.closePlan
  repeat' split
  all_goals exact .of_eq rfl rfl rfl rfl

theorem sameStocks_verifyTake (s : State) : SameStocks s s.verifyTake := by
  unfold State.verifyTake
  split
  · exact .of_eq rfl rfl rfl rfl
  · exact .refl s

/-- A command that is not listed as touching the stocks completes, and leaves them. -/
theorem exec_keepsStocks (c : Instr) (s : State) (untouched : touchesStocks c = false) : KeepsStocks s (exec c s) := by
  have blind := agentBlind_sameStocks
  cases c with
  | powerOn | framePeriodEvent | softReset | rampCompletion | readDelivery | storeOperationStart | pageProgramComplete
  | blockEraseComplete | eraseSuspended | settingsWriteComplete | setGroupLevel | loadPageData | commitPage | eraseBlock
  | setProtectBoundary | raiseLockFloor => cases untouched
  | programmeFrameArrival bytes => exact .next (.of_eq rfl rfl rfl rfl)
  | gateDeadline g => exact .next (by split <;> exact .of_eq rfl rfl rfl rfl)
  | joinDeadline g => exact .next (by split <;> exact .of_eq rfl rfl rfl rfl)
  | gateOpening g => exact keepsStocks_event s _ _
  | cueDispatch r => exact keepsStocks_cueDispatch r s
  | leadInStart r => exact keepsStocks_event s _ _
  | armTimerExpiry r => exact keepsStocks_event s _ _
  | breakTimerExpiry r => exact keepsStocks_event s _ _
  | itemEnd v =>
    refine .next ?_
    split
    · exact (sameRest_event s _ _).sameStocks
    · exact .refl s
  | loopWrap v => exact keepsStocks_event s _ _
  | primedEntryStart r => exact keepsStocks_event s _ _
  | fillerStartAfterSkip r => exact keepsStocks_event s _ _
  | poolRequest r => exact keepsStocks_event s _ _
  | decisionPoint r => exact keepsStocks_event s _ _
  | mixStart r => exact keepsStocks_event s _ _
  | lateCrossfadeStart r => exact keepsStocks_event s _ _
  | readStart =>
    show KeepsStocks s (execReadStart s)
    unfold execReadStart
    split
    · exact .next (sameStocks_launch s _)
    · exact .next (.refl s)
  | verifyTake =>
    refine .next ?_
    split
    · exact sameStocks_verifyTake s
    · exact .refl s
  | unknownKind => exact .next (blind.serve fun _ t => .refl t)
  | identify => exact .next (blind.servePlain fun _ t => .refl t)
  | resetEnable => exact .next (blind.servePlain fun _ _ => .of_eq rfl rfl rfl rfl)
  | reset =>
    refine .next (blind.servePlain fun m t => ?_)
    split
    · exact .of_eq rfl rfl rfl rfl
    · exact .refl t
  | configureRegion f =>
    refine .next (blind.serveWith fun f _ t => ?_)
    split
    · exact sameStocks_configure t _ f
    · exact .refl t
  | regionStatus f => exact .next (blind.serveWith fun n _ t => by split <;> exact .of_eq rfl rfl rfl rfl)
  | forceNetwork f => exact keepsStocks_forceNetwork f s
  | releaseBypass f =>
    refine .next (blind.serveWith fun _ _ t => ?_)
    repeat' split
    all_goals exact .of_eq rfl rfl rfl rfl
  | openPlan f =>
    refine .next (blind.serveWith fun f _ t => blind.onSlot fun r n => ?_)
    repeat' split
    all_goals exact .of_eq rfl rfl rfl rfl
  | appendItem f =>
    refine .next (blind.serveWith fun f _ t => blind.onSlot fun r n => ?_)
    split
    · split
      · exact sameStocks_append t r n _ _
      · exact .refl t
    · exact .refl t
  | closePlan f =>
    refine .next (blind.serveWith fun f _ t => blind.onSlot fun r n => ?_)
    split
    · exact sameStocks_closePlan t r n _
    · exact .refl t
  | clearPlan f => exact .next (blind.serveWith fun f _ t => blind.onSlot fun r n => sameStocks_putSlot t r n _)
  | readPlan f => exact .next (blind.serveWith fun f _ t => blind.onSlot fun _ _ => .refl t)
  | voiceStatus f => exact .next (blind.serveWith fun n _ t => by split <;> exact .refl t)
  | readLevels => exact .next (blind.servePlain fun _ t => .refl t)
  | configureLinkGroup f =>
    refine .next (blind.serveWith fun f _ t => ?_)
    repeat' split
    all_goals exact .of_eq rfl rfl rfl rfl
  | gateStatus f => exact .next (blind.serveWith fun n _ t => by split <;> exact .refl t)
  | directoryQuery f => exact .next (blind.serveWith fun n _ t => by split <;> exact .refl t)
  | clipStatus f => exact .next (blind.serveWith fun n _ t => by split <;> exact .refl t)
  | storeUnlock =>
    refine .next (blind.servePlain fun _ t => ?_)
    split
    · exact .refl t
    · exact ⟨⟨rfl, rfl, rfl, rfl, rfl, rfl, rfl⟩, rfl⟩
  | verifyClip f =>
    refine .next (blind.serveWith fun n _ t => ?_)
    split
    · exact .refl t
    · exact .of_eq rfl rfl rfl rfl
  | readPage f => exact keepsStocks_readPage f s
  | remapStatus f => exact .next (blind.serveWith fun n _ t => by split <;> exact .refl t)
  | fetchAsRun f => exact .next (blind.serveWith fun _ _ t => sameStocks_play t _)
  | asRunStatus => exact .next (blind.servePlain fun _ t => .refl t)
  | linkStatus => exact .next (blind.servePlain fun _ t => .refl t)

/-! ## What a region event and a delivery to another requester leave -/

theorem sameStocks_afterDelivery (s : State) (who : Requester) : SameStocks s (s.afterDelivery who) := by
  unfold State.afterDelivery
  split
  · exact (sameRest_grantReturned s).sameStocks
  · exact .refl s

theorem sameStocks_deliverPage (s : State) (image : PageImage) (e : ReadEnd) (block : Nat) :
    SameStocks s (s.deliverPage image e block) := by
  unfold State.deliverPage
  split
  · exact sameStocks_play s _
  · exact .refl s

theorem sameStocks_deliverVerify (s : State) (image : PageImage) (r : ReadEnd) : SameStocks s (s.deliverVerify image r) := by
  unfold State.deliverVerify
  dsimp only
  repeat' split
  all_goals exact .of_eq rfl rfl rfl rfl

theorem sameStocks_scanOn (s : State) (block : Nat) : SameStocks s (s.scanOn block) := by
  unfold State.scanOn
  dsimp only
  split
  all_goals exact .of_eq rfl rfl rfl rfl

theorem sameStocks_deliverScan (s : State) (image : PageImage) (e : ReadEnd) : SameStocks s (s.deliverScan image e) := by
  unfold State.deliverScan State.scanHead
  dsimp only
  split
  · exact (sameStocks_modDir s _).trans (sameStocks_scanOn _ _)
  · split
    · split
      · split
        · exact ((sameStocks_modDir s _).trans (sameStocks_raise _ _ _)).trans (sameStocks_scanOn _ _)
        · exact (sameStocks_modDir s _).trans (sameStocks_scanOn _ _)
      · exact sameStocks_scanOn s _
    · exact sameStocks_scanOn s _
    · exact sameStocks_scanOn s _

/-- A delivery leaves the stocks, unless it is the copy read of a relocation, which takes the operation to its next step. -/
theorem deliver_stocks (s : State) (f : InFlight) (a b c : Attempt) : SameStocks s (s.deliver f a b c) ∨
    ∃ page e, s.deliver f a b c = ({ s with inFlight := none } : State).deliverCopy (readFlash s.flash page) e := by
  have landed : SameStocks s { s with inFlight := none } := .of_eq rfl rfl rfl rfl
  unfold State.deliver
  dsimp only
  cases f.who with
  | voice v => exact .inl (.of_eq rfl rfl rfl rfl)
  | relocation => exact .inr ⟨_, _, rfl⟩
  | readPage => exact .inl (landed.trans (sameStocks_deliverPage _ _ _ _))
  | verify => exact .inl (landed.trans (sameStocks_deliverVerify _ _ _))
  | cancelledVerify => exact .inl landed
  | scan => exact .inl (landed.trans (sameStocks_deliverScan _ _ _))
  | discarded => exact .inl landed

theorem sameStore_rampCompletion (h : RampHolder) (s : State) : ∃ t, exec (.rampCompletion h) s = .next t ∧ SameStore s t ∧
    t.levels[0] = s.levels[0] := by
  cases h with
  | bed r =>
    have same := (sameRest_event s (s.play.region r).bed.complete fun p t => p.bedRampEnd t r).sameStocks
    exact ⟨_, rfl, same.toSameStore, by rw [same.levels]⟩
  | voice v =>
    refine ⟨_, rfl, ?_⟩
    dsimp only
    split
    · rename_i r _
      have same := (sameRest_event s (s.play.voice v).rampDue fun p t => p.voiceRampEnd t r v).sameStocks
      exact ⟨same.toSameStore, by rw [same.levels]⟩
    · exact ⟨.refl s, rfl⟩
  | group g =>
    refine ⟨_, rfl, ?_⟩
    dsimp only
    split
    · exact ⟨.refl s, rfl⟩
    · rename_i above
      exact ⟨.of_eq rfl rfl rfl, setGroup_other s.levels g 0 _ above⟩

theorem exec_setGroupLevel_stocks (f : Option GroupLevelFields) (s : State) : ∃ t, exec (.setGroupLevel f) s = .next t ∧
    SameStore s t ∧ t.levels[0] = s.levels[0] := by
  let R : State → State → Prop := fun s t => SameStore s t ∧ t.levels[0] = s.levels[0]
  have blind : AgentBlind R :=
    ⟨fun s => ⟨.refl s, rfl⟩, fun a b => ⟨a.1.trans b.1, b.2.trans a.2⟩, fun _ _ => ⟨.of_eq rfl rfl rfl, rfl⟩⟩
  refine ⟨_, rfl, blind.serveWith fun f _ t => ?_⟩
  split
  · split
    · exact blind.refl t
    · rename_i g _ above
      exact ⟨.of_eq rfl rfl rfl, setGroup_other t.levels g 0 _ above⟩
  · exact blind.refl t

end Sys2Proof.Machine

/-! # The work of the array: what the store operations, the deliveries to no voice and the store requests may change at all -/

namespace Sys2Proof.Machine

/-- Only the store, the Settings Area, the flash array, the Verify Unit, the read in flight, the directory, the Management Agent and the
count of the free values drawn may differ. -/
def ArrayWork (s t : State) : Prop := ∃ store settings flash occasion verify inFlight dir agent,
  t = { s with store := store, settings := settings, flash := flash, occasion := occasion, verify := verify, inFlight := inFlight,
               play := { s.play with dir := dir, agent := agent } }

namespace ArrayWork

theorem refl (s : State) : ArrayWork s s := ⟨_, _, _, _, _, _, _, _, rfl⟩

theorem trans {s t u : State} (first : ArrayWork s t) (second : ArrayWork t u) : ArrayWork s u := by
  obtain ⟨_, _, _, _, _, _, _, _, rfl⟩ := first
  obtain ⟨_, _, _, _, _, _, _, _, rfl⟩ := second
  exact ⟨_, _, _, _, _, _, _, _, rfl⟩

theorem blind : AgentBlind ArrayWork := ⟨refl, trans, fun _ _ => ⟨_, _, _, _, _, _, _, _, rfl⟩⟩

section
variable {s t : State} (work : ArrayWork s t)
include work

theorem levels : t.levels = s.levels := by obtain ⟨_, _, _, _, _, _, _, _, rfl⟩ := work; rfl
theorem link : t.link = s.link := by obtain ⟨_, _, _, _, _, _, _, _, rfl⟩ := work; rfl
theorem cues : t.cues = s.cues := by obtain ⟨_, _, _, _, _, _, _, _, rfl⟩ := work; rfl
theorem waiting : t.pending = s.pending := by obtain ⟨_, _, _, _, _, _, _, _, rfl⟩ := work; rfl
theorem regions : t.play.regions = s.play.regions := by obtain ⟨_, _, _, _, _, _, _, _, rfl⟩ := work; rfl
theorem plans : t.play.plans = s.play.plans := by obtain ⟨_, _, _, _, _, _, _, _, rfl⟩ := work; rfl
theorem voices : t.play.voices = s.play.voices := by obtain ⟨_, _, _, _, _, _, _, _, rfl⟩ := work; rfl
theorem log : t.play.log = s.play.log := by obtain ⟨_, _, _, _, _, _, _, _, rfl⟩ := work; rfl

end

/-! ## The pieces -/

theorem withStore (s : State) (st : Store) : ArrayWork s { s with store := st } := ⟨_, _, _, _, _, _, _, _, rfl⟩
theorem withFlash (s : State) (fl : List (Nat × PageImage)) : ArrayWork s { s with flash := fl } := ⟨_, _, _, _, _, _, _, _, rfl⟩
theorem withSettings (s : State) (x : Settings) : ArrayWork s { s with settings := x } := ⟨_, _, _, _, _, _, _, _, rfl⟩
theorem withVerify (s : State) (j : Option VerifyJob) : ArrayWork s { s with verify := j } := ⟨_, _, _, _, _, _, _, _, rfl⟩
theorem withInFlight (s : State) (f : Option InFlight) : ArrayWork s { s with inFlight := f } := ⟨_, _, _, _, _, _, _, _, rfl⟩
theorem raise (s : State) (tag : Nat) (n : Notice) : ArrayWork s (s.raise tag n) := ⟨_, _, _, _, _, _, _, _, rfl⟩
theorem modDir (s : State) (f : Directory → Directory) : ArrayWork s (s.modDir f) := ⟨_, _, _, _, _, _, _, _, rfl⟩
theorem modStore (s : State) (f : Store → Store) : ArrayWork s (s.modStore f) := ⟨_, _, _, _, _, _, _, _, rfl⟩
theorem modCurrent (s : State) (f : Current → Current) : ArrayWork s (s.modCurrent f) := ⟨_, _, _, _, _, _, _, _, rfl⟩
theorem goStage (s : State) (st : Stage) : ArrayWork s (s.goStage st) := ⟨_, _, _, _, _, _, _, _, rfl⟩
theorem beginOp (s : State) (op : StoreOp) (st : Stage) : ArrayWork s (s.beginOp op st) := ⟨_, _, _, _, _, _, _, _, rfl⟩
theorem writePage (s : State) (page : Nat) (i : PageImage) : ArrayWork s (s.writePage page i) := ⟨_, _, _, _, _, _, _, _, rfl⟩
theorem loosen (s : State) (block : Nat) : ArrayWork s (s.loosen block) := ⟨_, _, _, _, _, _, _, _, rfl⟩

theorem settleArray (s : State) : ArrayWork s s.settleArray := by
  obtain ⟨_, form, -⟩ := settleArray_form s
  rw [form]
  exact withStore s _

theorem loosenErasing (s : State) (c : Current) : ArrayWork s (s.loosenErasing c) := by
  unfold State.loosenErasing
  split
  · exact loosen s _
  · exact refl s

/-! ## Ends of operations and their steps -/

theorem registerHead (s : State) (op : StoreOp) : ArrayWork s (s.registerHead op) := by
  unfold State.registerHead
  split
  · split
    · exact modDir s _
    · exact refl s
  · exact refl s

theorem closeOp (s : State) (op : StoreOp) (good : Bool) : ArrayWork s (s.closeOp op good) := by
  cases op with
  | commit page tag head =>
    cases good with
    | true => exact (registerHead s _).trans (withStore _ _)
    | false => exact withStore s _
  | erase block tag => exact modDir s fun d => d.emptyRetiring block
  | boundary value tag => exact refl s
  | floor value boundary tag => exact refl s

theorem endStore (s : State) (op : StoreOp) (r : StoreResult) : ArrayWork s (s.endStore op r) :=
  ((closeOp s op r.good).trans (withStore _ _)).trans (raise _ _ _)

theorem endRemapped (s : State) (op : StoreOp) (m : Spares) (cause : RemapCause) : ArrayWork s (s.endRemapped op m cause) :=
  (endStore s op .remapped).trans (raise _ _ _)

theorem startOp (s : State) (op : StoreOp) : ArrayWork s (s.startOp op) := by
  unfold State.startOp
  repeat' split
  all_goals first
    | exact endStore s _ _
    | exact beginOp s _ _

theorem startHead (s : State) : ArrayWork s s.startHead := by
  unfold State.startHead
  split
  · exact (withStore s _).trans (startOp _ _)
  · exact refl s

theorem beginReloc (s : State) (spent : List Nat) : ArrayWork s (s.beginReloc spent) := by
  unfold State.beginReloc
  split <;> exact goStage s _

theorem beginRemap (s : State) : ArrayWork s s.beginRemap := by
  unfold State.beginRemap
  split <;> exact goStage s _

theorem copyFrom (s : State) (op : StoreOp) (m : Spares) (i : Nat) : ArrayWork s (s.copyFrom op m i) := by
  unfold State.copyFrom
  split <;> exact goStage s _

theorem programEnds (s : State) (c : Current) (pass : Bool) : ArrayWork s (s.programEnds c pass) := by
  unfold State.programEnds
  split
  · split
    · split
      · exact (writePage s _ _).trans (endStore _ _ _)
      · exact beginReloc s _
    · exact refl s
  · split
    · exact (writePage s _ _).trans (copyFrom _ _ _ _)
    · exact beginReloc s _
  · split
    · exact (writePage s _ _).trans (goStage _ _)
    · exact beginReloc s _
  · exact refl s

theorem eraseEnds (s : State) (c : Current) (pass : Bool) : ArrayWork s (s.eraseEnds c pass) := by
  unfold State.eraseEnds
  dsimp only
  split
  · split
    · exact (withFlash s _).trans (endStore _ _ _)
    · exact (loosen s _).trans (beginRemap _)
  · split
    · exact (withFlash s _).trans (copyFrom _ _ _ _)
    · exact (loosen s _).trans (beginReloc _ _)
  · split
    · exact (withFlash s _).trans (endRemapped _ _ _ _)
    · split
      · exact (loosen s _).trans (goStage _ _)
      · exact (loosen s _).trans (goStage _ _)
  · exact refl s

theorem writeEnds (s : State) (c : Current) : ArrayWork s (s.writeEnds c) := by
  refine (withSettings s (s.settings.written c)).trans ?_
  unfold State.writeEnds State.afterWrite
  split
  · exact endStore _ _ _
  · exact endRemapped _ _ _ _
  · exact goStage _ _
  · exact endStore _ _ _
  · exact endStore _ _ _
  · exact refl _

/-! ## Deliveries to no voice, and the Verify Unit -/

theorem deliverCopy (s : State) (image : PageImage) (e : ReadEnd) : ArrayWork s (s.deliverCopy image e) := by
  unfold State.deliverCopy
  split
  · split
    · split
      · exact copyFrom s _ _ _
      · split
        · exact goStage s _
        · exact copyFrom s _ _ _
    · exact refl s
  · exact refl s

theorem deliverPage (s : State) (image : PageImage) (e : ReadEnd) (block : Nat) : ArrayWork s (s.deliverPage image e block) := by
  unfold State.deliverPage
  split
  · exact ⟨_, _, _, _, _, _, _, _, rfl⟩
  · exact refl s

theorem deliverVerify (s : State) (image : PageImage) (r : ReadEnd) : ArrayWork s (s.deliverVerify image r) := by
  unfold State.deliverVerify
  dsimp only
  repeat' split
  all_goals exact ⟨_, _, _, _, _, _, _, _, rfl⟩

theorem scanOn (s : State) (block : Nat) : ArrayWork s (s.scanOn block) := by
  unfold State.scanOn
  dsimp only
  split
  · exact modDir s _
  · exact (modDir s _).trans (raise _ _ _)

theorem deliverScan (s : State) (image : PageImage) (e : ReadEnd) : ArrayWork s (s.deliverScan image e) := by
  unfold State.deliverScan State.scanHead
  dsimp only
  split
  · exact (modDir s _).trans (scanOn _ _)
  · split
    · split
      · split
        · exact ((modDir s _).trans (raise _ _ _)).trans (scanOn _ _)
        · exact (modDir s _).trans (scanOn _ _)
      · exact scanOn s _
    · exact scanOn s _
    · exact scanOn s _

/-- A delivery is the work of the array, unless it is one to a voice, which changes the on-air blocks alone. -/
theorem deliver (s : State) (f : InFlight) (a b c : Attempt) : ArrayWork s (s.deliver f a b c) ∨
    ∃ v image e, f.who = .voice v ∧
      s.deliver f a b c = { s with inFlight := none, play := s.play.deliverVoice v image e } := by
  have landed : ArrayWork s { s with inFlight := none } := withInFlight s none
  unfold State.deliver
  dsimp only
  cases f.who with
  | voice v => exact .inr ⟨v, _, _, rfl, rfl⟩
  | relocation => exact .inl (landed.trans (deliverCopy _ _ _))
  | readPage => exact .inl (landed.trans (deliverPage _ _ _ _))
  | verify => exact .inl (landed.trans (deliverVerify _ _ _))
  | cancelledVerify => exact .inl landed
  | scan => exact .inl (landed.trans (deliverScan _ _ _))
  | discarded => exact .inl landed

theorem verifyTake (s : State) : ArrayWork s s.verifyTake := by
  unfold State.verifyTake
  split
  · exact (modDir s _).trans (withVerify _ _)
  · exact refl s

theorem cancelVerify (s : State) (clip : Nat) : ArrayWork s (s.cancelVerify clip) := by
  unfold State.cancelVerify
  dsimp only
  repeat' split
  all_goals exact ⟨_, _, _, _, _, _, _, _, rfl⟩

theorem retire (s : State) (block : Nat) : ArrayWork s (s.retire block) := by
  unfold State.retire
  split
  · exact (modDir s _).trans (cancelVerify _ _)
  · exact refl s

end ArrayWork

/-! ## The commands of the array -/

/-- The commands of the array and the store that change no on-air block but the directory and the agent. -/
def worksArray : Instr → Bool
  | .verifyTake | .storeOperationStart | .pageProgramComplete _ | .blockEraseComplete _ | .eraseSuspended | .settingsWriteComplete
  | .storeUnlock | .loadPageData _ | .commitPage _ | .eraseBlock _ | .setProtectBoundary _ | .raiseLockFloor _ | .verifyClip _
  | .readPage _ => true
  | _ => false

theorem arrayWork_readPage (f : Option ReadPageFields) (s : State) : ∃ t, execReadPage f s = .next t ∧ ArrayWork s t := by
  refine ⟨_, rfl, ?_⟩
  split
  · dsimp only
    split
    · exact ArrayWork.blind.trans (ArrayWork.blind.agent s _) (ArrayWork.blind.answer _ _ _ _)
    · exact ArrayWork.blind.trans (ArrayWork.blind.agent s _) (ArrayWork.blind.agent _ _)
  · exact ArrayWork.blind.serveWith fun _ _ t => .refl t

theorem exec_arrayWork (c : Instr) (s : State) (works : worksArray c = true) : ∃ t, exec c s = .next t ∧ ArrayWork s t := by
  have blind := ArrayWork.blind
  have latch : ∀ t : State, ArrayWork t t.lock := fun t => .modStore t _
  have request : ∀ {α : Type} (kind : Nat) (f : Option α) (tests : α → State → List (Bool × Code)) (act : α → Message → State → Answer),
      (∀ x m t, ArrayWork t (act x m t).state) → ArrayWork s (s.storeRequest kind f tests act) :=
    fun _ _ _ _ acts => blind.storeRequest latch fun x m t _ => acts x m t.lock
  cases c with
  | verifyTake =>
    refine ⟨_, rfl, ?_⟩
    split
    · exact .verifyTake s
    · exact .refl s
  | storeOperationStart =>
    refine ⟨_, rfl, ?_⟩
    split
    · exact (ArrayWork.startHead s).trans (.settleArray _)
    · exact .settleArray s
  | pageProgramComplete pass =>
    unfold exec execPageProgramComplete
    dsimp only
    split
    · exact ⟨_, rfl, (ArrayWork.programEnds s _ pass).trans (.settleArray _)⟩
    · exact ⟨_, rfl, .refl s⟩
  | blockEraseComplete pass =>
    unfold exec execBlockEraseComplete
    dsimp only
    split
    · exact ⟨_, rfl, (ArrayWork.eraseEnds s _ pass).trans (.settleArray _)⟩
    · exact ⟨_, rfl, .refl s⟩
  | eraseSuspended =>
    unfold exec execEraseSuspended
    dsimp only
    split
    · refine ⟨_, rfl, ?_⟩
      split
      · exact ((ArrayWork.loosenErasing s _).trans (.modCurrent _ _)).trans (.settleArray _)
      · exact .refl s
    · exact ⟨_, rfl, .refl s⟩
  | settingsWriteComplete =>
    unfold exec execSettingsWriteComplete
    dsimp only
    split
    · exact ⟨_, rfl, (ArrayWork.writeEnds s _).trans (.settleArray _)⟩
    · exact ⟨_, rfl, .refl s⟩
  | storeUnlock =>
    refine ⟨_, rfl, blind.servePlain fun _ t => ?_⟩
    split
    · exact .refl t
    · exact ⟨_, _, _, _, _, _, _, _, rfl⟩
  | loadPageData f =>
    refine ⟨_, rfl, blind.serveWith fun f _ t => ?_⟩
    split
    · exact .refl t
    · exact ⟨_, _, _, _, _, _, _, _, rfl⟩
  | commitPage f => exact ⟨_, rfl, request _ _ _ _ fun _ _ _ => ⟨_, _, _, _, _, _, _, _, rfl⟩⟩
  | eraseBlock f => exact ⟨_, rfl, request _ _ _ _ fun _ _ t => (ArrayWork.modStore t _).trans (.retire _ _)⟩
  | setProtectBoundary f => exact ⟨_, rfl, request _ _ _ _ fun _ _ _ => ⟨_, _, _, _, _, _, _, _, rfl⟩⟩
  | raiseLockFloor f => exact ⟨_, rfl, request _ _ _ _ fun _ _ _ => ⟨_, _, _, _, _, _, _, _, rfl⟩⟩
  | verifyClip f =>
    refine ⟨_, rfl, blind.serveWith fun n _ t => ?_⟩
    split
    · exact .refl t
    · exact ⟨_, _, _, _, _, _, _, _, rfl⟩
  | readPage f => exact arrayWork_readPage f s
  | _ => cases works

end Sys2Proof.Machine

/-! # Group 0 stays at unity (O4, R88), and the step that a command takes (O1) -/

namespace Sys2Proof.Machine

/-! ## A step -/

/-- Settles O1: the front of a queue that is not empty is a constructor case of `step`. -/
theorem stepRunsFrontCommand : Obligations.StepRunsFrontCommand := by
  intro s c rest waiting
  rw [step, waiting]

/-- A step forms a sample on an empty queue, and otherwise runs the command in front of it. -/
theorem step_cases {s t : State} (stepped : step s = .next t) : (s.pending = [] ∧ t = s.formSample) ∨
    ∃ c rest, s.pending = c :: rest ∧ exec c { s with pending := rest } = .next t := by
  cases waiting : s.pending with
  | nil =>
    rw [step, waiting] at stepped
    cases stepped
    exact .inl ⟨rfl, rfl⟩
  | cons c rest =>
    rw [stepRunsFrontCommand s c rest waiting] at stepped
    exact .inr ⟨c, rest, rfl, stepped⟩

theorem eq_of_next {t u : State} {o : Host.Outcome State Fault Refusal} (reached : o = .next u) (completes : o = .next t) : t = u := by
  cases completes.symm.trans reached
  rfl

/-! ## The group levels -/

/-- Every command but these keeps every group level: the resets, the frame period event, a ramp's completion, a group request, and a
delivery. -/
theorem exec_keepsLevels (c : Instr) (s : State) (keeps : touchesStocks c = false ∨ worksArray c = true) :
    ∃ t, exec c s = .next t ∧ t.levels = s.levels := by
  rcases keeps with untouched | works
  · obtain ⟨t, reached, same⟩ := exec_keepsStocks c s untouched
    exact ⟨t, reached, same.levels⟩
  · obtain ⟨t, reached, work⟩ := exec_arrayWork c s works
    exact ⟨t, reached, work.levels⟩

theorem readDelivery_levels (a b c : Attempt) (s : State) : ∃ t, exec (.readDelivery a b c) s = .next t ∧ t.levels = s.levels := by
  show ∃ t, execReadDelivery a b c s = .next t ∧ t.levels = s.levels
  unfold execReadDelivery
  split
  · rename_i f _
    refine ⟨_, rfl, ?_⟩
    have delivered : (s.deliver f a b c).levels = s.levels := by
      rcases ArrayWork.deliver s f a b c with work | ⟨_, _, _, -, voice⟩
      · exact work.levels
      · rw [voice]
    rw [(ArrayWork.settleArray _).levels, (sameStocks_afterDelivery _ _).levels, delivered]
  · exact ⟨_, rfl, rfl⟩

/-- Power-on and soft reset take every group to unity (R88). -/
theorem unity_resetBlocks (s : State) : UnityInv s.resetBlocks := by
  simp only [UnityInv, State.resetBlocks, Vector.getElem_replicate, GroupRec.reset]

theorem levels_withReturn (s : State) : s.withReturn.levels = s.levels := by
  unfold State.withReturn
  split <;> rfl

theorem unity_resetIfDue {s : State} (unity : UnityInv s) : UnityInv s.resetIfDue := by
  unfold State.resetIfDue
  split
  · exact unity_resetBlocks s.abandonStep
  · exact unity

theorem unity_boundaryTests {s : State} (unity : UnityInv s) : UnityInv s.boundaryTests :=
  (mapGroups_zero s.levels GroupRec.atBoundary).trans unity

theorem unity_framePeriodEvent {s : State} (unity : UnityInv s) : UnityInv s.boundary.settleArray := by
  let formed := State.formSamples (48 - s.sample) s
  have returned : UnityInv formed.withReturn := by
    rw [UnityInv, levels_withReturn]
    exact (groupZero_formSamples _ s).1.trans unity
  have opened : s.boundary.levels[0] = formed.withReturn.resetIfDue.boundaryTests.levels[0] := rfl
  rw [UnityInv, (ArrayWork.settleArray _).levels, opened]
  exact unity_boundaryTests (unity_resetIfDue returned)

theorem exec_unity (c : Instr) {s t : State} (unity : UnityInv s) (completes : exec c s = .next t) : UnityInv t := by
  have of_levels : (∃ u, exec c s = .next u ∧ u.levels = s.levels) → UnityInv t := by
    rintro ⟨u, reached, same⟩
    rw [eq_of_next reached completes, UnityInv, same]
    exact unity
  cases c with
  | powerOn pins =>
    cases completes
    exact unity_resetBlocks s.cutWrite.abandonStep
  | framePeriodEvent =>
    cases completes
    exact unity_framePeriodEvent unity
  | softReset =>
    cases completes
    split
    · exact unity_resetBlocks s.withReturn.abandonStep
    · exact unity
  | rampCompletion h =>
    obtain ⟨u, reached, -, zero⟩ := sameStore_rampCompletion h s
    rw [eq_of_next reached completes]
    exact zero.trans unity
  | setGroupLevel f =>
    obtain ⟨u, reached, -, zero⟩ := exec_setGroupLevel_stocks f s
    rw [eq_of_next reached completes]
    exact zero.trans unity
  | readDelivery a b c => exact of_levels (readDelivery_levels a b c s)
  | _ => exact of_levels (exec_keepsLevels _ s (by simp [touchesStocks, worksArray]))

/-- Settles O4: a sample leaves group 0, and each command leaves it or takes it to unity. -/
theorem unityGroupKept : Obligations.UnityGroupKept := by
  intro s t unity stepped
  rcases step_cases stepped with ⟨-, rfl⟩ | ⟨c, rest, -, completes⟩
  · exact (groupZero_formSample s).1.trans unity
  · exact exec_unity c (s := { s with pending := rest }) unity completes

end Sys2Proof.Machine

/-! # The lock fence (O3, R130): the protect boundary at or above a lock floor that never falls -/

namespace Sys2Proof.Machine

/-! ## Runs of store operations -/

/-- The boundary and the floor in effect. -/
def Settings.fence (x : Settings) : Nat × Nat := (x.boundary, x.floor)

/-- What a waiting operation may do to a boundary and floor: not cross them, leave the range, or lower the floor. -/
def StoreOp.Lawful (now : Nat × Nat) (op : StoreOp) : Prop :=
  (op.leaves now).2 ≤ (op.leaves now).1 ∧ (op.leaves now).1 ≤ 32768 ∧ now.2 ≤ (op.leaves now).2

theorem climbs_cons {now last : Nat × Nat} {op : StoreOp} {rest : List StoreOp} :
    climbs now (op :: rest) last ↔ op.Lawful now ∧ climbs (op.leaves now) rest last := by
  simp only [climbs, StoreOp.Lawful, and_assoc]

theorem climbs_concat {now last : Nat × Nat} {l : List StoreOp} {op : StoreOp} (run : climbs now l last) (lawful : op.Lawful last) :
    climbs now (l ++ [op]) (op.leaves last) := by
  induction l generalizing now with
  | nil =>
    cases (run : now = last)
    exact climbs_cons.2 ⟨lawful, rfl⟩
  | cons x xs ih =>
    obtain ⟨first, rest⟩ := climbs_cons.1 run
    exact climbs_cons.2 ⟨first, ih rest⟩

/-- The pair at the end of a run is in order where the one at its start is. -/
theorem climbs_last {now last : Nat × Nat} {l : List StoreOp} (run : climbs now l last) (fence : now.2 ≤ now.1) (range : now.1 ≤ 32768) :
    last.2 ≤ last.1 ∧ last.1 ≤ 32768 := by
  induction l generalizing now with
  | nil =>
    cases (run : now = last)
    exact ⟨fence, range⟩
  | cons x xs ih =>
    obtain ⟨⟨fence', range', -⟩, rest⟩ := climbs_cons.1 run
    exact ih rest fence' range'

theorem leaves_of_not_setting {op : StoreOp} (other : op.setting = false) (now : Nat × Nat) : op.leaves now = now := by
  cases op with
  | commit | erase => rfl
  | boundary | floor => cases other

/-! ## What keeps the lock invariant -/

/-- The lock invariant holds afterwards, and the floor has not fallen. -/
def KeepsFence (s t : State) : Prop := LockInv s → LockInv t ∧ s.settings.floor ≤ t.settings.floor

theorem KeepsFence.refl (s : State) : KeepsFence s s := fun inv => ⟨inv, le_rfl⟩

theorem KeepsFence.trans {s t u : State} (first : KeepsFence s t) (second : KeepsFence t u) : KeepsFence s u := by
  intro inv
  obtain ⟨inv', rise⟩ := first inv
  obtain ⟨inv'', rise'⟩ := second inv'
  exact ⟨inv'', rise.trans rise'⟩

/-- The Settings Area pair, the operations with their stages, and the prospective values: all that the invariant looks at. -/
theorem keepsFence_of_eq {s t : State} (fence : t.settings.fence = s.settings.fence) (queue : t.store.queue = s.store.queue)
    (current : t.store.current.map (fun c => (c.op, c.stage)) = s.store.current.map fun c => (c.op, c.stage))
    (pStar : t.store.pStar = s.store.pStar) (lStar : t.store.lStar = s.store.lStar) : KeepsFence s t := by
  intro inv
  obtain ⟨boundary, floor⟩ := Prod.mk.inj fence
  have ops : t.store.operations = s.store.operations := by
    have := congrArg (Option.map Prod.fst) current
    simp only [Option.map_map, Function.comp_def] at this
    rw [Store.operations, Store.operations, queue]
    exact congrArg (fun x => Option.toList x ++ s.store.queue) this
  refine ⟨⟨?_, ?_, ?_, ?_⟩, le_of_eq floor.symm⟩
  · rw [boundary, floor]; exact inv.fence
  · rw [boundary]; exact inv.range
  · rw [boundary, floor, ops, pStar, lStar]; exact inv.queue
  · intro c hc
    rw [hc] at current
    cases was : s.store.current with
    | none => rw [was] at current; cases current
    | some d =>
      rw [was] at current
      obtain ⟨op, stage⟩ := Prod.mk.inj (Option.some.inj current)
      rw [op, stage]
      exact inv.stage d was

theorem SameStore.keepsFence {s t : State} (same : SameStore s t) : KeepsFence s t :=
  keepsFence_of_eq (by rw [same.settings]) same.queue same.current same.pStar same.lStar

/-- Where the store and the Settings Area are untouched. -/
theorem keepsFence_same {s t : State} (store : t.store = s.store) (settings : t.settings = s.settings) :
    KeepsFence s t := keepsFence_of_eq (by rw [settings]) (by rw [store]) (by rw [store]) (by rw [store]) (by rw [store])

theorem keepsFence_agent : AgentBlind KeepsFence :=
  ⟨.refl, .trans, fun _ _ => keepsFence_same rfl rfl⟩

/-- The current operation stops being current, and leaves the fence as it would. -/
theorem keepsFence_of_end {s t : State} {c : Current} (was : s.store.current = some c) (gone : t.store.current = none)
    (fence : t.settings.fence = c.op.leaves s.settings.fence) (queue : t.store.queue = s.store.queue)
    (pStar : t.store.pStar = s.store.pStar) (lStar : t.store.lStar = s.store.lStar) : KeepsFence s t := by
  intro inv
  have ops : s.store.operations = c.op :: s.store.queue := by rw [Store.operations, was]; rfl
  have run := inv.queue
  rw [ops, climbs_cons] at run
  obtain ⟨⟨ordered, range, rise⟩, rest⟩ := run
  have pair : (t.settings.boundary, t.settings.floor) = c.op.leaves (s.settings.boundary, s.settings.floor) := fence
  rw [← pair] at ordered range rise rest
  refine ⟨⟨ordered, range, ?_, fun d now => ?_⟩, rise⟩
  · rw [Store.operations, gone, queue, pStar, lStar]
    exact rest
  · rw [gone] at now; cases now

/-! ## Operations and their steps -/

theorem closeOp_fence (s : State) (op : StoreOp) (good : Bool) : (s.closeOp op good).settings = s.settings ∧
    (s.closeOp op good).store.queue = s.store.queue ∧ (s.closeOp op good).store.pStar = s.store.pStar ∧
    (s.closeOp op good).store.lStar = s.store.lStar := by
  have registered : (s.registerHead op).store = s.store ∧ (s.registerHead op).settings = s.settings := by
    unfold State.registerHead
    repeat' split
    all_goals exact ⟨rfl, rfl⟩
  obtain ⟨store, settings⟩ := registered
  cases op with
  | commit page tag head =>
    cases good with
    | true =>
      have queue := congrArg Store.queue store
      have pStar := congrArg Store.pStar store
      have lStar := congrArg Store.lStar store
      exact ⟨settings, queue, pStar, lStar⟩
    | false => exact ⟨rfl, rfl, rfl, rfl⟩
  | erase block tag => exact ⟨rfl, rfl, rfl, rfl⟩
  | boundary value tag => exact ⟨rfl, rfl, rfl, rfl⟩
  | floor value boundary tag => exact ⟨rfl, rfl, rfl, rfl⟩

/-- The end of the current operation, where the Settings Area already holds what it leaves. -/
theorem keepsFence_endStore {s t : State} {c : Current} (was : s.store.current = some c)
    (fence : t.settings.fence = c.op.leaves s.settings.fence) (r : StoreResult) (store : t.store = s.store) : KeepsFence s (t.endStore c.op r) := by
  obtain ⟨settings, queue, pStar, lStar⟩ := closeOp_fence t c.op r.good
  refine keepsFence_of_end was rfl ?_ (queue.trans (by rw [store])) (pStar.trans (by rw [store])) (lStar.trans (by rw [store]))
  exact (congrArg Settings.fence settings).trans fence

theorem keepsFence_endRemapped {s t : State} {c : Current} (was : s.store.current = some c)
    (fence : t.settings.fence = c.op.leaves s.settings.fence) (m : Spares) (cause : RemapCause) (store : t.store = s.store) :
    KeepsFence s (t.endRemapped c.op m cause) :=
  (keepsFence_endStore was fence .remapped store).trans (keepsFence_same rfl rfl)

/-- An operation that is not a settings write goes on to a step that is not one of Set Protect Boundary or Raise Lock Floor. -/
theorem keepsFence_goStage {s t : State} {c : Current} {st : Stage} (was : s.store.current = some c) (here : c.stage ≠ .settings)
    (there : st ≠ .settings) (store : t.store = s.store) (fence : t.settings.fence = s.settings.fence) :
    KeepsFence s (t.goStage st) := by
  intro inv
  obtain ⟨boundary, floor⟩ := Prod.mk.inj fence
  have current : (t.goStage st).store.current = some { c with stage := st, started := false, phase := .running, suspensions := 0 } := by
    show t.store.current.map _ = _
    rw [store, was]
    rfl
  have ops : (t.goStage st).store.operations = s.store.operations := by
    rw [Store.operations, Store.operations, current, was]
    show [c.op] ++ t.store.queue = [c.op] ++ s.store.queue
    rw [store]
  refine ⟨⟨?_, ?_, ?_, ?_⟩, le_of_eq floor.symm⟩
  · exact (le_of_eq floor).trans (inv.fence.trans (le_of_eq boundary.symm))
  · exact (le_of_eq boundary).trans inv.range
  · rw [ops]
    show climbs (t.settings.boundary, t.settings.floor) _ (t.store.pStar, t.store.lStar)
    rw [boundary, floor, store]
    exact inv.queue
  · intro d now
    rw [current] at now
    cases now
    have other : c.op.setting ≠ true := fun setting => here ((inv.stage c was).2 setting)
    exact ⟨fun e => absurd e there, fun e => absurd e other⟩

theorem currentStep_some {s : State} {f : Stage → Bool} {c : Current} (current : s.currentStep f = some c) :
    s.store.current = some c ∧ c.started = true ∧ f c.stage = true ∧ c.phase = .running := by
  unfold State.currentStep at current
  split at current
  · rename_i d was
    split at current
    · rename_i test
      cases current
      simp only [Bool.and_eq_true, beq_iff_eq] at test
      obtain ⟨⟨started, meets⟩, running⟩ := test
      exact ⟨was, started, meets, running⟩
    · cases current
  · cases current

/-- An operation whose step is not a plain settings write leaves the fence. -/
theorem leaves_fence {s : State} (inv : LockInv s) {c : Current} (was : s.store.current = some c) (here : c.stage ≠ .settings)
    (now : Nat × Nat) : c.op.leaves now = now := by
  refine leaves_of_not_setting ?_ now
  cases setting : c.op.setting with
  | false => rfl
  | true => exact absurd ((inv.stage c was).2 setting) here

theorem keepsFence_beginReloc {s t : State} {c : Current} (was : s.store.current = some c) (here : c.stage ≠ .settings) (spent : List Nat)
    (store : t.store = s.store) (settings : t.settings = s.settings) : KeepsFence s (t.beginReloc spent) := by
  unfold State.beginReloc
  split <;> exact keepsFence_goStage was here nofun store (by rw [settings])

theorem keepsFence_beginRemap {s t : State} {c : Current} (was : s.store.current = some c) (here : c.stage ≠ .settings)
    (store : t.store = s.store) (settings : t.settings = s.settings) : KeepsFence s t.beginRemap := by
  unfold State.beginRemap
  split <;> exact keepsFence_goStage was here nofun store (by rw [settings])

theorem keepsFence_copyFrom {s t : State} {c : Current} (was : s.store.current = some c) (here : c.stage ≠ .settings) (op : StoreOp) (m : Spares) (i : Nat)
    (store : t.store = s.store) (settings : t.settings = s.settings) : KeepsFence s (t.copyFrom op m i) := by
  unfold State.copyFrom
  split <;> exact keepsFence_goStage was here nofun store (by rw [settings])

/-- The end of an operation that wrote no boundary and no floor. -/
theorem keepsFence_plainEnd {s t : State} {c : Current} (was : s.store.current = some c) (here : c.stage ≠ .settings) (r : StoreResult)
    (store : t.store = s.store) (settings : t.settings = s.settings) : KeepsFence s (t.endStore c.op r) := fun inv =>
  keepsFence_endStore was (by rw [leaves_fence inv was here, settings]) r store inv

theorem keepsFence_programEnds {s : State} {c : Current} (was : s.store.current = some c) (pass : Bool) :
    KeepsFence s (s.programEnds c pass) := by
  unfold State.programEnds
  split
  · rename_i here
    have off : c.stage ≠ .settings := by rw [here]; nofun
    split
    · split
      · exact keepsFence_plainEnd was off _ rfl rfl
      · exact keepsFence_beginReloc was off _ rfl rfl
    · exact .refl s
  · rename_i here
    have off : c.stage ≠ .settings := by rw [here]; nofun
    split
    · exact keepsFence_copyFrom was off _ _ _ rfl rfl
    · exact keepsFence_beginReloc was off _ rfl rfl
  · rename_i here
    have off : c.stage ≠ .settings := by rw [here]; nofun
    split
    · exact keepsFence_goStage was off nofun rfl rfl
    · exact keepsFence_beginReloc was off _ rfl rfl
  · exact .refl s

@[simp] theorem store_loosen (s : State) (block : Nat) : (s.loosen block).store = s.store := by simp only [State.loosen]
@[simp] theorem settings_loosen (s : State) (block : Nat) : (s.loosen block).settings = s.settings := by simp only [State.loosen]
@[simp] theorem store_loosenPage (s : State) (page : Nat) : (s.loosenPage page).store = s.store := by simp only [State.loosenPage]
@[simp] theorem settings_loosenPage (s : State) (page : Nat) : (s.loosenPage page).settings = s.settings := by
  simp only [State.loosenPage]
@[simp] theorem store_loosenErasing (s : State) (c : Current) : (s.loosenErasing c).store = s.store := by
  unfold State.loosenErasing
  split <;> simp
@[simp] theorem settings_loosenErasing (s : State) (c : Current) : (s.loosenErasing c).settings = s.settings := by
  unfold State.loosenErasing
  split <;> simp

theorem keepsFence_eraseEnds {s : State} {c : Current} (was : s.store.current = some c) (pass : Bool) :
    KeepsFence s (s.eraseEnds c pass) := by
  unfold State.eraseEnds
  dsimp only
  split
  · rename_i here
    have off : c.stage ≠ .settings := by rw [here]; nofun
    split
    · exact keepsFence_plainEnd was off _ rfl rfl
    · exact keepsFence_beginRemap was off (by simp) (by simp)
  · rename_i here
    have off : c.stage ≠ .settings := by rw [here]; nofun
    split
    · exact keepsFence_copyFrom was off _ _ _ rfl rfl
    · exact keepsFence_beginReloc was off _ (by simp) (by simp)
  · rename_i here
    have off : c.stage ≠ .settings := by rw [here]; nofun
    split
    · exact fun inv => (keepsFence_endRemapped was (by rw [leaves_fence inv was off]) _ _ (by rfl) : KeepsFence s _) inv
    · split <;> exact keepsFence_goStage was off nofun (by simp) (by simp)
  · exact .refl s

/-- Relocations, remaps and worn blocks leave the boundary and the floor. -/
theorem fence_written_other (x : Settings) {c : Current} (here : c.stage ≠ .settings) : (x.written c).fence = x.fence := by
  have worn : ∀ (y : Settings) block, (y.wear block).fence = y.fence := fun y block => by
    unfold Settings.wear
    split <;> rfl
  unfold Settings.written
  split
  · rename_i settings
    exact absurd settings here
  · rfl
  · rfl
  · exact worn x _
  · exact worn (x.dropFailed _) _
  · rfl

/-- A settings write of the current operation leaves the pair that the operation is queued to leave. -/
theorem fence_written {s : State} (inv : LockInv s) {c : Current} (was : s.store.current = some c) :
    (s.settings.written c).fence = c.op.leaves s.settings.fence := by
  by_cases here : c.stage = .settings
  · have setting := (inv.stage c was).1 here
    unfold Settings.written
    rw [here]
    cases op : c.op with
    | boundary value tag => rfl
    | floor value boundary tag => rfl
    | commit | erase => rw [op] at setting; cases setting
  · rw [leaves_fence inv was here, fence_written_other _ here]

theorem keepsFence_writeEnds {s : State} {c : Current} (was : s.store.current = some c) : KeepsFence s (s.writeEnds c) := by
  intro inv
  have written := fence_written inv was
  unfold State.writeEnds State.afterWrite
  split
  · exact keepsFence_endStore was written _ rfl inv
  · exact keepsFence_endRemapped was written _ _ rfl inv
  · rename_i here
    have off : c.stage ≠ .settings := by rw [here]; nofun
    exact (keepsFence_goStage was off (by nofun) (by rfl) (fence_written_other _ off) : KeepsFence s _) inv
  · exact keepsFence_endStore was written _ rfl inv
  · exact keepsFence_endStore was written _ rfl inv
  · rename_i other _ _ _ _
    have off : c.stage ≠ .settings := other
    exact keepsFence_of_eq (fence_written_other _ off) rfl rfl rfl rfl inv

/-! ## The start of the head of the queue -/

theorem keepsFence_startHead {s : State} (free : s.store.current = none) : KeepsFence s s.startHead := by
  unfold State.startHead
  split
  · rename_i op rest queued
    let taken : State := { s with store := { s.store with queue := rest } }
    have ops : s.store.operations = op :: rest := by rw [Store.operations, free, queued]; rfl
    have begins : ∀ st, (st = Stage.settings ↔ op.setting = true) → KeepsFence s (taken.beginOp op st) := by
      intro st kind inv
      refine ⟨⟨inv.fence, inv.range, ?_, ?_⟩, le_rfl⟩
      · have run := inv.queue
        rw [ops] at run
        exact run
      · intro c now
        cases now
        exact kind
    have ends : op.setting = false → ∀ r, KeepsFence s (taken.endStore op r) := by
      intro other r inv
      obtain ⟨settings, queue, pStar, lStar⟩ := closeOp_fence taken op r.good
      have run := inv.queue
      rw [ops, climbs_cons, leaves_of_not_setting other] at run
      have same : (taken.endStore op r).settings = s.settings := settings
      have none : (taken.endStore op r).store.current = none := rfl
      refine ⟨⟨by rw [same]; exact inv.fence, by rw [same]; exact inv.range, ?_, fun c now => ?_⟩, by rw [same]⟩
      · rw [same, Store.operations, none]
        show climbs _ ((taken.closeOp op r.good).store.queue) ((taken.closeOp op r.good).store.pStar, (taken.closeOp op r.good).store.lStar)
        rw [queue, pStar, lStar]
        exact run.2
      · rw [none] at now
        cases now
    unfold State.startOp
    split
    · split
      · exact ends rfl _
      · split
        · exact ends rfl _
        · exact begins _ ⟨nofun, nofun⟩
    · split
      · exact ends rfl _
      · exact begins _ ⟨nofun, nofun⟩
    · exact begins _ ⟨fun _ => rfl, fun _ => rfl⟩
    · exact begins _ ⟨fun _ => rfl, fun _ => rfl⟩
  · exact .refl s

/-! ## The four store requests that join the queue -/

theorem firstRefusal_none {l : List (Bool × Code)} (passed : firstRefusal l = none) : ∀ x ∈ l, x.1 = false := by
  induction l with
  | nil => nofun
  | cons y ys ih =>
    obtain ⟨fails, code⟩ := y
    simp only [firstRefusal] at passed
    split at passed
    · cases passed
    · rename_i ok
      intro x mem
      rcases List.mem_cons.1 mem with rfl | mem
      · simpa using ok
      · exact ih passed x mem

/-- An operation joins the tail of the queue, and the prospective values become what it will leave. -/
theorem keepsFence_enqueue {s t : State} {op : StoreOp} (settings : t.settings = s.settings) (current : t.store.current = s.store.current)
    (queue : t.store.queue = s.store.queue ++ [op]) (values : (t.store.pStar, t.store.lStar) = op.leaves (s.store.pStar, s.store.lStar))
    (lawful : s.store.lStar ≤ s.store.pStar → s.store.pStar ≤ 32768 → op.Lawful (s.store.pStar, s.store.lStar)) : KeepsFence s t := by
  intro inv
  obtain ⟨ordered, range⟩ := climbs_last inv.queue inv.fence inv.range
  have ops : t.store.operations = s.store.operations ++ [op] := by
    rw [Store.operations, Store.operations, current, queue, List.append_assoc]
  refine ⟨⟨by rw [settings]; exact inv.fence, by rw [settings]; exact inv.range, ?_, ?_⟩, by rw [settings]⟩
  · rw [settings, ops, values]
    exact climbs_concat inv.queue (lawful ordered range)
  · rw [current]
    exact inv.stage

theorem lawful_of_not_setting {op : StoreOp} (other : op.setting = false) {p l : Nat} (ordered : l ≤ p) (range : p ≤ 32768) :
    op.Lawful (p, l) := by
  rw [StoreOp.Lawful, leaves_of_not_setting other]
  exact ⟨ordered, range, le_rfl⟩

theorem keepsFence_lock (s : State) : KeepsFence s s.lock := (sameStocks_lock s).toSameStore.keepsFence

theorem retire_store (s : State) (block : Nat) : (s.retire block).store = s.store ∧ (s.retire block).settings = s.settings := by
  unfold State.retire State.cancelVerify
  dsimp only
  repeat' split
  all_goals exact ⟨rfl, rfl⟩

theorem exec_commitPage_fence (f : Option Nat) (s : State) : ∃ t, exec (.commitPage f) s = .next t ∧ KeepsFence s t :=
  ⟨_, rfl, keepsFence_agent.storeRequest keepsFence_lock fun _ _ _ _ =>
    keepsFence_enqueue rfl rfl rfl rfl fun ordered range => lawful_of_not_setting rfl ordered range⟩

theorem exec_eraseBlock_fence (f : Option Nat) (s : State) : ∃ t, exec (.eraseBlock f) s = .next t ∧ KeepsFence s t := by
  refine ⟨_, rfl, keepsFence_agent.storeRequest keepsFence_lock fun block m t _ => ?_⟩
  obtain ⟨store, settings⟩ := retire_store (t.lock.enqueue (.erase block m.tag)) block
  have values : ((t.lock.enqueue (.erase block m.tag)).retire block).store.pStar = t.lock.store.pStar ∧
      ((t.lock.enqueue (.erase block m.tag)).retire block).store.lStar = t.lock.store.lStar := by
    rw [store]
    exact ⟨rfl, rfl⟩
  exact keepsFence_enqueue (op := .erase block m.tag) settings (by rw [store]; rfl) (by rw [store]; rfl)
    (Prod.ext values.1 values.2) fun ordered range => lawful_of_not_setting rfl ordered range

theorem exec_setProtectBoundary_fence (f : Option Nat) (s : State) : ∃ t, exec (.setProtectBoundary f) s = .next t ∧ KeepsFence s t := by
  refine ⟨_, rfl, keepsFence_agent.storeRequest keepsFence_lock fun value m t passed => ?_⟩
  have inRange : value ≤ 32768 := by
    have := firstRefusal_none passed _ List.mem_cons_self
    exact Nat.le_of_not_lt (of_decide_eq_false this)
  refine keepsFence_enqueue (op := .boundary (t.lock.store.effective value) m.tag) rfl rfl rfl rfl fun ordered range => ?_
  exact ⟨Nat.le_max_left _ _, Nat.max_le.2 ⟨ordered.trans range, inRange⟩, le_rfl⟩

theorem exec_raiseLockFloor_fence (f : Option Nat) (s : State) : ∃ t, exec (.raiseLockFloor f) s = .next t ∧ KeepsFence s t := by
  refine ⟨_, rfl, keepsFence_agent.storeRequest keepsFence_lock fun value m t passed => ?_⟩
  have inRange : value ≤ 32768 := by
    have := firstRefusal_none passed _ List.mem_cons_self
    exact Nat.le_of_not_lt (of_decide_eq_false this)
  have above : t.store.lStar ≤ value := by
    have := firstRefusal_none passed _ (List.mem_cons_of_mem _ List.mem_cons_self)
    exact Nat.le_of_not_lt (of_decide_eq_false this)
  refine keepsFence_enqueue (op := .floor value (max t.lock.store.pStar value) m.tag) rfl rfl rfl rfl fun _ range => ?_
  exact ⟨Nat.le_max_right _ _, Nat.max_le.2 ⟨range, inRange⟩, above⟩

/-! ## Resets -/

theorem settings_abandonStep (s : State) : s.abandonStep.settings = s.settings := by
  unfold State.abandonStep
  repeat' split
  all_goals simp

/-- After a reset the prospective values are those of the Settings Area, and no operation stands. -/
theorem lockInv_resetBlocks {s : State} (fence : s.settings.floor ≤ s.settings.boundary) (range : s.settings.boundary ≤ 32768) :
    LockInv s.resetBlocks := ⟨fence, range, rfl, nofun⟩

theorem keepsFence_softReset (s : State) : KeepsFence s s.softReset := by
  intro inv
  have same := settings_abandonStep s
  have blocks : LockInv s.abandonStep.resetBlocks :=
    lockInv_resetBlocks (by rw [same]; exact inv.fence) (by rw [same]; exact inv.range)
  exact ⟨⟨blocks.fence, blocks.range, blocks.queue, blocks.stage⟩, le_of_eq (congrArg Settings.floor same.symm)⟩

theorem keepsFence_powerOn (s : State) (pins : BitVec 8) : KeepsFence s (s.powerOn pins) := by
  intro inv
  have cut : s.cutWrite.settings.floor ≤ s.cutWrite.settings.boundary ∧ s.cutWrite.settings.boundary ≤ 32768 ∧
      s.settings.floor ≤ s.cutWrite.settings.floor := by
    unfold State.cutWrite
    split
    · rename_i c was
      have run := inv.queue
      rw [Store.operations, was] at run
      obtain ⟨⟨ordered, range, rise⟩, -⟩ := climbs_cons.1 run
      have pair : ((s.settings.written c).boundary, (s.settings.written c).floor) = c.op.leaves (s.settings.boundary, s.settings.floor) :=
        fence_written inv was
      rw [← pair] at ordered range rise
      split
      · dsimp only
        split
        · exact ⟨ordered, range, rise⟩
        · exact ⟨inv.fence, inv.range, le_rfl⟩
      · exact ⟨inv.fence, inv.range, le_rfl⟩
    · exact ⟨inv.fence, inv.range, le_rfl⟩
  obtain ⟨ordered, range, rise⟩ := cut
  have same := settings_abandonStep s.cutWrite
  have blocks : LockInv s.cutWrite.abandonStep.resetBlocks := lockInv_resetBlocks (by rw [same]; exact ordered) (by rw [same]; exact range)
  exact ⟨⟨blocks.fence, blocks.range, blocks.queue, blocks.stage⟩, rise.trans (le_of_eq (congrArg Settings.floor same.symm))⟩

theorem sameStore_withReturn (s : State) : SameStore s s.withReturn := by
  unfold State.withReturn
  split
  · exact .refl s
  · exact .of_eq rfl rfl rfl

theorem sameStore_boundaryTests (s : State) : SameStore s s.boundaryTests := by
  unfold State.boundaryTests
  exact .of_eq rfl rfl rfl

theorem sameStore_passFrame (s : State) : SameStore s s.passFrame := .of_eq rfl rfl rfl

theorem sameStore_open (s : State) : SameStore s s.boundaryTests.passFrame :=
  (sameStore_boundaryTests s).trans (sameStore_passFrame _)

theorem keepsFence_framePeriodEvent (s : State) : KeepsFence s s.boundary.settleArray := by
  let formed := State.formSamples (48 - s.sample) s
  have samples : KeepsFence s formed := (sameStore_formSamples _ s).keepsFence
  have returned : KeepsFence formed formed.withReturn := (sameStore_withReturn formed).keepsFence
  have reset : KeepsFence formed.withReturn formed.withReturn.resetIfDue := by
    unfold State.resetIfDue
    split
    · exact keepsFence_softReset _
    · exact .refl _
  have opened : KeepsFence formed.withReturn.resetIfDue s.boundary := (sameStore_open _).keepsFence
  exact (((samples.trans returned).trans reset).trans opened).trans (sameStore_settleArray _).keepsFence

/-! ## The commands -/

theorem keepsFence_settled {s t : State} (kept : KeepsFence s t) : KeepsFence s t.settleArray :=
  kept.trans (sameStore_settleArray t).keepsFence

theorem keepsFence_deliver (s : State) (f : InFlight) (a b c : Attempt) : KeepsFence s (s.deliver f a b c) := by
  rcases deliver_stocks s f a b c with same | ⟨page, e, copied⟩
  · exact same.toSameStore.keepsFence
  · rw [copied]
    unfold State.deliverCopy
    split
    · rename_i c was
      split
      · rename_i here
        have off : c.stage ≠ .settings := by rw [here]; nofun
        split
        · exact keepsFence_copyFrom (s := s) was off _ _ _ rfl rfl
        · split
          · exact keepsFence_goStage (s := s) was off nofun rfl rfl
          · exact keepsFence_copyFrom (s := s) was off _ _ _ rfl rfl
      · exact keepsFence_same rfl rfl
    · exact keepsFence_same rfl rfl

theorem KeepsStocks.keepsFence {s : State} {o : Host.Outcome State Fault Refusal} (kept : KeepsStocks s o) :
    ∃ t, o = .next t ∧ KeepsFence s t := by
  obtain ⟨t, reached, same⟩ := kept
  exact ⟨t, reached, same.toSameStore.keepsFence⟩

theorem exec_keepsFence (c : Instr) (s : State) : ∃ t, exec c s = .next t ∧ KeepsFence s t := by
  cases c with
  | powerOn pins => exact ⟨_, rfl, keepsFence_powerOn s pins⟩
  | framePeriodEvent => exact ⟨_, rfl, keepsFence_framePeriodEvent s⟩
  | softReset =>
    refine ⟨_, rfl, ?_⟩
    split
    · exact (sameStore_withReturn s).keepsFence.trans (keepsFence_softReset _)
    · exact .refl s
  | rampCompletion h =>
    obtain ⟨t, reached, same, -⟩ := sameStore_rampCompletion h s
    exact ⟨t, reached, same.keepsFence⟩
  | setGroupLevel f =>
    obtain ⟨t, reached, same, -⟩ := exec_setGroupLevel_stocks f s
    exact ⟨t, reached, same.keepsFence⟩
  | readDelivery a b c =>
    unfold exec execReadDelivery
    dsimp only
    split
    · exact ⟨_, rfl, keepsFence_settled ((keepsFence_deliver s _ a b c).trans (sameStocks_afterDelivery _ _).toSameStore.keepsFence)⟩
    · exact ⟨_, rfl, .refl s⟩
  | storeOperationStart =>
    refine ⟨_, rfl, ?_⟩
    split
    · rename_i due
      simp only [State.storeDue, Bool.and_eq_true, Option.isNone_iff_eq_none] at due
      obtain ⟨⟨⟨-, free⟩, -⟩, -⟩ := due
      exact keepsFence_settled (keepsFence_startHead free)
    · exact (sameStore_settleArray s).keepsFence
  | pageProgramComplete pass =>
    unfold exec execPageProgramComplete
    dsimp only
    split
    · rename_i here
      exact ⟨_, rfl, keepsFence_settled (keepsFence_programEnds (currentStep_some here).1 pass)⟩
    · exact ⟨_, rfl, .refl s⟩
  | blockEraseComplete pass =>
    unfold exec execBlockEraseComplete
    dsimp only
    split
    · rename_i here
      exact ⟨_, rfl, keepsFence_settled (keepsFence_eraseEnds (currentStep_some here).1 pass)⟩
    · exact ⟨_, rfl, .refl s⟩
  | eraseSuspended =>
    unfold exec execEraseSuspended
    dsimp only
    split
    · rename_i c _
      refine ⟨_, rfl, ?_⟩
      split
      · have loosened : KeepsFence s (s.loosenErasing c) := keepsFence_same (by simp) (by simp)
        exact keepsFence_settled (loosened.trans
          (sameStore_modCurrent _ (fun c => { c with phase := .suspended }) fun c => ⟨rfl, rfl⟩).keepsFence)
      · exact .refl s
    · exact ⟨_, rfl, .refl s⟩
  | settingsWriteComplete =>
    unfold exec execSettingsWriteComplete
    dsimp only
    split
    · rename_i here
      exact ⟨_, rfl, keepsFence_settled (keepsFence_writeEnds (currentStep_some here).1)⟩
    · exact ⟨_, rfl, .refl s⟩
  | loadPageData f =>
    refine ⟨_, rfl, keepsFence_agent.serveWith fun f _ t => ?_⟩
    split
    · exact .refl t
    · exact keepsFence_of_eq rfl rfl rfl rfl rfl
  | commitPage f => exact exec_commitPage_fence f s
  | eraseBlock f => exact exec_eraseBlock_fence f s
  | setProtectBoundary f => exact exec_setProtectBoundary_fence f s
  | raiseLockFloor f => exact exec_raiseLockFloor_fence f s
  | _ => exact (exec_keepsStocks _ s (by rfl)).keepsFence

/-- Settles O3: a sample leaves the store but for the phase of its step, and each command keeps the fence. -/
theorem lockFenceKept : Obligations.LockFenceKept := by
  intro s t inv stepped
  rcases step_cases stepped with ⟨-, rfl⟩ | ⟨c, rest, -, completes⟩
  · exact (sameStore_formSample s).keepsFence inv
  · obtain ⟨u, reached, kept⟩ := exec_keepsFence c { s with pending := rest }
    rw [eq_of_next reached completes]
    exact kept ⟨inv.fence, inv.range, inv.queue, inv.stage⟩

end Sys2Proof.Machine

/-! # The staging buffer and the flash array stay in canonical form (O5, R119, R122) -/

namespace Sys2Proof.Machine

/-! ## The flash array -/

/-- The flash array in canonical form, and each of its pages. -/
def FlashOk (fl : List (Nat × PageImage)) : Prop := flashWf fl = true ∧ ∀ c ∈ fl, cellsWf c.2.cells = true

theorem flashOk_writeFlash {fl : List (Nat × PageImage)} (ok : FlashOk fl) (page : Nat) {i : PageImage} (image : cellsWf i.cells = true) :
    FlashOk (writeFlash fl page i) := by
  refine ⟨flashWf_writeFlash ok.1 page i, fun c mem => ?_⟩
  unfold writeFlash at mem
  split at mem
  · exact ok.2 c (mem_removeKey _ mem)
  · rcases mem_insertByKey _ mem with rfl | mem
    · exact image
    · exact ok.2 c mem

theorem flashOk_eraseFlash {fl : List (Nat × PageImage)} (ok : FlashOk fl) (block : Nat) : FlashOk (eraseFlash fl block) :=
  ⟨flashWf_eraseFlash ok.1 block, fun c mem => ok.2 c (List.mem_filter.1 mem).1⟩

theorem flashOk_looseBlock {fl : List (Nat × PageImage)} (ok : FlashOk fl) (block occasion : Nat) :
    FlashOk (looseBlock fl block occasion) := by
  unfold looseBlock
  generalize List.range Config.pagesPerBlock = is
  have pages : ∀ gl : List (Nat × PageImage), FlashOk gl → FlashOk (is.foldl
      (fun acc i => writeFlash acc (block * Config.pagesPerBlock + i) (loosePage (occasion + i) false)) gl) := by
    induction is with
    | nil => exact fun _ ok => ok
    | cons i is ih => exact fun gl ok => ih _ (flashOk_writeFlash ok _ rfl)
  exact pages _ (flashOk_eraseFlash ok block)

theorem cellsWf_readFlash {fl : List (Nat × PageImage)} (ok : FlashOk fl) (page : Nat) : cellsWf (readFlash fl page).cells = true := by
  unfold readFlash
  split
  · rename_i c found
    exact ok.2 c (List.mem_of_find?_eq_some found)
  · rfl

/-! ## What keeps the canonical form -/

/-- The memory invariant, with the flash array's two facts together. -/
theorem memoryInv_iff {s : State} : MemoryInv s ↔
    cellsWf s.store.staging = true ∧ FlashOk s.flash ∧ ∀ c, s.store.current = some c → c.copyOk := by
  constructor
  · exact fun inv => ⟨inv.staging, ⟨inv.flash, inv.pages⟩, inv.copy⟩
  · rintro ⟨staging, ⟨flash, pages⟩, copy⟩
    exact ⟨staging, flash, pages, copy⟩

/-- The memory invariant holds afterwards. -/
def KeepsMemory (s t : State) : Prop := MemoryInv s → MemoryInv t

theorem KeepsMemory.trans {s t u : State} (first : KeepsMemory s t) (second : KeepsMemory t u) : KeepsMemory s u := second ∘ first

theorem copyOk_of_stage {c d : Current} (stage : d.stage = c.stage) (ok : c.copyOk) : d.copyOk := by
  unfold Current.copyOk at *
  rwa [stage]

theorem SameStore.keepsMemory {s t : State} (same : SameStore s t) : KeepsMemory s t := by
  intro inv
  obtain ⟨staging, flash, copy⟩ := memoryInv_iff.1 inv
  refine memoryInv_iff.2 ⟨by rw [same.staging]; exact staging, by rw [same.flash]; exact flash, fun c now => ?_⟩
  have current := same.current
  rw [now] at current
  cases was : s.store.current with
  | none => rw [was] at current; cases current
  | some d =>
    rw [was] at current
    exact copyOk_of_stage (Prod.mk.inj (Option.some.inj current)).2 (copy d was)

theorem keepsMemory_agent : AgentBlind KeepsMemory :=
  ⟨fun _ => id, .trans, fun s f => (agentBlind_sameStocks.agent s f).toSameStore.keepsMemory⟩

/-- The operation in the store stands, and the staging buffer is still in canonical form. -/
theorem keepsMemory_staging {s t : State} (staging : cellsWf s.store.staging = true → cellsWf t.store.staging = true)
    (flash : t.flash = s.flash) (current : t.store.current = s.store.current) : KeepsMemory s t := by
  intro inv
  obtain ⟨held, ok, copy⟩ := memoryInv_iff.1 inv
  exact memoryInv_iff.2 ⟨staging held, by rw [flash]; exact ok, by rw [current]; exact copy⟩

/-! ## Operations and their steps -/

theorem closeOp_memory (s : State) (op : StoreOp) (good : Bool) : (s.closeOp op good).flash = s.flash ∧
    (cellsWf s.store.staging = true → cellsWf (s.closeOp op good).store.staging = true) := by
  have registered : (s.registerHead op).flash = s.flash := by
    unfold State.registerHead
    repeat' split
    all_goals rfl
  cases op with
  | commit page tag head =>
    cases good with
    | true => exact ⟨registered, fun _ => rfl⟩
    | false => exact ⟨rfl, fun _ => rfl⟩
  | erase block tag => exact ⟨rfl, id⟩
  | boundary value tag => exact ⟨rfl, id⟩
  | floor value boundary tag => exact ⟨rfl, id⟩

/-- The end of an operation on a flash array in canonical form. -/
theorem memoryInv_endStore {t : State} (staging : cellsWf t.store.staging = true) (flash : FlashOk t.flash) (op : StoreOp)
    (r : StoreResult) : MemoryInv (t.endStore op r) := by
  obtain ⟨same, kept⟩ := closeOp_memory t op r.good
  have current : (t.endStore op r).store.current = none := rfl
  refine memoryInv_iff.2 ⟨kept staging, ?_, fun c now => ?_⟩
  · show FlashOk (t.closeOp op r.good).flash
    rw [same]
    exact flash
  · rw [current] at now
    cases now

theorem memoryInv_endRemapped {t : State} (staging : cellsWf t.store.staging = true) (flash : FlashOk t.flash) (op : StoreOp) (m : Spares)
    (cause : RemapCause) : MemoryInv (t.endRemapped op m cause) :=
  ((sameStocks_raise (t.endStore op .remapped) _ _).toSameStore).keepsMemory (memoryInv_endStore staging flash op _)

/-- A stage holds no copy, or one of a programmed page in canonical form. -/
def Stage.CopyOk : Stage → Prop
  | .relocProgram _ _ image => image.tag = true ∧ cellsWf image.cells = true
  | _ => True

theorem copyOk_iff (c : Current) : c.copyOk ↔ c.stage.CopyOk := by
  unfold Current.copyOk Stage.CopyOk
  cases c.stage <;> exact Iff.rfl

theorem memoryInv_goStage {t : State} {st : Stage} (staging : cellsWf t.store.staging = true) (flash : FlashOk t.flash)
    (copy : st.CopyOk) : MemoryInv (t.goStage st) := by
  refine memoryInv_iff.2 ⟨staging, flash, fun c now => ?_⟩
  obtain ⟨d, -, rfl⟩ := Option.map_eq_some_iff.1 now
  exact (copyOk_iff _).2 copy

theorem memoryInv_beginReloc {t : State} (staging : cellsWf t.store.staging = true) (flash : FlashOk t.flash) (spent : List Nat) :
    MemoryInv (t.beginReloc spent) := by
  unfold State.beginReloc
  split <;> exact memoryInv_goStage staging flash trivial

theorem memoryInv_beginRemap {t : State} (staging : cellsWf t.store.staging = true) (flash : FlashOk t.flash) : MemoryInv t.beginRemap := by
  unfold State.beginRemap
  split <;> exact memoryInv_goStage staging flash trivial

theorem memoryInv_copyFrom {t : State} (staging : cellsWf t.store.staging = true) (flash : FlashOk t.flash) (op : StoreOp) (m : Spares)
    (i : Nat) : MemoryInv (t.copyFrom op m i) := by
  unfold State.copyFrom
  split <;> exact memoryInv_goStage staging flash trivial

theorem flashOk_loosen {s : State} (ok : FlashOk s.flash) (block : Nat) : FlashOk (s.loosen block).flash := by
  simp only [State.loosen]
  exact flashOk_looseBlock ok block _

theorem flashOk_loosenPage {s : State} (ok : FlashOk s.flash) (page : Nat) : FlashOk (s.loosenPage page).flash := by
  simp only [State.loosenPage]
  exact flashOk_writeFlash ok page rfl

theorem flashOk_loosenErasing {s : State} (ok : FlashOk s.flash) (c : Current) : FlashOk (s.loosenErasing c).flash := by
  unfold State.loosenErasing
  split
  · exact flashOk_loosen ok _
  · exact ok

theorem keepsMemory_programEnds {s : State} {c : Current} (was : s.store.current = some c) (pass : Bool) :
    KeepsMemory s (s.programEnds c pass) := by
  intro inv
  obtain ⟨staging, flash, copy⟩ := memoryInv_iff.1 inv
  have written : ∀ page (i : PageImage), cellsWf i.cells = true → FlashOk (s.writePage page i).flash := fun page i image =>
    flashOk_writeFlash flash page image
  unfold State.programEnds
  split
  · split
    · split
      · exact memoryInv_endStore (by exact staging) (written _ _ staging) _ _
      · exact memoryInv_beginReloc staging flash _
    · exact inv
  · rename_i m i image here
    have held : image.tag = true ∧ cellsWf image.cells = true := by
      have := (copyOk_iff c).1 (copy c was)
      rwa [here] at this
    split
    · exact memoryInv_copyFrom (by exact staging) (written _ _ held.2) _ _ _
    · exact memoryInv_beginReloc staging flash _
  · split
    · exact memoryInv_goStage (by exact staging) (written _ _ staging) trivial
    · exact memoryInv_beginReloc staging flash _
  · exact inv

theorem keepsMemory_eraseEnds (s : State) (c : Current) (pass : Bool) : KeepsMemory s (s.eraseEnds c pass) := by
  intro inv
  obtain ⟨staging, flash, -⟩ := memoryInv_iff.1 inv
  have loose : ∀ block, cellsWf (s.loosen block).store.staging = true := fun block => by rw [store_loosen]; exact staging
  unfold State.eraseEnds
  dsimp only
  split
  · split
    · exact memoryInv_endStore (by exact staging) (flashOk_eraseFlash flash _) _ _
    · exact memoryInv_beginRemap (loose _) (flashOk_loosen flash _)
  · split
    · exact memoryInv_copyFrom (by exact staging) (flashOk_eraseFlash flash _) _ _ _
    · exact memoryInv_beginReloc (loose _) (flashOk_loosen flash _) _
  · split
    · exact memoryInv_endRemapped (by exact staging) (flashOk_eraseFlash flash _) _ _ _
    · split
      · exact memoryInv_goStage (loose _) (flashOk_loosen flash _) trivial
      · exact memoryInv_goStage (loose _) (flashOk_loosen flash _) trivial
  · exact inv

theorem keepsMemory_writeEnds (s : State) (c : Current) : KeepsMemory s (s.writeEnds c) := by
  intro inv
  obtain ⟨staging, flash, copy⟩ := memoryInv_iff.1 inv
  unfold State.writeEnds State.afterWrite
  split
  · exact memoryInv_endStore (by exact staging) (by exact flash) _ _
  · exact memoryInv_endRemapped (by exact staging) (by exact flash) _ _ _
  · exact memoryInv_goStage (by exact staging) (by exact flash) trivial
  · exact memoryInv_endStore (by exact staging) (by exact flash) _ _
  · exact memoryInv_endStore (by exact staging) (by exact flash) _ _
  · exact memoryInv_iff.2 ⟨staging, flash, copy⟩

theorem keepsMemory_startHead (s : State) : KeepsMemory s s.startHead := by
  intro inv
  obtain ⟨staging, flash, -⟩ := memoryInv_iff.1 inv
  unfold State.startHead
  split
  · rename_i op rest _
    let taken : State := { s with store := { s.store with queue := rest } }
    have ends : ∀ r, MemoryInv (taken.endStore op r) := fun r => memoryInv_endStore (t := taken) staging flash op r
    have begins : ∀ st : Stage, st.CopyOk → MemoryInv (taken.beginOp op st) := by
      intro st copy
      refine memoryInv_iff.2 ⟨staging, flash, fun c now => ?_⟩
      cases now
      exact (copyOk_iff _).2 copy
    unfold State.startOp
    split
    · split
      · exact ends _
      · split
        · exact ends _
        · exact begins _ trivial
    · split
      · exact ends _
      · exact begins _ trivial
    · exact begins _ trivial
    · exact begins _ trivial
  · exact inv

/-- The copy that a relocation reads comes from a page of the array. -/
theorem keepsMemory_deliver (s : State) (f : InFlight) (a b c : Attempt) : KeepsMemory s (s.deliver f a b c) := by
  rcases deliver_stocks s f a b c with same | ⟨page, e, copied⟩
  · exact same.toSameStore.keepsMemory
  · intro inv
    obtain ⟨staging, flash, copy⟩ := memoryInv_iff.1 inv
    have landed : MemoryInv { s with inFlight := none } := memoryInv_iff.2 ⟨staging, flash, copy⟩
    rw [copied]
    unfold State.deliverCopy
    split
    · split
      · split
        · exact memoryInv_copyFrom (by exact staging) (by exact flash) _ _ _
        · split
          · rename_i programmed
            exact memoryInv_goStage (by exact staging) (by exact flash) ⟨programmed, cellsWf_readFlash flash page⟩
          · exact memoryInv_copyFrom (by exact staging) (by exact flash) _ _ _
      · exact landed
    · exact landed

/-! ## Resets -/

theorem flashOk_abandonStep {s : State} (ok : FlashOk s.flash) : FlashOk s.abandonStep.flash := by
  unfold State.abandonStep
  split
  · split
    · split
      · exact flashOk_loosenPage ok _
      · exact flashOk_loosen ok _
      · exact flashOk_loosen ok _
      · exact flashOk_loosenErasing ok _
    · exact ok
  · exact ok

theorem memoryInv_resetBlocks {s : State} (ok : FlashOk s.flash) : MemoryInv s.resetBlocks := memoryInv_iff.2 ⟨rfl, ok, nofun⟩

theorem keepsMemory_softReset (s : State) : KeepsMemory s s.softReset := by
  intro inv
  have blocks := memoryInv_resetBlocks (flashOk_abandonStep (memoryInv_iff.1 inv).2.1)
  exact ⟨blocks.staging, blocks.flash, blocks.pages, blocks.copy⟩

theorem flash_cutWrite (s : State) : s.cutWrite.flash = s.flash := by
  unfold State.cutWrite
  repeat' split
  all_goals rfl

theorem keepsMemory_powerOn (s : State) (pins : BitVec 8) : KeepsMemory s (s.powerOn pins) := by
  intro inv
  have ok : FlashOk s.cutWrite.flash := by rw [flash_cutWrite]; exact (memoryInv_iff.1 inv).2.1
  have blocks := memoryInv_resetBlocks (flashOk_abandonStep ok)
  exact ⟨blocks.staging, blocks.flash, blocks.pages, blocks.copy⟩

theorem keepsMemory_framePeriodEvent (s : State) : KeepsMemory s s.boundary.settleArray := by
  let formed := State.formSamples (48 - s.sample) s
  have returned : KeepsMemory s formed.withReturn := ((sameStore_formSamples _ s).trans (sameStore_withReturn formed)).keepsMemory
  have reset : KeepsMemory formed.withReturn formed.withReturn.resetIfDue := by
    unfold State.resetIfDue
    split
    · exact keepsMemory_softReset _
    · exact id
  exact (returned.trans reset).trans ((sameStore_open _).trans (sameStore_settleArray _)).keepsMemory

/-! ## The commands -/

theorem keepsMemory_settled {s t : State} (kept : KeepsMemory s t) : KeepsMemory s t.settleArray :=
  kept.trans (sameStore_settleArray t).keepsMemory

theorem KeepsStocks.keepsMemory {s : State} {o : Host.Outcome State Fault Refusal} (kept : KeepsStocks s o) :
    ∃ t, o = .next t ∧ KeepsMemory s t := by
  obtain ⟨t, reached, same⟩ := kept
  exact ⟨t, reached, same.toSameStore.keepsMemory⟩

/-- A store request that leaves the staging buffer, the array and the current operation. -/
theorem keepsMemory_storeRequest {α : Type} (s : State) (kind : Nat) (f : Option α) (tests : α → State → List (Bool × Code))
    (act : α → Message → State → Answer) (acts : ∀ x m t, KeepsMemory t (act x m t).state) :
    KeepsMemory s (s.storeRequest kind f tests act) :=
  keepsMemory_agent.storeRequest (fun t => (sameStocks_lock t).toSameStore.keepsMemory) fun x m t _ => acts x m t.lock

theorem keepsMemory_retire (s : State) (block : Nat) : KeepsMemory s (s.retire block) := by
  obtain ⟨store, -⟩ := retire_store s block
  have flash : (s.retire block).flash = s.flash := by
    unfold State.retire State.cancelVerify
    dsimp only
    repeat' split
    all_goals rfl
  exact keepsMemory_staging (by rw [store]; exact id) flash (by rw [store])

theorem exec_keepsMemory (c : Instr) (s : State) : ∃ t, exec c s = .next t ∧ KeepsMemory s t := by
  cases c with
  | powerOn pins => exact ⟨_, rfl, keepsMemory_powerOn s pins⟩
  | framePeriodEvent => exact ⟨_, rfl, keepsMemory_framePeriodEvent s⟩
  | softReset =>
    refine ⟨_, rfl, ?_⟩
    split
    · exact (sameStore_withReturn s).keepsMemory.trans (keepsMemory_softReset _)
    · exact id
  | rampCompletion h =>
    obtain ⟨t, reached, same, -⟩ := sameStore_rampCompletion h s
    exact ⟨t, reached, same.keepsMemory⟩
  | setGroupLevel f =>
    obtain ⟨t, reached, same, -⟩ := exec_setGroupLevel_stocks f s
    exact ⟨t, reached, same.keepsMemory⟩
  | readDelivery a b c =>
    unfold exec execReadDelivery
    dsimp only
    split
    · exact ⟨_, rfl, keepsMemory_settled ((keepsMemory_deliver s _ a b c).trans (sameStocks_afterDelivery _ _).toSameStore.keepsMemory)⟩
    · exact ⟨_, rfl, id⟩
  | storeOperationStart =>
    refine ⟨_, rfl, ?_⟩
    split
    · exact keepsMemory_settled (keepsMemory_startHead s)
    · exact keepsMemory_settled id
  | pageProgramComplete pass =>
    unfold exec execPageProgramComplete
    dsimp only
    split
    · rename_i here
      exact ⟨_, rfl, keepsMemory_settled (keepsMemory_programEnds (currentStep_some here).1 pass)⟩
    · exact ⟨_, rfl, id⟩
  | blockEraseComplete pass =>
    unfold exec execBlockEraseComplete
    dsimp only
    split
    · exact ⟨_, rfl, keepsMemory_settled (keepsMemory_eraseEnds s _ pass)⟩
    · exact ⟨_, rfl, id⟩
  | eraseSuspended =>
    unfold exec execEraseSuspended
    dsimp only
    split
    · rename_i c _
      refine ⟨_, rfl, ?_⟩
      split
      · have loosened : KeepsMemory s (s.loosenErasing c) := by
          intro inv
          obtain ⟨staging, flash, copy⟩ := memoryInv_iff.1 inv
          exact memoryInv_iff.2 ⟨by rw [store_loosenErasing]; exact staging, flashOk_loosenErasing flash c,
            by rw [store_loosenErasing]; exact copy⟩
        exact keepsMemory_settled (loosened.trans
          (sameStore_modCurrent _ (fun c => { c with phase := .suspended }) fun c => ⟨rfl, rfl⟩).keepsMemory)
      · exact id
    · exact ⟨_, rfl, id⟩
  | settingsWriteComplete =>
    unfold exec execSettingsWriteComplete
    dsimp only
    split
    · exact ⟨_, rfl, keepsMemory_settled (keepsMemory_writeEnds s _)⟩
    · exact ⟨_, rfl, id⟩
  | loadPageData f =>
    refine ⟨_, rfl, keepsMemory_agent.serveWith fun f _ t => ?_⟩
    split
    · exact id
    · exact keepsMemory_staging (fun wf => cellsWf_writeCells wf f.offset f.data) rfl rfl
  | commitPage f => exact ⟨_, rfl, keepsMemory_storeRequest _ _ _ _ _ fun _ _ _ => keepsMemory_staging id rfl rfl⟩
  | eraseBlock f =>
    exact ⟨_, rfl, keepsMemory_storeRequest _ _ _ _ _ fun block m t =>
      (keepsMemory_staging (s := t) (t := t.enqueue (.erase block m.tag)) id rfl rfl).trans (keepsMemory_retire _ block)⟩
  | setProtectBoundary f => exact ⟨_, rfl, keepsMemory_storeRequest _ _ _ _ _ fun _ _ _ => keepsMemory_staging id rfl rfl⟩
  | raiseLockFloor f => exact ⟨_, rfl, keepsMemory_storeRequest _ _ _ _ _ fun _ _ _ => keepsMemory_staging id rfl rfl⟩
  | _ => exact (exec_keepsStocks _ s (by rfl)).keepsMemory

/-- Settles O5: a sample leaves the store but for the phase of its step, and each command keeps the canonical forms. -/
theorem memoryFormKept : Obligations.MemoryFormKept := by
  intro s t inv stepped
  rcases step_cases stepped with ⟨-, rfl⟩ | ⟨c, rest, -, completes⟩
  · exact (sameStore_formSample s).keepsMemory inv
  · obtain ⟨u, reached, kept⟩ := exec_keepsMemory c { s with pending := rest }
    rw [eq_of_next reached completes]
    exact kept ⟨inv.staging, inv.flash, inv.pages, inv.copy⟩

end Sys2Proof.Machine

/-! # The requests: what one that is taken leaves and answers (R170, R171), and those of single blocks -/

namespace Sys2Proof.Machine

/-! ## A request taken -/

/-- The state with the head message taken. -/
abbrev State.took (s : State) (m : Message) (rest : List Message) : State := s.modAgent fun a => a.taking m rest

/-- What a request leaves besides its answer: a state whose agent has only taken the message. -/
theorem answer_of_took {s u : State} {m : Message} {rest : List Message} (code : Code) (body : Body)
    (agent : u.play.agent = (s.took m rest).play.agent) (link : u.link = s.link) :
    u.answer m code body = { u with play := { u.play with agent := s.agentAfter m rest code body } } := by
  have taken : s.agentAfter m rest code body = ((s.took m rest).answer m code body).play.agent := by
    rw [answer_taking]
    rfl
  rw [taken]
  unfold State.answer
  split
  · show u = { u with play := { u.play with agent := (s.took m rest).play.agent } }
    rw [← agent]
  · show { u with play := { u.play with agent := _ } } = _
    rw [agent, link]
    rfl

/-- A request with fields, whose action touches neither the agent nor the link. -/
theorem serveWith_eq {α : Type} {s u : State} {kind : Nat} {m : Message} {rest : List Message} (h : Takes s kind m rest) (x : α)
    {act : α → Message → State → Answer} {code : Code} {body : Body} (acts : act x m (s.took m rest) = ⟨u, code, body⟩)
    (agent : u.play.agent = (s.took m rest).play.agent) (link : u.link = s.link) :
    s.serveWith kind (some x) act = { u with play := { u.play with agent := s.agentAfter m rest code body } } := by
  have head : s.headOf (fun k => k == kind) = some (m, rest) := head_of_takes h _ (beq_self_eq_true kind)
  simp only [State.serveWith, State.serve, head, acts]
  exact answer_of_took code body agent link

/-- A request refused by its own tests changes nothing but the agent. -/
theorem serveWith_refused {α : Type} {s : State} {kind : Nat} {m : Message} {rest : List Message} (h : Takes s kind m rest) (x : α)
    {act : α → Message → State → Answer} {code : Code} (refused : act x m (s.took m rest) = (s.took m rest).refuse code) :
    s.serveWith kind (some x) act = s.answered m rest code .none := serveWith_answered h x refused

/-- A request without parameters, whose action touches neither the agent nor the link. -/
theorem servePlain_eq {s u : State} {kind : Nat} {m : Message} {rest : List Message} (h : Takes s kind m rest) (plain : m.body = [])
    {act : Message → State → Answer} {code : Code} {body : Body} (acts : act m (s.took m rest) = ⟨u, code, body⟩)
    (agent : u.play.agent = (s.took m rest).play.agent) (link : u.link = s.link) :
    s.servePlain kind act = { u with play := { u.play with agent := s.agentAfter m rest code body } } := by
  have head : s.headOf (fun k => k == kind) = some (m, rest) := head_of_takes h _ (beq_self_eq_true kind)
  have empty : m.body.isEmpty = true := List.isEmpty_iff.2 plain
  simp only [State.servePlain, State.serve, head, empty, if_true, acts]
  exact answer_of_took code body agent link

/-! ## Numbers that name nothing -/

theorem regionOf_none {n : Nat} (out : 23 < n) : regionOf n = none := dif_neg (by omega)
theorem slotOf_none {n : Nat} (out : 15 < n) : slotOf n = none := dif_neg (by omega)
theorem voiceOf_none {n : Nat} (out : 31 < n) : voiceOf n = none := dif_neg (by omega)
theorem gainGroupOf_none {n : Nat} (out : 7 < n) : gainGroupOf n = none := dif_neg (by omega)
theorem linkGroupOf_none {n : Nat} (out : n = 0 ∨ 7 < n) : linkGroupOf n = none := dif_neg (by omega)

@[simp] theorem voiceOf_val (v : VoiceNo) : voiceOf v.val = some v := dif_pos v.isLt
@[simp] theorem gainGroupOf_val (g : GainGroup) : gainGroupOf g.val = some g := dif_pos g.isLt
@[simp] theorem linkGroupOf_val (g : LinkGroup) : linkGroupOf (g.val + 1) = some g := by
  have inRange : 1 ≤ g.val + 1 ∧ g.val + 1 ≤ 7 := ⟨by omega, by have := g.isLt; omega⟩
  exact (dif_pos inRange).trans rfl

theorem onSlot_none (s : State) {region slot : Nat} (out : 23 < region ∨ 15 < slot) (act : Region → Fin 16 → Slot → Answer) :
    s.onSlot region slot act = s.refuse .badArgument := by
  unfold State.onSlot
  rcases out with out | out
  · rw [regionOf_none out]
  · rw [slotOf_none out]
    cases regionOf region <;> rfl

/-! ## Reset Enable and Reset (R174) -/

/-- Settles O43: the latch is tested as the message is taken, and Reset Enable alone keeps it. -/
theorem resetNeedsItsLatch : Obligations.ResetNeedsItsLatch := by
  intro s m rest plain
  refine ⟨fun takes => ?enabled, fun takes clear => ?refused, fun takes set => ?pending⟩
  case refused =>
    refine congrArg Host.Outcome.next (servePlain_answered takes plain ?_)
    simp only [clear]
    rfl
  all_goals
    have head : s.headOf (fun k => k == _) = some (m, rest) := head_of_takes takes _ (beq_self_eq_true _)
    have empty : m.body.isEmpty = true := List.isEmpty_iff.2 plain
  case enabled =>
    show Host.Outcome.next (s.servePlain 0x02 _) = _
    congr 1
    simp only [State.servePlain, State.serve, head, empty, if_true]
    by_cases broadcast : m.target = 255
    · simp [State.answer, Message.broadcast, broadcast, State.modAgent, State.done, State.agentAfter, repliesTo, Agent.taking, Agent.less]
    · simp [State.answer, Message.broadcast, broadcast, State.modAgent, State.done, State.agentAfter, repliesTo, Agent.taking, Agent.less,
        Agent.reply]
  case pending =>
    show Host.Outcome.next (s.servePlain 0x03 _) = _
    congr 1
    have kind : (m.kind == 2) = false := by rw [takes.kind]; rfl
    simp only [State.servePlain, State.serve, head, empty, if_true, set]
    by_cases broadcast : m.target = 255
    · simp [State.answer, State.pendReset, Message.broadcast, broadcast, State.modAgent, State.done, State.agentAfter, repliesTo,
        Agent.taking, Agent.less, kind]
    · simp [State.answer, State.pendReset, Message.broadcast, broadcast, State.modAgent, State.done, State.agentAfter, repliesTo,
        Agent.taking, Agent.less, Agent.reply, kind]

/-! ## Fetch As-Run (R151, R153) -/

theorem fetchCount_eq (n : Nat) : fetchCount n = if n = 0 then 16 else min n 16 := by
  unfold fetchCount
  rw [Nat.min_comm]

theorem take_min_length {α : Type} (n : Nat) (l : List α) : l.take (min n l.length) = l.take n := by
  rcases Nat.le_total n l.length with le | le
  · rw [Nat.min_eq_left le]
  · rw [Nat.min_eq_right le, List.take_length, List.take_of_length_le le]

/-- Settles O59: the records fetched are the oldest, and those held after are the rest. -/
theorem fetchAsRunRemoves : Obligations.FetchAsRunRemoves := by
  intro s m rest n takes l k
  have count : min (fetchCount n) l.records.length = k := by rw [fetchCount_eq]
  refine congrArg Host.Outcome.next ((serveWith_eq (code := .ok)
    (body := .records (l.records.take k) (l.records.length - k))
    (u := { s.took m rest with play := { (s.took m rest).play with log := l.fetch (fetchCount n) } }) takes n ?_ rfl rfl).trans ?_)
  · have taken : l.records.take k = l.records.take (fetchCount n) := by rw [← count, take_min_length]
    have left : (l.fetch (fetchCount n)).records.length = l.records.length - k := by
      rw [AsRunLog.fetch, List.length_drop, count]
    rw [taken, ← left]
    rfl
  · have fetched : l.fetch (fetchCount n) = { l with
        records := l.records.drop k, fetched := l.fetched + BitVec.ofNat 48 k
        raised := l.raised && decide (2048 ≤ l.records.length - k) } := by
      simp only [AsRunLog.fetch, count]
    rw [fetched]
    rfl

/-! ## Link groups (R92, R101) -/

/-- Settles O51: the gate named is tested for CLOSED, and a number that names no gate is refused before. -/
theorem linkGroupRequests : Obligations.LinkGroupRequests := by
  refine ⟨fun s m rest f g takes named => ⟨fun busy => ?refused, fun free => ?configured⟩, fun s m rest g takes => ?status,
    fun s m rest f n out out' => ⟨fun takes => ?noGroup, fun takes => ?noGate⟩⟩
  case refused =>
    refine congrArg Host.Outcome.next (serveWith_refused takes f ?_)
    have test : ((s.play.gate g).state != .closed) = true := by simpa using busy
    simp only [named, linkGroupOf_val]
    exact if_pos test
  case configured =>
    have test : ¬ ((s.play.gate g).state != .closed) = true := by simpa using free
    have short : min 5000 f.waitMs = min f.waitMs 5000 := Nat.min_comm _ _
    refine congrArg Host.Outcome.next (serveWith_eq (code := .ok) (body := .none)
      (u := { s.took m rest with
        play := (s.took m rest).play.setGate g { s.play.gate g with mask := f.mask, waitMs := min f.waitMs 5000 } }) takes f ?_ rfl rfl)
    simp only [named, linkGroupOf_val]
    rw [← short]
    exact if_neg test
  case status =>
    refine congrArg Host.Outcome.next (serveWith_answered takes _ ?_)
    simp only [linkGroupOf_val]
    rfl
  case noGroup =>
    refine congrArg Host.Outcome.next (serveWith_refused takes f ?_)
    rw [linkGroupOf_none out]
  case noGate =>
    refine congrArg Host.Outcome.next (serveWith_refused takes n ?_)
    rw [linkGroupOf_none out']

/-! ## Voice Status (R76) -/

/-- The read class, in the words of R62. -/
theorem readClass_eq (x : Voice) : x.readClass =
    if x.state = .priming ∨ (x.state = .playing ∨ x.state = .ready) ∧ x.ring.length < 3 then 1 else 2 := by
  unfold Voice.readClass Voice.isUrgent
  simp only [Bool.or_eq_true, Bool.and_eq_true, beq_iff_eq, decide_eq_true_eq]

/-- Settles O49: the record is read at the taking, which leaves the voices and the waiting list. -/
theorem voiceStatusAnswers : Obligations.VoiceStatusAnswers := by
  refine ⟨?answered, fun s m rest n takes out => ?refused⟩
  case answered =>
    intro s m rest v takes x free
    refine congrArg Host.Outcome.next (serveWith_answered takes v.val ?_)
    simp only [voiceOf_val, ← readClass_eq]
    rfl
  case refused =>
    refine congrArg Host.Outcome.next (serveWith_refused takes n ?_)
    rw [voiceOf_none out]

/-! ## The Verify Unit takes the head of its queue (R107) -/

/-- Settles O35: the four conditions make the take due, and the head is taken with all its counts 0. -/
theorem verifyTakeStartsJob : Obligations.VerifyTakeStartsJob := by
  intro s clip tag rest noJob complete queued noCancelled
  have due : s.takeDue = true := by
    have flying : (match s.inFlight with | some f => f.who != .cancelledVerify | none => true) = true := by
      cases flight : s.inFlight with
      | none => rfl
      | some f => simpa using noCancelled f flight
    simp only [State.takeDue, noJob, complete, queued, Bool.and_eq_true]
    exact ⟨⟨⟨rfl, rfl⟩, rfl⟩, flying⟩
  show Host.Outcome.next (if s.takeDue then s.verifyTake else s) = _
  rw [if_pos due, State.verifyTake, queued]
  rfl

/-! ## Loop wraps (R64) -/

/-- Settles O22: the wrap is due, and changes of the voice what `Voice.wrap_form` lists. -/
theorem loopWrapRestarts : Obligations.LoopWrapRestarts := by
  intro s v assembling playing loops atEnd
  have due : (s.play.voice v).loopWrapDue = true := by
    simp [Voice.loopWrapDue, Voice.atEnd, playing, loops, atEnd]
  obtain ⟨pending, wrapped⟩ := (s.play.voice v).wrap_form
  refine ⟨pending, ?_⟩
  show Host.Outcome.next (s.event (s.play.voice v).loopWrapDue fun p _ => p.modVoice v Voice.wrap) = _
  simp only [State.event, assembling, due, Bool.and_self, if_true, Play.modVoice, wrapped]
  unfold Voice.ringAfterWrap Voice.lastPage
  cases (s.play.voice v).ring <;> rfl

end Sys2Proof.Machine

/-! # Region requests (O44), plan requests (O46, O47), group fades (O50) -/

namespace Sys2Proof.Machine

/-! ## Configure Region, Release Bypass and Region Status (R35 to R37) -/

theorem configOf_eq (f : ConfigureRegionFields) : configOf f =
    ⟨f.enabled, f.fillerClip, f.fillerLevel, f.duckLevel, min f.overrunMs 10000, min (max f.maxBreakMs 1000) 600000,
      min (max f.armTimeoutS 1) 60⟩ := by
  simp only [configOf, clampTo, Nat.min_comm, Nat.max_comm, Nat.max_zero]

theorem configureRegion_named (s : State) {m : Message} {rest : List Message} {f : ConfigureRegionFields} {r : Region}
    (takes : Takes s 0x10 m rest) (named : f.region = r.val) :
    let x := s.play.region r
    let off := x.state ≠ .network ∧ x.state ≠ .bypass
    (off → exec (.configureRegion (some f)) s = .next (s.answered m rest .refusedState .none)) ∧
    (¬ off → 1023 < f.fillerClip → exec (.configureRegion (some f)) s = .next (s.answered m rest .badArgument .none)) ∧
    (¬ off → f.fillerClip ≤ 1023 → exec (.configureRegion (some f)) s = .next { s with play :=
      { s.play.setRegion r { x with
          state := if f.enabled then x.state else .bypass
          config := ⟨f.enabled, f.fillerClip, f.fillerLevel, f.duckLevel, min f.overrunMs 10000, min (max f.maxBreakMs 1000) 600000,
            min (max f.armTimeoutS 1) 60⟩ } with
        agent := s.agentAfter m rest .ok .none } }) := by
  intro x off
  have test : (x.state != .network && x.state != .bypass) = true ↔ off := by simp [off]
  have acts : ∀ t : State, t.play.region r = x → t.configure r f =
      if x.state != .network && x.state != .bypass then t.refuse .refusedState
      else if 1023 < f.fillerClip then t.refuse .badArgument
      else ({ t with play := t.play.setRegion r { x with config := configOf f, state := if f.enabled then x.state else .bypass } } :
        State).done := by
    intro t same
    unfold State.configure
    rw [same]
  refine ⟨fun isOff => ?_, fun on wrong => ?_, fun on right => ?_⟩
  · refine congrArg Host.Outcome.next (serveWith_refused takes f ?_)
    simp only [named, regionOf_val]
    rw [acts (s.took m rest) rfl, if_pos (test.2 isOff)]
  · refine congrArg Host.Outcome.next (serveWith_refused takes f ?_)
    simp only [named, regionOf_val]
    rw [acts (s.took m rest) rfl, if_neg (mt test.1 on), if_pos wrong]
  · rw [← configOf_eq]
    refine congrArg Host.Outcome.next (serveWith_eq (code := .ok) (body := .none) (u := { s.took m rest with
      play := (s.took m rest).play.setRegion r { x with config := configOf f, state := if f.enabled then x.state else .bypass } })
      takes f ?_ rfl rfl)
    simp only [named, regionOf_val]
    rw [acts (s.took m rest) rfl, if_neg (mt test.1 on), if_neg (by omega)]
    rfl

theorem releaseBypass_named (s : State) {m : Message} {rest : List Message} (r : Region) (takes : Takes s 0x13 m rest) :
    let x := s.play.region r
    (x.state = .bypass → x.config.enabled = true → exec (.releaseBypass (some r.val)) s = .next { s with play :=
      { s.play.setRegion r { x with state := .network } with agent := s.agentAfter m rest .ok .none } }) ∧
    (x.state ≠ .bypass ∨ x.config.enabled = false →
      exec (.releaseBypass (some r.val)) s = .next (s.answered m rest .refusedState .none)) := by
  intro x
  have test : (x.state != .bypass || !x.config.enabled) = true ↔ x.state ≠ .bypass ∨ x.config.enabled = false := by simp
  refine ⟨fun bypass enabled => ?_, fun refused => ?_⟩
  · refine congrArg Host.Outcome.next (serveWith_eq (code := .ok) (body := .none)
      (u := { s.took m rest with play := (s.took m rest).play.setState r .network }) takes r.val ?_ rfl rfl)
    simp only [regionOf_val]
    exact if_neg (mt test.1 (by simp [bypass, enabled]))
  · refine congrArg Host.Outcome.next (serveWith_refused takes r.val ?_)
    simp only [regionOf_val]
    exact if_pos (test.2 refused)

/-- Each of the four region requests tests the region number first. -/
theorem region_out_of_range (s : State) {m : Message} {rest : List Message} {f : ConfigureRegionFields} {n : Nat} (out : 23 < f.region)
    (out' : 23 < n) :
    (Takes s 0x10 m rest → exec (.configureRegion (some f)) s = .next (s.answered m rest .badArgument .none)) ∧
    (Takes s 0x11 m rest → exec (.regionStatus (some n)) s = .next (s.answered m rest .badArgument .none)) ∧
    (Takes s 0x12 m rest → exec (.forceNetwork (some n)) s = .next (s.answered m rest .badArgument .none)) ∧
    (Takes s 0x13 m rest → exec (.releaseBypass (some n)) s = .next (s.answered m rest .badArgument .none)) := by
  refine ⟨fun takes => ?_, fun takes => ?_, fun takes => ?_, fun takes => ?_⟩
  · refine congrArg Host.Outcome.next (serveWith_refused takes f ?_)
    rw [regionOf_none out]
  · refine congrArg Host.Outcome.next (serveWith_refused takes n ?_)
    rw [regionOf_none out']
  · show execForceNetwork (some n) s = _
    unfold execForceNetwork
    rw [Option.bind_some, regionOf_none out']
    exact congrArg Host.Outcome.next (serveWith_refused takes n rfl)
  · refine congrArg Host.Outcome.next (serveWith_refused takes n ?_)
    rw [regionOf_none out']

/-- Settles O44: the tests in their order, and the status read at the taking. -/
theorem regionRequests : Obligations.RegionRequests := by
  refine ⟨⟨fun s m rest f r takes named => configureRegion_named s takes named, fun s m rest r takes => releaseBypass_named s r takes,
    fun s m rest f n out out' => region_out_of_range s out out'⟩, ?status⟩
  case status =>
    intro s m rest r takes x
    refine ⟨x.status s.link.count, ?answered, rfl, rfl, rfl, rfl, rfl, rfl, ?closed, ?armed, ?opened⟩
    case answered =>
      refine congrArg Host.Outcome.next (serveWith_eq (code := .ok) (body := .regionStatus (x.status s.link.count))
        (u := { s.took m rest with play := (s.took m rest).play.modRegion r RegionRec.clearPeaks }) takes r.val ?_ rfl rfl)
      simp only [regionOf_val]
      rfl
    case closed =>
      intro none
      simp only [RegionRec.status, none, Option.map_none]
    case armed =>
      intro d primed deadline
      simp only [RegionRec.status, primed, deadline, if_true, Option.map_some]
    case opened =>
      intro b broken
      refine ⟨x.breakStatus b s.link.count, by simp only [RegionRec.status, broken, Option.map_some], rfl, rfl, rfl, rfl, ?_, rfl, rfl,
        rfl, rfl, rfl, rfl, rfl⟩
      intro d runs deadline
      simp only [RegionRec.breakStatus, runs, deadline, if_true, Option.map_some]

/-! ## Open Plan and Append Item (R42, R43) -/

/-- A plan request on a slot that exists, refused. -/
theorem slotRequest_refused {α : Type} {s : State} {kind : Nat} {m : Message} {rest : List Message} (h : Takes s kind m rest) (x : α)
    {region slot : α → Nat} {act : α → State → Region → Fin 16 → Slot → Answer} {r : Region} {n : Fin 16} (hr : region x = r.val)
    (hn : slot x = n.val) {code : Code} (refused : act x (s.took m rest) r n (s.play.slot r n) = (s.took m rest).refuse code) :
    s.serveWith kind (some x) (fun x _ t => t.onSlot (region x) (slot x) (act x t)) = s.answered m rest code .none := by
  refine serveWith_refused h x ?_
  rw [hr, hn, onSlot_val, slot_modAgent, refused]

/-- A plan request on a slot that exists, which writes the slot. -/
theorem slotRequest_written {α : Type} {s : State} {kind : Nat} {m : Message} {rest : List Message} (h : Takes s kind m rest) (x : α)
    {region slot : α → Nat} {act : α → State → Region → Fin 16 → Slot → Answer} {r : Region} {n : Fin 16} (hr : region x = r.val)
    (hn : slot x = n.val) {code : Code} {body : Body} {y : Slot}
    (writes : act x (s.took m rest) r n (s.play.slot r n) = ⟨(s.took m rest).putSlot r n y, code, body⟩) :
    s.serveWith kind (some x) (fun x _ t => t.onSlot (region x) (slot x) (act x t)) =
      { s with play := { s.play.setSlot r n y with agent := s.agentAfter m rest code body } } := by
  refine (serveWith_eq (u := (s.took m rest).putSlot r n y) (code := code) (body := body) h x ?_ rfl rfl).trans rfl
  rw [hr, hn, onSlot_val, slot_modAgent, writes]

theorem planOf_eq (f : OpenPlanFields) (fill : FillPolicy) :
    planOf f fill = ⟨f.breakId, min f.leadInMs 5000, min f.leadOutMs 5000, fill, f.singleUse, []⟩ := by
  simp only [planOf, Nat.min_comm]

theorem openPlan_named (s : State) {m : Message} {rest : List Message} {f : OpenPlanFields} {r : Region} {n : Fin 16}
    (takes : Takes s 0x20 m rest) (hr : f.region = r.val) (hn : f.slot = n.val) :
    ((s.play.slot r n).state ≠ .empty → exec (.openPlan (some f)) s = .next (s.answered m rest .refusedState .none)) ∧
    ((s.play.slot r n).state = .empty → fillOf f.fillPolicy = none →
      exec (.openPlan (some f)) s = .next (s.answered m rest .badArgument .none)) ∧
    (∀ fill, (s.play.slot r n).state = .empty → fillOf f.fillPolicy = some fill →
      exec (.openPlan (some f)) s = .next { s with play :=
        { s.play.setSlot r n ⟨.loading, some ⟨f.breakId, min f.leadInMs 5000, min f.leadOutMs 5000, fill, f.singleUse, []⟩⟩ with
          agent := s.agentAfter m rest .ok .none } }) := by
  have test : ((s.play.slot r n).state != .empty) = true ↔ (s.play.slot r n).state ≠ .empty := bne_iff_ne
  refine ⟨fun busy => ?_, fun free undefined => ?_, fun fill free defined => ?_⟩
  · exact congrArg Host.Outcome.next (slotRequest_refused takes f hr hn (if_pos (test.2 busy)))
  · refine congrArg Host.Outcome.next (slotRequest_refused takes f hr hn ?_)
    rw [if_neg (mt test.1 (not_not.2 free)), undefined]
  · refine congrArg Host.Outcome.next (slotRequest_written takes f hr hn ?_)
    rw [if_neg (mt test.1 (not_not.2 free)), defined, ← planOf_eq]
    rfl

/-- R43: a bad field, in the words of the obligation. -/
def BadItem (f : AppendItemFields) : Prop :=
  f.clip = 0 ∨ 1023 < f.clip ∨ 1023 < f.substitute ∨ lengthOf f.length = none ∨ transitionOf f.transition = none ∨
    7 < f.group ∨ 7 < f.link

theorem itemOf_bad {f : AppendItemFields} (bad : BadItem f) : itemOf f = none := by
  unfold itemOf
  split
  · rename_i len tr g hlen htr hg
    rw [if_pos]
    rcases bad with zero | clip | substitute | length | transition | group | link
    · exact .inl zero
    · exact .inr (.inl clip)
    · exact .inr (.inr (.inl substitute))
    · rw [hlen] at length; cases length
    · rw [htr] at transition; cases transition
    · rw [gainGroupOf_none group] at hg; cases hg
    · exact .inr (.inr (.inr link))
  · rfl

/-- R43: what each field of the item is, where every field passes its test. -/
theorem itemOf_good {f : AppendItemFields} (good : ¬ BadItem f) : ∃ it, itemOf f = some it ∧ it.clip = f.clip ∧ it.substitute = f.substitute ∧
    some it.length = lengthOf f.length ∧ some it.transition = transitionOf f.transition ∧
    it.transitionMs = (if it.transition = .cut then 0 else min f.transitionMs 2000) ∧
    it.level = (if f.levelGiven then f.level else 231) ∧ it.group.val = f.group ∧ it.droppable = f.droppable ∧
    it.link.map (fun g => g.val + 1) = if f.link = 0 then none else some f.link := by
  simp only [BadItem, not_or, Nat.not_lt] at good
  obtain ⟨clip, clip', substitute, length, transition, group, link⟩ := good
  obtain ⟨len, hlen⟩ := Option.ne_none_iff_exists'.1 length
  obtain ⟨tr, htr⟩ := Option.ne_none_iff_exists'.1 transition
  have hg : gainGroupOf f.group = some ⟨f.group, by omega⟩ := dif_pos (by omega)
  have inRange : ¬ (f.clip = 0 ∨ 1023 < f.clip ∨ 1023 < f.substitute ∨ 7 < f.link) := by omega
  refine ⟨_, by unfold itemOf; rw [hlen, htr, hg]; exact if_neg inRange, rfl, rfl, hlen.symm, htr.symm, ?_, rfl, rfl, rfl, ?_⟩
  · cases tr with
    | cut => rfl
    | mix => simp only [transitionMsOf, Nat.min_comm]; rfl
  · dsimp only
    by_cases zero : f.link = 0
    · rw [if_pos zero, linkGroupOf_none (.inl zero), Option.map_none]
    · rw [if_neg zero, linkGroupOf, dif_pos ⟨by omega, link⟩, Option.map_some]
      congr 1
      show f.link - 1 + 1 = f.link
      omega

theorem appendItem_named (s : State) {m : Message} {rest : List Message} {f : AppendItemFields} {r : Region} {n : Fin 16}
    (takes : Takes s 0x21 m rest) (hr : f.region = r.val) (hn : f.slot = n.val) :
    ((s.play.slot r n).state ≠ .loading → exec (.appendItem (some f)) s = .next (s.answered m rest .refusedState .none)) ∧
    (∀ pl, s.play.slot r n = ⟨.loading, some pl⟩ →
      (BadItem f → exec (.appendItem (some f)) s = .next (s.answered m rest .badArgument .none)) ∧
      (¬ BadItem f → 12 ≤ pl.items.length → exec (.appendItem (some f)) s = .next (s.answered m rest .tableFull .none)) ∧
      (∀ it, itemOf f = some it → pl.items.length < 12 → exec (.appendItem (some f)) s = .next { s with play :=
          { s.play.setSlot r n ⟨.loading, some { pl with items := pl.items ++ [it] }⟩ with
            agent := s.agentAfter m rest .ok (.itemIndex pl.items.length) } })) := by
  refine ⟨fun other => ?_, fun pl loading => ⟨fun bad => ?_, fun good full => ?_, fun it item room => ?_⟩⟩
  · refine congrArg Host.Outcome.next (slotRequest_refused takes f hr hn ?_)
    split
    · rename_i loading _
      exact absurd loading other
    · rfl
  · refine congrArg Host.Outcome.next (slotRequest_refused takes f hr hn ?_)
    simp only [loading, itemOf_bad bad]
  · obtain ⟨it, item, -⟩ := itemOf_good good
    refine congrArg Host.Outcome.next (slotRequest_refused takes f hr hn ?_)
    simp only [loading, item]
    exact if_pos full
  · refine congrArg Host.Outcome.next (slotRequest_written takes f hr hn ?_)
    simp only [loading, item]
    exact if_neg (by omega)

/-- Settles O46: the tests of the two requests in their order. -/
theorem planLoaded : Obligations.PlanLoaded := by
  refine ⟨fun s m rest f r n takes hr hn => openPlan_named s takes hr hn, fun s m rest f r n takes hr hn => ?_⟩
  obtain ⟨other, loading⟩ := appendItem_named s takes hr hn
  refine ⟨other, fun pl held => ?_⟩
  obtain ⟨bad, full, room⟩ := loading pl held
  refine ⟨bad, full, fun good short => ?_⟩
  obtain ⟨it, item, fields⟩ := itemOf_good (f := f) good
  exact ⟨it, room it item short, fields⟩

/-! ## Close Plan, Clear Plan, and numbers out of range (R41, R44, R45) -/

theorem mem_allSlots (n : Fin 16) : n ∈ allSlots := by decide +revert
theorem mem_allRegions (r : Region) : r ∈ allRegions := by decide +revert
theorem mem_allVoices (v : VoiceNo) : v ∈ allVoices := by decide +revert
theorem mem_allLinkGroups (g : LinkGroup) : g ∈ allLinkGroups := by decide +revert
theorem mem_allGainGroups (g : GainGroup) : g ∈ allGainGroups := by decide +revert

theorem readyWith_iff (x : Slot) (breakId : Nat) :
    x.readyWith breakId = true ↔ x.state = .ready ∧ x.plan.map Plan.breakId = some breakId := by
  unfold Slot.readyWith
  cases x.plan <;> simp

theorem duplicateReady_iff (p : Play) (r : Region) (n : Fin 16) (breakId : Nat) : p.duplicateReady r n breakId = true ↔
    ∃ k, k ≠ n ∧ (p.slot r k).state = .ready ∧ (p.slot r k).plan.map Plan.breakId = some breakId := by
  simp [Play.duplicateReady, mem_allSlots, readyWith_iff]

theorem closePlan_named (s : State) {m : Message} {rest : List Message} {f : SlotFields} {r : Region} {n : Fin 16}
    (takes : Takes s 0x22 m rest) (hr : f.region = r.val) (hn : f.slot = n.val) :
    ((s.play.slot r n).state ≠ .loading → exec (.closePlan (some f)) s = .next (s.answered m rest .refusedState .none)) ∧
    (∀ pl, s.play.slot r n = ⟨.loading, some pl⟩ →
      let twin := ∃ k, k ≠ n ∧ (s.play.slot r k).state = .ready ∧ (s.play.slot r k).plan.map Plan.breakId = some pl.breakId
      (pl.items = [] → exec (.closePlan (some f)) s = .next (s.answered m rest .badArgument .none)) ∧
      (pl.items ≠ [] → twin → exec (.closePlan (some f)) s = .next (s.answered m rest .duplicateBreak .none)) ∧
      (pl.items ≠ [] → ¬ twin → exec (.closePlan (some f)) s = .next { s with play :=
        { s.play.setSlot r n ⟨.ready, some pl⟩ with agent := s.agentAfter m rest .ok .none } })) := by
  refine ⟨fun other => ?_, fun pl loading => ?_⟩
  · refine congrArg Host.Outcome.next (slotRequest_refused takes f hr hn ?_)
    split
    · rename_i loading _
      exact absurd loading other
    · rfl
  · intro twin
    have test : (s.took m rest).play.duplicateReady r n pl.breakId = true ↔ twin := duplicateReady_iff s.play r n pl.breakId
    have items : pl.items.isEmpty = true ↔ pl.items = [] := List.isEmpty_iff
    refine ⟨fun none => ?_, fun some isTwin => ?_, fun some noTwin => ?_⟩
    · refine congrArg Host.Outcome.next (slotRequest_refused takes f hr hn ?_)
      simp only [loading]
      exact if_pos (items.2 none)
    · refine congrArg Host.Outcome.next (slotRequest_refused takes f hr hn ?_)
      simp only [loading]
      exact (if_neg (mt items.1 some)).trans (if_pos (test.2 isTwin))
    · refine congrArg Host.Outcome.next (slotRequest_written takes f hr hn ?_)
      simp only [loading]
      exact (if_neg (mt items.1 some)).trans (if_neg (mt test.1 noTwin))

theorem cleared_eq (x : Slot) : x.cleared = match x.state with
    | .inUse => ⟨.retiring, x.plan⟩
    | .retiring => x
    | _ => ⟨.empty, none⟩ := by
  unfold Slot.cleared
  cases x.state <;> rfl

/-- A plan request on a region or slot that does not exist. -/
theorem slotRequest_out {α : Type} {s : State} {kind : Nat} {m : Message} {rest : List Message} (h : Takes s kind m rest) (x : α)
    {region slot : α → Nat} {act : α → State → Region → Fin 16 → Slot → Answer} (out : 23 < region x ∨ 15 < slot x) :
    s.serveWith kind (some x) (fun x _ t => t.onSlot (region x) (slot x) (act x t)) = s.answered m rest .badArgument .none := by
  refine serveWith_refused h x ?_
  rw [onSlot_none _ out]

/-- Settles O47: the tests of Close Plan in their order, the slot that Clear Plan leaves, and the range test of the five requests. -/
theorem planSlotRequests : Obligations.PlanSlotRequests := by
  refine ⟨⟨fun s m rest f r n takes hr hn => closePlan_named s takes hr hn, fun s m rest f r n takes hr hn => ?cleared⟩, ?outOfRange⟩
  case cleared =>
    refine (congrArg Host.Outcome.next (slotRequest_written takes f hr hn rfl)).trans ?_
    rw [cleared_eq] <;> rfl
  case outOfRange =>
    intro s m rest c kind region slot out which isKind takes
    rcases which with ⟨f, rfl, rfl, rfl⟩ | ⟨f, rfl, rfl, rfl⟩ | plain
    · cases isKind
      exact congrArg Host.Outcome.next (slotRequest_out takes f out)
    · cases isKind
      exact congrArg Host.Outcome.next (slotRequest_out takes f out)
    · simp only [List.mem_cons, List.not_mem_nil, or_false] at plain
      rcases plain with rfl | rfl | rfl
      · cases isKind
        exact congrArg Host.Outcome.next (slotRequest_out takes (SlotFields.mk region slot) out)
      · cases isKind
        exact congrArg Host.Outcome.next (slotRequest_out takes (SlotFields.mk region slot) out)
      · cases isKind
        exact congrArg Host.Outcome.next (slotRequest_out takes (SlotFields.mk region slot) out)

/-! ## Set Group Level, Read Levels, and the boundary (R90, R91) -/

/-- A fold over distinct groups leaves the group of each changed once, and every other as it was. -/
theorem foldl_setGroup (f : GroupRec → GroupRec) (l : List GainGroup) (distinct : l.Nodup) (gs : Vector GroupRec 8) (g : GainGroup) :
    (l.foldl (fun acc h => setGroup acc h (f acc[h])) gs)[g] = if g ∈ l then f gs[g] else gs[g] := by
  induction l generalizing gs with
  | nil => rfl
  | cons h l ih =>
    obtain ⟨fresh, distinct'⟩ := List.nodup_cons.1 distinct
    rw [List.foldl_cons, ih distinct']
    by_cases same : h = g
    · subst same
      rw [if_neg fresh, if_pos List.mem_cons_self, setGroup_same]
    · rw [setGroup_other gs h g _ same]
      simp [Ne.symm same]

/-- An update of the groups 1..7 changes each of them once. -/
theorem mapGroups_other (gs : Vector GroupRec 8) (f : GroupRec → GroupRec) {g : GainGroup} (above : g ≠ 0) :
    (mapGroups gs f)[g] = f gs[g] := by
  have listed : g ∈ allGainGroups.tail := by decide +revert
  exact (foldl_setGroup f allGainGroups.tail (by decide) gs g).trans (if_pos listed)

theorem atBoundary_eq (g : GroupRec) : g.atBoundary =
    let f := match g.waiting with
      | some (target, ms) => g.fader.begin target ms
      | none => g.fader
    ⟨f, none, f.level⟩ := rfl

theorem setGroupLevel_named (s : State) {m : Message} {rest : List Message} {f : GroupLevelFields} (takes : Takes s 0x38 m rest) :
    (f.group = 0 ∨ 7 < f.group → exec (.setGroupLevel (some f)) s = .next (s.answered m rest .badArgument .none)) ∧
    (∀ g : GainGroup, g ≠ 0 → f.group = g.val → exec (.setGroupLevel (some f)) s = .next
      { s.answered m rest .ok .none with
        levels := setGroup s.levels g { s.levels[g] with waiting := some (f.target, min f.durationMs 10000) } }) := by
  refine ⟨fun bad => ?_, fun g above named => ?_⟩
  · refine congrArg Host.Outcome.next (serveWith_refused takes f ?_)
    rcases bad with zero | out
    · have first : gainGroupOf f.group = some 0 := by rw [zero]; rfl
      simp only [first, if_true]
    · rw [gainGroupOf_none out]
  · refine congrArg Host.Outcome.next ((serveWith_eq (code := .ok) (body := .none)
      (u := (s.took m rest).fade g f.target f.durationMs) takes f ?_ rfl rfl).trans ?_)
    · simp only [named, gainGroupOf_val]
      exact if_neg above
    · rw [Nat.min_comm f.durationMs]
      rfl

/-- R91: what Read Levels returns of a group. -/
theorem record_spec (g : GroupRec) : g.record.level = g.shown ∧ g.record.waiting = g.waiting ∧
    (∀ q, g.fader.ramp = some q → q.left ≠ 0 →
      g.record.target = q.target ∧ g.record.interval = some q.interval ∧ g.record.left = q.left) ∧
    ((∀ q, g.fader.ramp = some q → q.left = 0) →
      g.record.target = g.record.level ∧ g.record.interval = none ∧ g.record.left = 0) := by
  unfold GroupRec.record
  cases ramp : g.fader.ramp with
  | none => simp
  | some q => by_cases done : q.left = 0 <;> simp [done]

/-- Settles O50: the request tests its group, the reply is read at the taking, and the boundary begins what waits. -/
theorem groupFades : Obligations.GroupFades := by
  refine ⟨⟨fun s m rest f takes => setGroupLevel_named s takes, fun s m rest takes plain => ?shown⟩, fun s g above => ?boundary⟩
  case shown =>
    refine ⟨s.levelsShown, congrArg Host.Outcome.next (servePlain_answered takes plain rfl), rfl, fun g => ⟨s.levels[g].record, ?_, ?_⟩⟩
    · have place : allGainGroups[g.val]? = some g := by decide +revert
      rw [State.levelsShown, List.getElem?_map, place, Option.map_some]
    · exact record_spec s.levels[g]
  case boundary => exact ⟨mapGroups_other s.levels _ above, mapGroups_zero s.levels _⟩

end Sys2Proof.Machine

/-! # Taking and refusing (O40, O41), the directory and the store requests (O52, O53, O54, O56, O57, O58) -/

namespace Sys2Proof.Machine

/-! ## A request that may not be taken (R170) -/

/-- What `Takes` asks for is what the agent tests. -/
theorem takes_of_headOf {s : State} {kind : Nat} {f : Nat → Bool} {m : Message} {rest : List Message} (head : s.headOf f = some (m, rest))
    (isKind : m.kind = kind) : Takes s kind m rest := by
  obtain ⟨between, taken⟩ := (headOf_eq _ _ _ _).1 head
  obtain ⟨input, -, may⟩ := (head_eq _ _ _ _).1 taken
  unfold Agent.mayTake Message.broadcast at may
  simp only [Config.returnMax, Bool.and_eq_true, Bool.or_eq_true, beq_iff_eq, Option.isNone_iff_eq_none] at may
  obtain ⟨⟨free, calm⟩, room⟩ := may
  exact ⟨between, input, isKind, free, calm, room.imp_right of_decide_eq_true⟩

theorem headOf_none {s : State} {kind : Nat} (waits : ∀ m rest, ¬ Takes s kind m rest) : s.headOf (fun k => k == kind) = none := by
  rw [Option.eq_none_iff_forall_not_mem]
  rintro ⟨m, rest⟩ head
  obtain ⟨-, taken⟩ := (headOf_eq _ _ _ _).1 head
  obtain ⟨-, isKind, -⟩ := (head_eq _ _ _ _).1 taken
  exact waits m rest (takes_of_headOf head (beq_iff_eq.1 isKind))

theorem serve_idle {s : State} {kind : Nat → Bool} {act : Message → State → Answer} (none : s.headOf kind = none) : s.serve kind act = s := by
  rw [State.serve, none]

/-- Settles O40: every request command asks for the head message, and does nothing without it. -/
theorem requestWaits : Obligations.RequestWaits := by
  refine ⟨fun s c kind isKind waits => ?request, fun s waits => ?unknown⟩
  case request =>
    have none := headOf_none waits
    cases c with
    | forceNetwork f =>
      cases isKind
      show execForceNetwork f s = _
      unfold execForceNetwork
      rw [none]
      cases f.bind regionOf <;> exact congrArg Host.Outcome.next (serve_idle none)
    | readPage f =>
      cases isKind
      refine congrArg Host.Outcome.next ?_
      rw [none]
      cases f <;> exact serve_idle none
    | _ => cases isKind <;> exact congrArg Host.Outcome.next (serve_idle none)
  case unknown =>
    refine congrArg Host.Outcome.next (serve_idle ?_)
    rw [Option.eq_none_iff_forall_not_mem]
    rintro ⟨m, rest⟩ head
    obtain ⟨-, taken⟩ := (headOf_eq _ _ _ _).1 head
    obtain ⟨-, unlisted, -⟩ := (head_eq _ _ _ _).1 taken
    exact waits m rest (by simpa using unlisted) (takes_of_headOf head rfl)

/-! ## Refused at the taking (R170) -/

theorem serveWith_none {α : Type} {s : State} {kind : Nat} {m : Message} {rest : List Message} (h : Takes s kind m rest)
    (act : α → Message → State → Answer) : s.serveWith kind none act = s.answered m rest .badArgument .none := by
  have head : s.headOf (fun k => k == kind) = some (m, rest) := head_of_takes h _ (beq_self_eq_true kind)
  rw [← answer_taking]
  simp only [State.serveWith, State.serve, head]
  rfl

theorem servePlain_body {s : State} {kind : Nat} {m : Message} {rest : List Message} (h : Takes s kind m rest) (body : m.body ≠ [])
    (act : Message → State → Answer) : s.servePlain kind act = s.answered m rest .badArgument .none := by
  have head : s.headOf (fun k => k == kind) = some (m, rest) := head_of_takes h _ (beq_self_eq_true kind)
  have filled : ¬ m.body.isEmpty = true := fun empty => body (List.isEmpty_iff.1 empty)
  rw [← answer_taking]
  simp only [State.servePlain, State.serve, head, if_neg filled]
  rfl

/-- A store request whose action touches neither the agent nor the link. -/
theorem storeRequest_eq {α : Type} {s u : State} {kind : Nat} {m : Message} {rest : List Message} (h : Takes s kind m rest)
    (f : Option α) {tests : α → State → List (Bool × Code)} {act : α → Message → State → Answer} {code : Code} {body : Body}
    (acts : (match f with
      | none => (s.took m rest).lock.refuse .badArgument
      | some x =>
        match firstRefusal (((s.took m rest).scanning, .refusedState) :: (!(s.took m rest).store.unlocked, .notUnlocked) ::
          tests x (s.took m rest)) with
        | some c => (s.took m rest).lock.refuse c
        | none => act x m (s.took m rest).lock) = ⟨u, code, body⟩)
    (agent : u.play.agent = (s.took m rest).play.agent) (link : u.link = s.link) :
    s.storeRequest kind f tests act = { u with play := { u.play with agent := s.agentAfter m rest code body } } := by
  have head : s.headOf (fun k => k == kind) = some (m, rest) := head_of_takes h _ (beq_self_eq_true kind)
  have same : s.storeRequest kind f tests act = u.answer m code body := by
    unfold State.storeRequest State.serve
    rw [head]
    exact congrArg (fun x : Answer => x.state.answer m x.code x.body) acts
  rw [same]
  exact answer_of_took code body agent link

/-- A store request of the wrong length still clears the latch. -/
theorem storeRequest_none {α : Type} {s : State} {kind : Nat} {m : Message} {rest : List Message} (h : Takes s kind m rest)
    (tests : α → State → List (Bool × Code)) (act : α → Message → State → Answer) :
    s.storeRequest kind none tests act = { s.answered m rest .badArgument .none with store := { s.store with unlocked := false } } :=
  (storeRequest_eq h none (u := (s.took m rest).lock) rfl rfl rfl).trans rfl

/-- Settles O41: the length is tested as the message is taken, before any test of the request's own. -/
theorem requestRefusedAtTaking : Obligations.RequestRefusedAtTaking := by
  refine ⟨fun s m rest takes unlisted => ?unknown, ?fields, ?store, ?plain⟩
  case unknown =>
    have head : s.headOf (fun k => !catalogue.contains k) = some (m, rest) := head_of_takes takes _ (by simpa using unlisted)
    refine congrArg Host.Outcome.next ?_
    rw [← answer_taking]
    simp only [State.serve, head]
    rfl
  case fields =>
    intro s m rest c kind listed isKind takes
    simp only [List.mem_cons, List.not_mem_nil, or_false] at listed
    rcases listed with rfl | rfl | rfl | rfl | rfl | rfl | rfl | rfl | rfl | rfl | rfl | rfl | rfl | rfl | rfl | rfl | rfl | rfl | rfl | rfl
    all_goals
      cases isKind
      exact congrArg Host.Outcome.next (serveWith_none takes _)
  case store =>
    intro s m rest c kind listed isKind takes
    simp only [List.mem_cons, List.not_mem_nil, or_false] at listed
    rcases listed with rfl | rfl | rfl | rfl
    all_goals
      cases isKind
      exact congrArg Host.Outcome.next (storeRequest_none takes _ _)
  case plain =>
    intro s m rest c kind listed isKind takes body
    simp only [List.mem_cons, List.not_mem_nil, or_false] at listed
    rcases listed with rfl | rfl | rfl | rfl | rfl | rfl | rfl
    all_goals
      cases isKind
      exact congrArg Host.Outcome.next (servePlain_body takes body _)

/-! ## Directory Query and Clip Status (R117, R118) -/

theorem directoryQuery_answers (s : State) {m : Message} {rest : List Message} {n : Nat} (takes : Takes s 0x48 m rest) (le : n ≤ 1023) :
    let found := s.play.dir.entries.filter fun e => max 1 n ≤ e.clip
    ∃ next, exec (.directoryQuery (some n)) s = .next (s.answered m rest .ok (.directory
        ((found.take 16).map fun e => e.line (s.play.holders e.clip)) s.play.dir.state next)) ∧
      (next = 0 ↔ found.length ≤ 16) ∧ (next ≠ 0 → ∃ x, (found.take 16).getLast? = some x ∧ next = x.clip + 1) := by
  intro found
  let next := if found.length ≤ 16 then 0 else match (found.take 16).getLast? with | some e => e.clip + 1 | none => 0
  refine ⟨next, ?_, ?_⟩
  · refine congrArg Host.Outcome.next (serveWith_answered takes n ?_)
    dsimp only
    rw [if_neg (by omega)]
    rfl
  · by_cases few : found.length ≤ 16
    · have zero : next = 0 := if_pos few
      exact ⟨⟨fun _ => few, fun _ => zero⟩, fun some => absurd zero some⟩
    · have filled : found.take 16 ≠ [] := by
        intro empty
        have := congrArg List.length empty
        rw [List.length_take, List.length_nil] at this
        omega
      obtain ⟨x, last⟩ : ∃ x, (found.take 16).getLast? = some x := ⟨_, List.getLast?_eq_some_getLast filled⟩
      have value : next = x.clip + 1 := by
        show (if found.length ≤ 16 then 0 else _) = _
        rw [if_neg few, last]
      exact ⟨⟨fun zero => by omega, fun le => absurd le few⟩, fun _ => ⟨x, last, value⟩⟩

/-- R118: a place in the verify queue. -/
theorem placeOf_eq (clip i : Nat) (q : List (Nat × Option Nat)) :
    placeOf clip i q = (q.findIdx? fun x => x.1 == clip).map (· + i) := by
  induction q generalizing i with
  | nil => rfl
  | cons x q ih =>
    rw [placeOf, List.findIdx?_cons]
    by_cases here : x.1 = clip
    · simp [here]
    · rw [if_neg here, ih]
      have other : (x.1 == clip) = false := by simpa using here
      cases q.findIdx? fun x => x.1 == clip with
      | none => simp [other]
      | some k => simp [other]; omega

theorem usable_iff (d : Directory) {clip : Nat} (named : clip ≠ 0) (a : AirTime) : d.usable clip a = true ↔
    d.state = .complete ∧ ∃ e, d.find clip = some e ∧ e.state = .ready ∧
      (∀ b, e.header.notBefore = some b → b.le a = true) ∧ ∀ b, e.header.notAfter = some b → a.le b = true := by
  unfold Directory.usable ClipHeader.inWindow
  cases d.find clip with
  | none => simp
  | some e =>
    simp only [Bool.and_eq_true, beq_iff_eq, bne_iff_ne, ne_eq, named, not_false_eq_true, true_and, Option.some.injEq, exists_eq_left']
    have opens : (match e.header.notBefore with | some b => b.le a | none => true) = true ↔
        ∀ b, e.header.notBefore = some b → b.le a = true := by cases e.header.notBefore <;> simp
    have closes : (match e.header.notAfter with | some b => a.le b | none => true) = true ↔
        ∀ b, e.header.notAfter = some b → a.le b = true := by cases e.header.notAfter <;> simp
    exact and_congr_right fun _ => and_congr_right fun _ => and_congr opens closes

theorem verifying_iff (s : State) (clip : Nat) : s.verifying clip = true ↔ ∃ j, s.verify = some j ∧ j.clip = clip := by
  unfold State.verifying
  cases s.verify <;> simp

/-- Settles O52: both replies are read at the taking. -/
theorem directoryRequests : Obligations.DirectoryRequests := by
  refine ⟨fun s m rest n takes => ⟨fun out => ?noQuery, fun le => ?query⟩, fun s m rest n takes => ⟨fun out => ?noStatus, fun le ge => ?status⟩⟩
  case noQuery => exact congrArg Host.Outcome.next (serveWith_refused takes n (if_pos out))
  case query =>
    obtain ⟨next, answers, zero, more⟩ := directoryQuery_answers s takes le
    refine ⟨_, next, answers, rfl, zero, fun some => ?_⟩
    obtain ⟨x, last, value⟩ := more some
    exact ⟨_, by rw [List.getLast?_map, last, Option.map_some], value⟩
  case noStatus => exact congrArg Host.Outcome.next (serveWith_refused takes n (if_pos out))
  case status =>
    have place := placeOf_eq n 0 s.play.dir.queue
    refine ⟨s.clipStatus n, congrArg Host.Outcome.next (serveWith_answered takes n (if_neg (by omega))), rfl, ?_, ?_, ?_, ?_, verifying_iff s n,
      usable_iff s.play.dir (by omega) s.link.air⟩
    · intro none
      exact if_neg (by rw [show s.play.dir.find n = _ from none]; simp)
    · intro some
      exact if_pos (Option.isSome_iff_ne_none.2 some)
    · show placeOf n 0 s.play.dir.queue = none ↔ _
      rw [place, Option.map_eq_none_iff, List.findIdx?_eq_none_iff]
      simp
    · intro k found
      have found : placeOf n 0 s.play.dir.queue = some k := found
      rw [place] at found
      obtain ⟨i, at', rfl⟩ := Option.map_eq_some_iff.1 found
      obtain ⟨inside, holds, -⟩ := List.findIdx?_eq_some_iff_getElem.1 at'
      exact ⟨_, List.getElem?_eq_getElem inside, by simpa using holds⟩

/-! ## Store Unlock and Load Page Data (R121, R122) -/

/-- The bytes laid into the staging buffer: the one written last to an offset stands, and the others are as they were. -/
theorem readCell_writeCells (m : List Host.Cell) (a : Nat) (bs : List Byte) (short : bs.length ≤ 4096) :
    (∀ i b, bs[i]? = some b → readCell (writeCells m a bs) ((a + i) % 4096) = b) ∧
    (∀ k, (∀ i, i < bs.length → (a + i) % 4096 ≠ k) → readCell (writeCells m a bs) k = readCell m k) := by
  induction bs generalizing m a with
  | nil => exact ⟨nofun, fun _ _ => rfl⟩
  | cons x xs ih =>
    obtain ⟨written, others⟩ := ih (writeCell m (a % 4096) x) (a + 1) (Nat.le_of_succ_le short)
    have first : writeCells m a (x :: xs) = writeCells (writeCell m (a % 4096) x) (a + 1) xs := rfl
    rw [first]
    refine ⟨fun i b at' => ?_, fun k away => ?_⟩
    · cases i with
      | zero =>
        cases at'
        rw [others, readCell_writeCell, if_pos (by rw [Nat.add_zero])]
        intro i inside
        simp only [List.length_cons] at short
        omega
      | succ i =>
        rw [show a + (i + 1) = a + 1 + i by omega]
        exact written i b at'
    · have here : a % 4096 ≠ k := by simpa using away 0 (by simp)
      rw [others, readCell_writeCell, if_neg here]
      intro i inside
      rw [show a + 1 + i = a + (i + 1) by omega]
      exact away (i + 1) (by simpa using inside)

theorem scanning_iff (s : State) : s.scanning = true ↔ s.play.dir.state = .scanning := by simp [State.scanning]

theorem scanning_of_complete {s : State} (complete : s.play.dir.state = .complete) : s.scanning = false := by
  simp [State.scanning, complete]

theorem storeUnlock_answers (s : State) {m : Message} {rest : List Message} (takes : Takes s 0x50 m rest) (plain : m.body = []) :
    (s.play.dir.state = .scanning → exec .storeUnlock s = .next (s.answered m rest .refusedState .none)) ∧
    (s.play.dir.state = .complete → exec .storeUnlock s = .next
      { s.answered m rest .ok .none with store := { s.store with unlocked := true } }) := by
  refine ⟨fun scanning => ?_, fun complete => ?_⟩
  · exact congrArg Host.Outcome.next (servePlain_answered takes plain (if_pos ((scanning_iff s).2 scanning)))
  · refine congrArg Host.Outcome.next ((servePlain_eq (code := .ok) (body := .none)
      (u := (s.took m rest).modStore fun st => { st with unlocked := true }) takes plain ?_ rfl rfl).trans rfl)
    exact if_neg (by rw [show (s.took m rest).scanning = s.scanning from rfl, scanning_of_complete complete]; nofun)

/-- R122: the tests of Load Page Data, one after the other. -/
theorem loadRefusal_eq (s : State) (f : LoadFields) : s.loadRefusal f =
    if s.play.dir.state = .scanning then some .refusedState
    else if s.store.holds ≠ none then some .stagingBusy
    else if 4095 < f.offset ∨ f.count = 0 ∨ 480 < f.count ∨ f.data.length ≠ f.count then some .badArgument
    else none := by
  simp only [State.loadRefusal, firstRefusal, scanning_iff, Option.isSome_iff_ne_none, Bool.or_eq_true, decide_eq_true_eq, beq_iff_eq,
    bne_iff_ne, or_assoc]

theorem loadPageData_refused {s : State} {m : Message} {rest : List Message} {f : LoadFields} (takes : Takes s 0x51 m rest) {code : Code}
    (refused : s.loadRefusal f = some code) : exec (.loadPageData (some f)) s = .next (s.answered m rest code .none) := by
  refine congrArg Host.Outcome.next (serveWith_refused takes f ?_)
  rw [show (s.took m rest).loadRefusal f = s.loadRefusal f from rfl, refused]

/-- Settles O53: the tests in their order, and what each offset reads as after the bytes are laid in. -/
theorem stagingLoaded : Obligations.StagingLoaded := by
  refine ⟨fun s m rest takes plain => storeUnlock_answers s takes plain, ?loaded⟩
  intro s m rest f takes bad
  have complete_ne : s.play.dir.state = .complete → s.play.dir.state ≠ .scanning := fun h => by rw [h]; nofun
  have tests := loadRefusal_eq s f
  refine ⟨fun scanning => ?_, fun complete held => ?_, fun complete free isBad => ?_, fun complete free good => ?_⟩
  · exact loadPageData_refused takes (tests.trans (if_pos scanning))
  · exact loadPageData_refused takes (tests.trans ((if_neg (complete_ne complete)).trans (if_pos held)))
  · exact loadPageData_refused takes
      (tests.trans ((if_neg (complete_ne complete)).trans ((if_neg (not_not.2 free)).trans (if_pos isBad))))
  · have passed : s.loadRefusal f = none :=
      tests.trans ((if_neg (complete_ne complete)).trans ((if_neg (not_not.2 free)).trans (if_neg good)))
    have lengths : f.count ≤ 480 ∧ f.data.length = f.count := by
      simp only [bad, not_or, not_not, Nat.not_lt] at good
      exact ⟨good.2.2.1, good.2.2.2⟩
    obtain ⟨count, length⟩ := lengths
    obtain ⟨written, others⟩ := readCell_writeCells s.store.staging f.offset f.data (by omega)
    refine ⟨writeCells s.store.staging f.offset f.data, ?_, written, fun a away => others a (by rw [length]; exact away)⟩
    refine congrArg Host.Outcome.next ((serveWith_eq (code := .ok) (body := .none)
      (u := (s.took m rest).modStore fun st => { st with staging := writeCells st.staging f.offset f.data }) takes f ?_ rfl rfl).trans rfl)
    rw [show (s.took m rest).loadRefusal f = s.loadRefusal f from rfl, passed]
    rfl

/-! ## The unlock latch (R121) -/

/-- A store request refused by one of its tests leaves the latch clear. -/
theorem storeRequest_refused {α : Type} {s : State} {kind : Nat} {m : Message} {rest : List Message} (h : Takes s kind m rest) (x : α)
    {tests : α → State → List (Bool × Code)} {act : α → Message → State → Answer} {code : Code}
    (refused : firstRefusal ((s.scanning, .refusedState) :: (!s.store.unlocked, .notUnlocked) :: tests x (s.took m rest)) = some code) :
    s.storeRequest kind (some x) tests act = { s.answered m rest code .none with store := { s.store with unlocked := false } } := by
  refine (storeRequest_eq (body := .none) (code := code) h (some x) (u := (s.took m rest).lock) ?_ rfl rfl).trans rfl
  have same : firstRefusal (((s.took m rest).scanning, .refusedState) :: (!(s.took m rest).store.unlocked, .notUnlocked) ::
      tests x (s.took m rest)) = some code := refused
  simp only [same]
  rfl

/-- A store request that passes its tests acts with the latch clear. -/
theorem storeRequest_accepted {α : Type} {s u : State} {kind : Nat} {m : Message} {rest : List Message} (h : Takes s kind m rest) (x : α)
    (complete : s.play.dir.state = .complete) (unlocked : s.store.unlocked = true)
    {tests : α → State → List (Bool × Code)} {act : α → Message → State → Answer} {code : Code} {body : Body}
    (passed : firstRefusal (tests x (s.took m rest)) = none) (acts : act x m (s.took m rest).lock = ⟨u, code, body⟩)
    (agent : u.play.agent = (s.took m rest).play.agent) (link : u.link = s.link) :
    s.storeRequest kind (some x) tests act = { u with play := { u.play with agent := s.agentAfter m rest code body } } := by
  refine storeRequest_eq h (some x) ?_ agent link
  have scan : (s.took m rest).scanning = false := scanning_of_complete complete
  have latch : (!(s.took m rest).store.unlocked) = false := by rw [show (s.took m rest).store.unlocked = true from unlocked]; rfl
  simp only [firstRefusal, scan, latch, Bool.false_eq_true, if_false, passed]
  exact acts

/-- An unlocked store request whose own tests refuse it. -/
theorem storeRequest_tested {α : Type} {s : State} {kind : Nat} {m : Message} {rest : List Message} (h : Takes s kind m rest) (x : α)
    (complete : s.play.dir.state = .complete) (unlocked : s.store.unlocked = true)
    {tests : α → State → List (Bool × Code)} {act : α → Message → State → Answer} {code : Code}
    (refused : firstRefusal (tests x (s.took m rest)) = some code) :
    s.storeRequest kind (some x) tests act = { s.answered m rest code .none with store := { s.store with unlocked := false } } := by
  refine storeRequest_refused h x ?_
  simp only [firstRefusal, scanning_of_complete complete, unlocked, Bool.not_true, Bool.false_eq_true, if_false]
  exact refused

/-- A store request leaves the latch clear, whatever its tests say, where its action does not set it. -/
theorem unlocked_storeRequest {α : Type} {s : State} {kind : Nat} {m : Message} {rest : List Message} (h : Takes s kind m rest) (x : α)
    (tests : α → State → List (Bool × Code)) {act : α → Message → State → Answer}
    (acts : ∀ t : State, t.store.unlocked = false → (act x m t).state.store.unlocked = false) :
    (s.storeRequest kind (some x) tests act).store.unlocked = false := by
  have head : s.headOf (fun k => k == kind) = some (m, rest) := head_of_takes h _ (beq_self_eq_true kind)
  have answer : ∀ (u : State) code body, (u.answer m code body).store = u.store := fun u code body => (answer_frame u m code body).1
  simp only [State.storeRequest, State.serve, head]
  split
  all_goals rw [answer]
  · rfl
  · exact acts _ rfl

/-- Settles O54: the two tests of the latch stand before the request's own, and the latch is clear in every case. -/
theorem latchGuardsStore : Obligations.LatchGuardsStore := by
  have tested : ∀ {α : Type} {s : State} {kind : Nat} {m : Message} {rest : List Message} (_ : Takes s kind m rest) (x : α)
      (tests : α → State → List (Bool × Code)) (act : α → Message → State → Answer),
      (s.play.dir.state = .scanning → Host.Outcome.next (ρ := Refusal) (φ := Fault) (s.storeRequest kind (some x) tests act) = .next
        { s.answered m rest .refusedState .none with store := { s.store with unlocked := false } }) ∧
      (s.play.dir.state = .complete → s.store.unlocked = false →
        Host.Outcome.next (ρ := Refusal) (φ := Fault) (s.storeRequest kind (some x) tests act) =
          .next (s.answered m rest .notUnlocked .none)) := by
    intro α s kind m rest takes x tests act
    refine ⟨fun scanning => ?_, fun complete locked => ?_⟩
    · refine congrArg Host.Outcome.next (storeRequest_refused takes x ?_)
      exact if_pos ((scanning_iff s).2 scanning)
    · refine congrArg Host.Outcome.next ((storeRequest_refused (code := .notUnlocked) takes x ?_).trans ?_)
      · simp only [firstRefusal, scanning_of_complete complete, locked, Bool.not_false, Bool.false_eq_true, if_false, if_true]
      · show { s.answered m rest .notUnlocked .none with store := { s.store with unlocked := false } } = _
        rw [← locked]
        rfl
  intro s m rest c kind n listed isKind takes
  simp only [List.mem_cons, List.not_mem_nil, or_false] at listed
  rcases listed with rfl | rfl | rfl | rfl
  all_goals cases isKind
  · obtain ⟨scans, locked⟩ := tested takes n State.commitTests _
    refine ⟨scans, locked, fun t completes => ?_⟩
    cases completes
    exact unlocked_storeRequest takes n _ fun t clear => clear
  · obtain ⟨scans, locked⟩ := tested takes n State.eraseTests _
    refine ⟨scans, locked, fun t completes => ?_⟩
    cases completes
    refine unlocked_storeRequest takes n _ fun t clear => ?_
    exact (congrArg Store.unlocked (retire_store (t.enqueue (.erase n m.tag)) n).1).trans clear
  · obtain ⟨scans, locked⟩ := tested takes n State.boundaryRefusals _
    refine ⟨scans, locked, fun t completes => ?_⟩
    cases completes
    exact unlocked_storeRequest takes n _ fun t clear => clear
  · obtain ⟨scans, locked⟩ := tested takes n State.floorRefusals _
    refine ⟨scans, locked, fun t completes => ?_⟩
    cases completes
    exact unlocked_storeRequest takes n _ fun t clear => clear

/-! ## Set Protect Boundary and Raise Lock Floor (R131, R132) -/

theorem full_iff (st : Store) : st.full = true ↔ 8 ≤ st.queue.length := decide_eq_true_iff

/-- Settles O56: the tests in their order, and the write queued with the prospective values. -/
theorem protectionQueued : Obligations.ProtectionQueued := by
  refine ⟨fun s m rest v takes complete unlocked => ?boundary, fun s m rest v takes complete unlocked => ?floor⟩
  case boundary =>
    intro p
    refine congrArg Host.Outcome.next ?_
    by_cases out : 32768 < v
    · rw [if_pos out]
      exact storeRequest_tested takes v complete unlocked (if_pos (decide_eq_true out))
    · have inside : ¬ decide (Config.logicalBlocks < v) = true := fun past => out (of_decide_eq_true past)
      rw [if_neg out]
      by_cases full : 8 ≤ s.store.queue.length
      · rw [if_pos full]
        exact storeRequest_tested takes v complete unlocked ((if_neg inside).trans (if_pos ((full_iff s.store).2 full)))
      · rw [if_neg full]
        have passed : firstRefusal ((s.took m rest).boundaryRefusals v) = none :=
          (if_neg inside).trans (if_neg (mt (full_iff s.store).1 full))
        exact (storeRequest_accepted takes v complete unlocked passed rfl (by rfl) (by rfl)).trans rfl
  case floor =>
    intro p
    refine congrArg Host.Outcome.next ?_
    by_cases out : 32768 < v
    · rw [if_pos (.inl out)]
      exact storeRequest_tested takes v complete unlocked (if_pos (decide_eq_true out))
    · have inside : ¬ decide (Config.logicalBlocks < v) = true := fun past => out (of_decide_eq_true past)
      by_cases below : v < s.store.lStar
      · rw [if_pos (.inr below)]
        exact storeRequest_tested takes v complete unlocked ((if_neg inside).trans (if_pos (decide_eq_true below)))
      · have above : ¬ decide (v < s.store.lStar) = true := by simpa using below
        rw [if_neg (not_or.2 ⟨out, below⟩)]
        by_cases full : 8 ≤ s.store.queue.length
        · rw [if_pos full]
          exact storeRequest_tested takes v complete unlocked
            ((if_neg inside).trans ((if_neg above).trans (if_pos ((full_iff s.store).2 full))))
        · rw [if_neg full]
          have passed : firstRefusal ((s.took m rest).floorRefusals v) = none :=
            (if_neg inside).trans ((if_neg above).trans (if_neg (mt (full_iff s.store).1 full)))
          exact (storeRequest_accepted takes v complete unlocked passed rfl (by rfl) (by rfl)).trans rfl

/-! ## Verify Clip and Read Page (R140, R141) -/

theorem queued_iff (d : Directory) (clip : Nat) : d.queued clip = true ↔ ∃ x ∈ d.queue, x.1 = clip := by
  simp [Directory.queued]

/-- R140: the tests of Verify Clip, one after the other. -/
theorem verifyTests_eq (s : State) (clip : Nat) : firstRefusal (s.verifyTests clip) =
    if s.play.dir.state = .scanning then some .refusedState
    else if clip = 0 ∨ 1023 < clip then some .badArgument
    else if s.play.dir.find clip = none then some .notFound
    else if (match s.play.dir.find clip with | some e => e.state == .unverified || e.state == .retiring | none => false) = true then
      some .refusedState
    else if (∃ x ∈ s.play.dir.queue, x.1 = clip) ∨ ∃ j, s.verify = some j ∧ j.clip = clip then some .refusedState
    else none := by
  simp only [State.verifyTests, firstRefusal, scanning_iff, Bool.or_eq_true, beq_iff_eq, decide_eq_true_eq, Option.isNone_iff_eq_none,
    queued_iff, verifying_iff] <;> rfl

theorem verifyClip_refused {s : State} {m : Message} {rest : List Message} {clip : Nat} (takes : Takes s 0x58 m rest) {code : Code}
    (refused : firstRefusal (s.verifyTests clip) = some code) :
    exec (.verifyClip (some clip)) s = .next (s.answered m rest code .none) := by
  refine congrArg Host.Outcome.next (serveWith_refused takes clip ?_)
  rw [show (s.took m rest).verifyTests clip = s.verifyTests clip from rfl, refused]

theorem verifyClip_answers (s : State) {m : Message} {rest : List Message} {clip : Nat} (takes : Takes s 0x58 m rest) :
    let no := fun code => exec (.verifyClip (some clip)) s = .next (s.answered m rest code .none)
    let busy := (∃ x ∈ s.play.dir.queue, x.1 = clip) ∨ ∃ j, s.verify = some j ∧ j.clip = clip
    (s.play.dir.state = .scanning → no .refusedState) ∧
    (s.play.dir.state = .complete → clip = 0 ∨ 1023 < clip → no .badArgument) ∧
    (s.play.dir.state = .complete → 1 ≤ clip → clip ≤ 1023 → s.play.dir.find clip = none → no .notFound) ∧
    (∀ e, s.play.dir.state = .complete → 1 ≤ clip → clip ≤ 1023 → s.play.dir.find clip = some e →
      (e.state = .unverified ∨ e.state = .retiring ∨ busy → no .refusedState) ∧
      (e.state ≠ .unverified → e.state ≠ .retiring → ¬ busy → exec (.verifyClip (some clip)) s = .next
        { s with play := { s.play with
          dir := { s.play.dir with queue := s.play.dir.queue ++ [(clip, some m.tag)] }
          agent := s.agentAfter m rest .accepted .none } })) := by
  intro no busy
  have tests := verifyTests_eq s clip
  have complete_ne : s.play.dir.state = .complete → s.play.dir.state ≠ .scanning := fun h => by rw [h]; nofun
  refine ⟨fun scanning => ?_, fun complete out => ?_, fun complete ge le missing => ?_, fun e complete ge le found => ?_⟩
  · exact verifyClip_refused takes (tests.trans (if_pos scanning))
  · exact verifyClip_refused takes (tests.trans ((if_neg (complete_ne complete)).trans (if_pos out)))
  · refine verifyClip_refused takes (tests.trans ?_)
    rw [if_neg (complete_ne complete), if_neg (by omega), if_pos missing]
  · rw [if_neg (complete_ne complete), if_neg (by omega), if_neg (by rw [found]; nofun), found] at tests
    simp only [Bool.or_eq_true, beq_iff_eq] at tests
    refine ⟨fun wrong => verifyClip_refused takes ?_, fun verified stays free => ?_⟩
    · rw [tests]
      by_cases early : e.state = .unverified ∨ e.state = .retiring
      · exact if_pos early
      · rw [if_neg early]
        exact if_pos ((or_assoc.2 wrong).resolve_left early)
    · have passed : firstRefusal (s.verifyTests clip) = none := by rw [tests, if_neg (not_or.2 ⟨verified, stays⟩), if_neg free]
      refine congrArg Host.Outcome.next ((serveWith_eq (code := .accepted) (body := .none)
        (u := (s.took m rest).modDir fun d => { d with queue := d.queue ++ [(clip, some m.tag)] }) takes clip ?_ rfl rfl).trans rfl)
      rw [show (s.took m rest).verifyTests clip = s.verifyTests clip from rfl, passed]

/-- Settles O57: Verify Clip by its tests, and Read Page held in hand without a reply. -/
theorem verifyAndReadAccepted : Obligations.VerifyAndReadAccepted := by
  refine ⟨fun s m rest clip takes => verifyClip_answers s takes, ?read⟩
  intro s m rest f takes bad
  have head : s.headOf (fun k => k == 0x59) = some (m, rest) := head_of_takes takes _ rfl
  have test : badReadPage f = true ↔ bad := by
    simp only [badReadPage, bad, Config.logicalPages, Bool.or_eq_true, decide_eq_true_eq, beq_iff_eq, or_assoc]
    exact or_congr decide_eq_true_iff Iff.rfl
  have runs : exec (.readPage (some f)) s = .next (if badReadPage f then (s.took m rest).answer m .badArgument .none
      else (s.took m rest).holdRead m f) := by
    show Host.Outcome.next _ = _
    rw [head]
  rw [runs]
  refine ⟨fun isBad => ?_, fun good => ?_⟩
  · rw [if_pos (test.2 isBad), answer_taking]
  · rw [if_neg (mt test.1 good)]
    by_cases broadcast : m.target = 255
    · simp [State.holdRead, State.modAgent, Agent.taking, Agent.less, Message.broadcast, broadcast]
    · simp [State.holdRead, State.modAgent, Agent.taking, Agent.less, Message.broadcast, broadcast]

/-! ## Remap Status and Link Status (R146, R167) -/

/-- Settles O58: both replies are read at the taking; the kind and the target of the current operation go by its stage. -/
theorem storeAndLinkStatus : Obligations.StoreAndLinkStatus := by
  refine ⟨fun s m rest n takes => ⟨fun out => ?noStatus, fun le => ?status⟩, fun s m rest takes plain => ?link⟩
  case noStatus => exact congrArg Host.Outcome.next (serveWith_refused takes n (if_pos out))
  case status =>
    refine ⟨s.store.current.map Current.record, congrArg Host.Outcome.next (serveWith_answered takes n (if_neg (by omega))),
      fun none => by rw [none]; rfl, fun c current => ⟨c.record, by rw [current]; rfl, rfl, rfl, rfl, ?_⟩⟩
    obtain ⟨op, stage, started, phase, suspensions⟩ := c
    cases stage <;> cases op <;> trivial
  case link => exact congrArg Host.Outcome.next (servePlain_answered takes plain rfl)

end Sys2Proof.Machine

/-! # Samples, resets and levels (O2, O6, O7, O9, O28, O29) -/

namespace Sys2Proof.Machine

/-! ## One sample, as one equation -/

theorem dispatchAll_form (r : Region) (n : Nat) (s : State) : ∃ cues play, State.dispatchAll r n s = { s with cues := cues, play := play } := by
  induction n generalizing s with
  | zero => exact ⟨_, _, rfl⟩
  | succ n ih =>
    simp only [State.dispatchAll]
    split
    · exact ⟨_, _, rfl⟩
    · next c _ =>
      obtain ⟨cues, play, form⟩ := ih (s.dispatch r c)
      exact ⟨cues, play, form⟩

theorem regionEvents_form (rs : List Region) (s : State) : ∃ cues play, rs.foldl State.regionEvents s = { s with cues := cues, play := play } := by
  induction rs generalizing s with
  | nil => exact ⟨_, _, rfl⟩
  | cons r rs ih =>
    obtain ⟨cues, play, form⟩ := dispatchAll_form r s.cues.table.length s
    have first : ∃ q, s.regionEvents r = { s with cues := cues, play := q } := by
      unfold State.regionEvents
      rw [form]
      exact ⟨_, rfl⟩
    obtain ⟨q, first⟩ := first
    obtain ⟨cues', play', rest⟩ := ih { s with cues := cues, play := q }
    refine ⟨cues', play', ?_⟩
    rw [List.foldl_cons, first]
    exact rest

theorem takeEvents_form (s : State) : ∃ cues play,
    s.takeEvents = { s with cues := cues, play := play, levels := mapGroups s.levels GroupRec.finishRamp } := by
  obtain ⟨cues, play, form⟩ := regionEvents_form allRegions s.groupCompletions
  unfold State.takeEvents
  rw [form]
  exact ⟨_, _, rfl⟩

/-- What a formed sample leaves (R16): the Cue Unit and the on-air blocks changed, the group ramps and the counters gone on, the egress
frame formed behind the last sample, and of the store only the phase of the current step changed. -/
theorem formSample_form {s : State} {p : Period} (period : s.period = some p) (before : s.sample < 48) : ∃ cues play cur,
    s.formSample = { s with
      cues := cues, play := play, levels := mapGroups (mapGroups s.levels GroupRec.finishRamp) GroupRec.advance
      link := { s.link with count := nextCount s.link.count }, sample := s.sample + 1, midSample := false, settled := false
      egress := if s.sample + 1 = 48 then some
        { link := p.link, seq := p.seq, air := p.air, states := allRegions.map fun r => (play.region r).state
          blocks := allRegions.map fun r => (play.region r).out } else s.egress
      store := { s.store with current := cur } } ∧
    cur.map (fun c => (c.op, c.stage)) = s.store.current.map fun c => (c.op, c.stage) := by
  obtain ⟨cues, play, events⟩ := takeEvents_form s
  obtain ⟨cur, settled, same⟩ := settleArray_form ((s.takeEvents.mixSample p).closeFrame p)
  have formed : s.formSample = ((s.takeEvents.mixSample p).closeFrame p).settleArray := by
    unfold State.formSample
    rw [period]
    exact if_pos before
  have mixed : ∃ q, s.takeEvents.mixSample p = { s with
      cues := cues, play := q, levels := mapGroups (mapGroups s.levels GroupRec.finishRamp) GroupRec.advance
      link := { s.link with count := nextCount s.link.count }, sample := s.sample + 1, midSample := false, settled := false } := by
    rw [events]
    exact ⟨_, rfl⟩
  obtain ⟨q, mixed⟩ := mixed
  have closed : (s.takeEvents.mixSample p).closeFrame p = { s.takeEvents.mixSample p with
      egress := if s.sample + 1 = 48 then some ((s.takeEvents.mixSample p).egressOf p) else s.egress } := by
    rw [mixed]
    unfold State.closeFrame
    dsimp only
    split
    · rfl
    · rfl
  rw [closed, mixed] at settled same
  refine ⟨cues, q, cur, ?_, same⟩
  rw [formed, closed, mixed, settled]
  rfl

/-- Between two periods, and before the first, no sample is formed. -/
theorem formSample_idle {s : State} (idle : s.period = none ∨ 48 ≤ s.sample) : s.formSample = s := by
  unfold State.formSample
  split
  · next p period =>
    have full : 48 ≤ s.sample := idle.resolve_left (by rw [period]; nofun)
    exact if_neg (by omega)
  · rfl

theorem step_idle {s : State} (idle : s.pending = []) : step s = .next s.formSample := by
  unfold step
  rw [idle]
  rfl

/-- Settles O2, from the form of one sample. -/
theorem tickOnEmptyQueue : Obligations.TickOnEmptyQueue := by
  refine ⟨fun s empty => ⟨step_idle empty, fun idle => ?_⟩, fun s p empty period before => ?_⟩
  · rw [step_idle empty, formSample_idle idle]
  · obtain ⟨cues, play, cur, form, -⟩ := formSample_form period before
    refine ⟨_, step_idle empty, ?_⟩
    rw [form]
    refine ⟨rfl, rfl, rfl, fun below => if_pos below, rfl, rfl, rfl, ?_, empty⟩
    exact (mapGroups_zero _ _).trans (mapGroups_zero _ _)

/-! ## The state after a reset (the table of spec/12) -/

theorem region_reset (next : Nat) (r : Region) : (Play.reset next).region r = RegionRec.reset := by
  simp [Play.region, Play.reset]

theorem slot_reset (next : Nat) (r : Region) (n : Fin 16) : (Play.reset next).slot r n = Slot.reset := by
  simp [Play.slot, Play.reset]

theorem gate_reset (next : Nat) (g : LinkGroup) : (Play.reset next).gate g = Gate.reset := by
  simp [Play.gate, Play.reset]

theorem voice_reset (next : Nat) (v : VoiceNo) : (Play.reset next).voice v = Voice.idle (homeOf v) := by
  have idle : ∀ v : VoiceNo, resetVoices[v] = Voice.idle (homeOf v) := by decide
  exact idle v

/-- The blocks that a reset begins anew stand as the table of spec/12 has them. -/
theorem blocksAtReset_of {t : State} (next : Nat) (cues : t.cues = CueUnit.reset) (play : t.play = Play.reset next)
    (levels : t.levels = Vector.replicate 8 GroupRec.reset) (verify : t.verify = none)
    (store : t.store = Store.reset t.settings.boundary t.settings.floor) : BlocksAtReset t where
  cues := cues
  regions r := by rw [play, region_reset]; exact ⟨rfl, rfl, rfl, rfl, rfl, rfl, rfl, rfl, rfl, rfl⟩
  slots r n := by rw [play, slot_reset]; rfl
  voices v := by rw [play, voice_reset]; exact ⟨rfl, rfl, rfl, rfl, rfl, rfl, rfl, rfl, rfl⟩
  waiters := by rw [play]; rfl
  levels g := by rw [levels]; simp [GroupRec.reset, Fader.still]
  gates g := by rw [play, gate_reset]; exact ⟨rfl, rfl, rfl, rfl, rfl, rfl, rfl, rfl, rfl, rfl⟩
  dirState := by rw [play]; rfl
  entries := by rw [play]; rfl
  verifyQueue := by rw [play]; rfl
  scan := by rw [play]; exact ⟨rfl, rfl, rfl⟩
  verify := verify
  store := store
  log := by rw [play]; rfl
  agent := by rw [play]; rfl

theorem slotInv_reset (next : Nat) (r : Region) : SlotInv (Play.reset next) r where
  ready n m pl pl' _ ready := by rw [slot_reset] at ready; cases ready
  states := by simp [region_reset, RegionRec.reset]
  held n := by simp [region_reset, slot_reset, RegionRec.reset, Slot.reset, SlotState.held]
  plan n := by simp [slot_reset, Slot.reset]
  run b open_ := by rw [region_reset] at open_; cases open_

theorem cueInv_reset : CueInv CueUnit.reset := ⟨Nat.zero_le _, .nil, Nat.zero_le _, Nat.zero_le _⟩

theorem balanced_reset : AsRunLog.reset.Balanced := ⟨rfl, Nat.zero_le _, nofun⟩

/-- The queues are empty after a reset. -/
theorem queueInv_reset {t : State} (agent : t.play.agent = Agent.reset) (queue : t.store.queue = []) : QueueInv t := by
  constructor
  · rw [agent]; exact Nat.zero_le _
  · rw [agent]; exact Nat.zero_le _
  · rw [agent]; exact Nat.zero_le _
  · rw [queue]; exact Nat.zero_le _

/-- An empty directory with the scan under way is in order, while no store operation waits. -/
theorem dirInv_reset {t : State} (next : Nat) (dir : t.play.dir = Directory.reset next) (none : t.store.operations = []) : DirInv t where
  sorted := by rw [dir]; exact .nil
  disjoint := by rw [dir]; exact .nil
  scan _ := by rw [dir, none]; exact ⟨nofun, nofun⟩
  read _ _ _ := by rw [dir]; rfl
  one := by rw [none]; exact Nat.zero_le _
  holds _ _ _ op := by rw [none] at op; cases op
  claim _ _ _ _ _ op := by rw [none] at op; cases op

/-- Settles O6, block by block. -/
theorem invariantsAtReset : Obligations.InvariantsAtReset :=
  ⟨lockInv_resetBlocks (s := State.reset) (Nat.le_refl 0) (Nat.zero_le _), unity_resetBlocks State.reset, memoryInv_resetBlocks (s := State.reset) ⟨rfl, List.forall_mem_nil _⟩,
    cueInv_reset, slotInv_reset 0, queueInv_reset rfl rfl, dirInv_reset 0 rfl rfl, balanced_reset, rfl⟩

/-! ## Power-on and soft reset -/

theorem settings_cutWrite {s : State} (uncut : ∀ c, s.store.current = some c → c.started = true → c.stage.writesSettings = false) :
    s.cutWrite.settings = s.settings := by
  unfold State.cutWrite
  split
  · next c current =>
    split
    · next cut =>
      obtain ⟨started, writes⟩ := Bool.and_eq_true_iff.1 cut
      rw [uncut c current started] at writes
      cases writes
    · rfl
  · rfl

theorem cutWrite_free {s : State} (free : s.store.current = none) : s.cutWrite = s := by
  unfold State.cutWrite
  rw [free]

theorem abandonStep_free {s : State} (free : s.store.current = none) : s.abandonStep = s := by
  unfold State.abandonStep
  rw [free]

theorem cutWrite_form (s : State) : ∃ settings occasion, s.cutWrite = { s with settings := settings, occasion := occasion } := by
  unfold State.cutWrite
  split
  · split
    · exact ⟨_, _, rfl⟩
    · exact ⟨_, _, rfl⟩
  · exact ⟨_, _, rfl⟩

theorem loosen_form (s : State) (block : Nat) : ∃ flash occasion, s.loosen block = { s with flash := flash, occasion := occasion } := by
  unfold State.loosen
  exact ⟨_, _, rfl⟩

/-- An abandoned step leaves a page or a block with free contents, and nothing else changes. -/
theorem abandonStep_form (s : State) : ∃ flash occasion, s.abandonStep = { s with flash := flash, occasion := occasion } := by
  have erasing (c : Current) : ∃ flash occasion, s.loosenErasing c = { s with flash := flash, occasion := occasion } := by
    unfold State.loosenErasing
    split
    · exact loosen_form s _
    · exact ⟨_, _, rfl⟩
  unfold State.abandonStep
  split
  · split
    · split
      · unfold State.loosenPage
        exact ⟨_, _, rfl⟩
      · exact loosen_form s _
      · exact loosen_form s _
      · exact erasing _
    · exact ⟨_, _, rfl⟩
  · exact ⟨_, _, rfl⟩

/-- Settles O7. -/
theorem powerOnState : Obligations.PowerOnState := by
  intro s pins
  refine ⟨s.powerOn pins, rfl, blocksAtReset_of (s.cutWrite.abandonStep.settings.firstScan) rfl rfl rfl rfl rfl, rfl, rfl, rfl, rfl, rfl,
    rfl, rfl, rfl, rfl, rfl, rfl, ?_, fun uncut => ?_, fun free => ?_⟩
  · obtain ⟨settings, occasion, cut⟩ := cutWrite_form s
    obtain ⟨flash, occasion', abandoned⟩ := abandonStep_form s.cutWrite
    show s.cutWrite.abandonStep.pending = s.pending
    rw [abandoned, cut]
  · exact (settings_abandonStep s.cutWrite).trans (settings_cutWrite uncut)
  · show s.cutWrite.abandonStep.flash = s.flash
    rw [cutWrite_free free, abandonStep_free free]

theorem writing_false {s : State} (uncut : ∀ c, s.store.current = some c → c.started = true → c.stage.writesSettings = false) :
    s.writing = false := by
  unfold State.writing
  split
  · next c current =>
    cases started : c.started with
    | false => rfl
    | true => exact uncut c current started
  · rfl

/-- The OK reply to a Reset, as the return frame knows it. -/
theorem isResetOk_of {e : QueueEntry} {body : Body} (ok : e.payload = .reply 0x03 .ok body) : e.isResetOk = true := by
  unfold QueueEntry.isResetOk
  rw [ok]
  rfl

/-- Once its OK reply has left, or without one, a reset is due at the boundary. -/
theorem replySent_due {a : Agent} {sent : List QueueEntry} (due : a.resetPending = some .nextBoundary ∨
    a.resetPending = some .onReply ∧ ∃ e ∈ sent, ∃ body, e.payload = .reply 0x03 .ok body) :
    a.replySent sent = some .nextBoundary := by
  unfold Agent.replySent
  rcases due with pending | ⟨pending, e, inside, body, ok⟩
  · rw [pending]
  · rw [pending]
    exact if_pos (List.any_eq_true.2 ⟨e, inside, isResetOk_of ok⟩)

/-- Settles O9: the return frame formed and the blocks reset, or nothing. -/
theorem softResetState : Obligations.SoftResetState := by
  refine ⟨fun s last unformed => ?_, fun s idle => ?_⟩
  · intro a sent due uncut
    have formed : s.withReturn = s.formReturn := by
      unfold State.withReturn
      rw [unformed]
      rfl
    have resets : s.withReturn.resetDue = true := by
      rw [formed]
      unfold State.resetDue
      have sent_ : s.formReturn.play.agent.resetPending = some .nextBoundary := replySent_due due
      have calm : s.formReturn.writing = false := writing_false (s := s.formReturn) uncut
      rw [sent_, calm]
      rfl
    refine ⟨s.withReturn.softReset, congrArg Host.Outcome.next (if_pos ⟨last, resets⟩), ?_⟩
    rw [formed]
    obtain ⟨flash, occasion, abandoned⟩ := abandonStep_form s.formReturn
    unfold State.softReset
    refine ⟨blocksAtReset_of (s.formReturn.abandonStep.settings.firstScan) rfl rfl rfl rfl rfl, ?_⟩
    simp only [abandoned]
    refine ⟨rfl, rfl, rfl, rfl, rfl, rfl, rfl, rfl, fun f reading => ?_, fun free => ?_⟩
    · obtain ⟨g, -, rfl⟩ := Option.map_eq_some_iff.1 reading
      rfl
    · exact (congrArg State.flash abandoned).symm.trans (congrArg State.flash (abandonStep_free (s := s.formReturn) free)) |>.trans rfl
  · refine congrArg Host.Outcome.next (if_neg ?_)
    rintro ⟨last, due⟩
    unfold State.resetDue at due
    obtain ⟨pending, calm⟩ := Bool.and_eq_true_iff.1 due
    rcases idle with within | calm_ | ⟨c, current, started, writes⟩
    · exact within last
    · have still : s.withReturn.play.agent.resetPending = none := by
        unfold State.withReturn
        split
        · exact calm_
        · show s.play.agent.replySent _ = _
          unfold Agent.replySent
          rw [calm_]
      rw [still] at pending
      cases pending
    · have busy : s.withReturn.writing = true := by
        have current_ : s.withReturn.store.current = some c := by
          unfold State.withReturn
          split <;> exact current
        unfold State.writing
        rw [current_]
        exact Bool.and_eq_true_iff.2 ⟨started, writes⟩
      rw [busy] at calm
      cases calm

/-! ## Ramps and contributions (R78, R82, R85, R86) -/

/-- The fader `m` samples into a ramp with step interval `k`: `m / k` steps taken, `m % k` samples counted towards the next. -/
def Fader.along (start target k span m : Nat) : Fader :=
  ⟨if start < target then start + m / k else start - m / k, some ⟨target, k, span - m / k, m % k⟩⟩

theorem stepToward_along (start target k span m : Nat) (spans : span = (target - start) + (start - target)) (left : m / k < span) :
    stepToward (Fader.along start target k span m).level target = if start < target then start + (m / k + 1) else start - (m / k + 1) := by
  unfold stepToward Fader.along
  dsimp only
  split <;> split <;> (try split) <;> omega

theorem advance_along {start target k span m : Nat} (spans : span = (target - start) + (start - target)) (positive : 0 < k)
    (inside : m < k * span) : (Fader.along start target k span m).advance = Fader.along start target k span (m + 1) := by
  have left : m / k < span := (Nat.div_lt_iff_lt_mul positive).2 (by rwa [Nat.mul_comm] at inside)
  have below : m % k < k := Nat.mod_lt m positive
  have split_ : k * (m / k) + m % k = m := Nat.div_add_mod m k
  have more : span - m / k ≠ 0 := by omega
  by_cases wait : m % k + 1 < k
  · have div : (m + 1) / k = m / k := (Nat.div_eq_iff positive).2 (by constructor <;> [rw [Nat.mul_comm]; rw [Nat.mul_comm]] <;> omega)
    have mod : (m + 1) % k = m % k + 1 := by
      have := Nat.div_add_mod (m + 1) k
      rw [div] at this
      omega
    show (if span - m / k = 0 then _ else if m % k + 1 < k then _ else _) = _
    rw [if_neg more, if_pos wait]
    unfold Fader.along
    rw [div, mod]
  · have next : m + 1 = k * (m / k + 1) := by rw [Nat.mul_add, Nat.mul_one]; omega
    have div : (m + 1) / k = m / k + 1 := by rw [next, Nat.mul_div_cancel_left _ positive]
    have mod : (m + 1) % k = 0 := by rw [next, Nat.mul_mod_right]
    show (if span - m / k = 0 then _ else if m % k + 1 < k then _ else
      (⟨stepToward (Fader.along start target k span m).level target, _⟩ : Fader)) = _
    rw [if_neg more, if_neg wait, stepToward_along start target k span m spans left]
    unfold Fader.along
    rw [div, mod, show span - (m / k + 1) = span - m / k - 1 from Nat.sub_add_eq ..]

theorem faderAfter_along {start target k span : Nat} (spans : span = (target - start) + (start - target)) (positive : 0 < k) :
    ∀ m, m ≤ k * span → faderAfter (Fader.along start target k span 0) m = Fader.along start target k span m
  | 0, _ => rfl
  | m + 1, inside => by
    show (faderAfter _ m).advance = _
    rw [faderAfter_along spans positive m (by omega), advance_along spans positive (by omega)]

theorem begin_along {f : Fader} {target ms : Nat} (apart : (target - f.level) + (f.level - target) ≠ 0) (lasts : ms ≠ 0) :
    f.begin target ms = Fader.along f.level target (max 1 (ms * 48 / ((target - f.level) + (f.level - target))))
      ((target - f.level) + (f.level - target)) 0 := by
  unfold Fader.begin Fader.along
  simp only
  rw [if_neg (not_or.2 ⟨apart, lasts⟩), Nat.zero_div, Nat.zero_mod]
  simp

/-- Settles O28, by induction on the samples of the ramp. -/
theorem rampFollowsItsSteps : Obligations.RampFollowsItsSteps := by
  intro f target ms span k
  have positive : 0 < k := by omega
  have after (apart : span ≠ 0) (lasts : ms ≠ 0) (m : Nat) (inside : m ≤ k * span) :
      faderAfter (f.begin target ms) m = Fader.along f.level target k span m := by
    rw [begin_along apart lasts]
    exact faderAfter_along rfl positive m inside
  refine ⟨fun none => if_pos none, fun apart lasts m inside => ?_, fun apart lasts => ?_⟩
  · rw [after apart lasts m inside]
    refine ⟨rfl, ?_⟩
    show (span - m / k == 0) = true ↔ _
    have bound : m / k ≤ span := Nat.div_le_of_le_mul inside
    rw [beq_iff_eq]
    constructor
    · intro done
      have full : m / k = span := by omega
      have := Nat.mul_div_le m k
      rw [full] at this
      omega
    · rintro rfl
      rw [Nat.mul_div_cancel_left _ positive, Nat.sub_self]
  · rw [after apart lasts _ le_rfl]
    show (if f.level < target then f.level + k * span / k else f.level - k * span / k) = target
    rw [Nat.mul_div_cancel_left _ positive]
    have : span = (target - f.level) + (f.level - target) := rfl
    split <;> omega

/-- The gain table rises strictly from entry to entry. -/
theorem gainTable_rises : gainTable.IsChain (· < ·) := by
  have first : gainTable0.IsChain (· < ·) := by
    simp only [gainTable0, List.isChain_cons_cons, List.isChain_singleton]
    decide
  have second : gainTable64.IsChain (· < ·) := by
    simp only [gainTable64, List.isChain_cons_cons, List.isChain_singleton]
    decide
  have third : gainTable128.IsChain (· < ·) := by
    simp only [gainTable128, List.isChain_cons_cons, List.isChain_singleton]
    decide
  have fourth : gainTable192.IsChain (· < ·) := by
    simp only [gainTable192, List.isChain_cons_cons, List.isChain_singleton]
    decide
  unfold gainTable
  rw [List.isChain_append, List.isChain_append, List.isChain_append]
  refine ⟨⟨⟨first, second, ?_⟩, third, ?_⟩, fourth, ?_⟩ <;> decide

theorem lin_eq {e : Nat} (inside : e < gainTable.length) : lin e = gainTable[e] := by
  unfold lin
  rw [List.getD_eq_getElem?_getD, List.getElem?_eq_getElem inside, Option.getD_some]

theorem lin_lt {d e : Nat} (lt : d < e) (inside : e < 256) : lin d < lin e := by
  have length : gainTable.length = 256 := by
    rw [gainTable, List.length_append, List.length_append, List.length_append]
    rfl
  rw [lin_eq (by omega), lin_eq (by omega)]
  exact List.pairwise_iff_getElem.1 (List.isChain_iff_pairwise.1 gainTable_rises) d e _ _ lt

theorem lin_unity : lin 231 = 32768 := rfl

/-- Settles O29: the floor division, and the gain table read entry by entry. -/
theorem contributionRounds : Obligations.ContributionRounds := by
  refine ⟨fun x e => ?_, fun x => ⟨?_, ?_⟩, fun e _ lt => lin_lt (Nat.lt_succ_self e) (by omega), fun e le => ?_⟩
  · unfold contribution
    generalize x * lin e + 16384 = n
    omega
  · have silent : lin 0 = 0 := rfl
    unfold contribution
    rw [silent]
    omega
  · unfold contribution
    rw [lin_unity]
    omega
  · rcases Nat.lt_or_eq_of_le le with below | rfl
    · exact (lin_lt below (by omega)).le
    · exact le_of_eq rfl

end Sys2Proof.Machine

/-! # Programme frames and page reads (O11, O12, O32, O33) -/

namespace Sys2Proof.Machine

/-! ## Bytes by offset -/

theorem leAt_zero (bs : List Byte) (off : Nat) : leAt bs off 0 = 0 := rfl

/-- A number on the link, byte by byte; a byte behind the end counts as 0. -/
theorem leAt_succ (bs : List Byte) (off n : Nat) : leAt bs off (n + 1) = (bs.getD off 0).toNat + 256 * leAt bs (off + 1) n := by
  unfold leAt slice
  by_cases inside : off < bs.length
  · rw [List.drop_eq_getElem_cons inside, List.take_succ_cons, List.getD_eq_getElem?_getD, List.getElem?_eq_getElem inside]
    rfl
  · rw [List.drop_eq_nil_of_le (by omega), List.drop_eq_nil_of_le (by omega), List.getD_eq_getElem?_getD,
      List.getElem?_eq_none (by omega)]
    simp [leNat]

theorem leAt_one (bs : List Byte) (off : Nat) : leAt bs off 1 = (bs.getD off 0).toNat := by
  rw [leAt_succ, leAt_zero, Nat.mul_zero, Nat.add_zero]

theorem leAt_two (bs : List Byte) (off : Nat) : leAt bs off 2 = (bs.getD off 0).toNat + 256 * (bs.getD (off + 1) 0).toNat := by
  rw [leAt_succ, leAt_one]

theorem leAt_three (bs : List Byte) (off : Nat) : leAt bs off 3 =
    (bs.getD off 0).toNat + 256 * (bs.getD (off + 1) 0).toNat + 65536 * (bs.getD (off + 2) 0).toNat := by
  rw [leAt_succ, leAt_two, Nat.add_assoc off 1 1]
  omega

theorem leAt_four (bs : List Byte) (off : Nat) : leAt bs off 4 =
    (bs.getD off 0).toNat + 256 * (bs.getD (off + 1) 0).toNat +
      65536 * ((bs.getD (off + 2) 0).toNat + 256 * (bs.getD (off + 3) 0).toNat) := by
  rw [leAt_succ, leAt_three, Nat.add_assoc off 1 1, Nat.add_assoc off 1 2]
  omega

theorem slice_slice (bs : List Byte) (off len j n : Nat) (inside : j + n ≤ len) : slice (slice bs off len) j n = slice bs (off + j) n := by
  unfold slice
  rw [List.drop_take, List.take_take, List.drop_drop, Nat.min_eq_left (by omega)]

theorem leAt_slice (bs : List Byte) (off len j n : Nat) (inside : j + n ≤ len) : leAt (slice bs off len) j n = leAt bs (off + j) n := by
  unfold leAt
  rw [slice_slice bs off len j n inside]

theorem toNat_append_add {m n : Nat} (a : BitVec m) (b : BitVec n) : (a ++ b).toNat = a.toNat * 2 ^ n + b.toNat := by
  rw [BitVec.toNat_append, ← Nat.shiftLeft_add_eq_or_of_lt b.isLt, Nat.shiftLeft_eq]

/-- Three bytes of the link as one 24-bit word. -/
theorem threeBytes_toNat (bs : List Byte) (off : Nat) :
    (bs.getD (off + 2) 0 ++ bs.getD (off + 1) 0 ++ bs.getD off 0).toNat = leAt bs off 3 := by
  rw [toNat_append_add, toNat_append_add, leAt_three]
  omega

theorem threeBytes_toInt (bs : List Byte) (off : Nat) :
    (bs.getD (off + 2) 0 ++ bs.getD (off + 1) 0 ++ bs.getD off 0).toInt = asSigned 24 (leAt bs off 3) := by
  rw [BitVec.toInt_eq_toNat_cond, threeBytes_toNat]
  unfold asSigned
  exact if_congr (by omega) rfl rfl

theorem threeBytes_ofNat (bs : List Byte) (off : Nat) :
    BitVec.ofNat 24 (leAt bs off 3) = bs.getD (off + 2) 0 ++ bs.getD (off + 1) 0 ++ bs.getD off 0 := by
  apply BitVec.eq_of_toNat_eq
  rw [← threeBytes_toNat, BitVec.toNat_ofNat, Nat.mod_eq_of_lt (BitVec.isLt _)]

/-- The word sum, byte by byte: each with the weight of its place in its word. -/
theorem wordSum_eq (bs : List Byte) : wordSum bs = ((List.range bs.length).map fun i => (bs.getD i 0).toNat * 256 ^ (i % 4)).sum := by
  induction bs using wordSum.induct with
  | case1 a b c d rest ih =>
    have later (i : Nat) : (i + 1 + 1 + 1 + 1) % 4 = i % 4 := by omega
    simp only [wordSum, List.length_cons, List.sum_range_succ', List.getD_cons_succ, List.getD_cons_zero, later, ih, leNat, Nat.reduceSucc,
      Nat.reduceMod, Nat.reducePow]
    omega
  | case2 bs short =>
    match bs, short with
    | [], _ => rfl
    | [a], _ => simp [wordSum, leNat]
    | [a, b], _ => simp [wordSum, leNat, List.range_succ, Nat.mul_comm]
    | [a, b, c], _ =>
      simp [wordSum, leNat, List.range_succ]
      omega
    | a :: b :: c :: d :: rest, short => exact absurd rfl (short a b c d rest)

theorem wordSum_take (bs : List Byte) (n : Nat) (inside : n ≤ bs.length) :
    wordSum (bs.take n) = ((List.range n).map fun i => (bs.getD i 0).toNat * 256 ^ (i % 4)).sum := by
  rw [wordSum_eq, List.length_take, Nat.min_eq_left inside]
  refine congrArg List.sum (List.map_congr_left fun i place => ?_)
  rw [List.getD_eq_getElem?_getD, List.getElem?_take_of_lt (List.mem_range.1 place), ← List.getD_eq_getElem?_getD]

/-! ## Frame validity and layout (R155) -/

theorem readCue_slice (bs : List Byte) (o : Nat) : readCue (slice bs o 12) =
    ⟨leAt bs o 1, leAt bs (o + 2) 2, ⟨leAt bs (o + 4) 2, leAt bs (o + 1) 1⟩, BitVec.ofNat 24 (leAt bs (o + 6) 3), leAt bs (o + 9) 3⟩ := by
  unfold readCue
  repeat rw [leAt_slice bs o 12 _ _ (by omega)]
  rfl

theorem frameValid_iff (bs : List Byte) : frameValid bs = true ↔ slice bs 0 3 = [0xB4, 0x2D, 0x71] ∧ leAt bs 3 1 ≤ 2 ∧
    leAt bs 4 2 = bs.length ∧ 330 ≤ bs.length ∧ bs.length ≤ 842 ∧ leAt bs 8 4 ≤ 86399999 ∧
    leAt bs (bs.length - 4) 4 = wordSum (bs.take (bs.length - 4)) % 2 ^ 32 := by
  unfold frameValid sum32
  simp only [Bool.and_eq_true, beq_iff_eq, decide_eq_true_eq]
  constructor
  · rintro ⟨⟨⟨⟨⟨⟨sync, low⟩, high⟩, length⟩, cues⟩, air⟩, check⟩
    rw [length] at low high check
    exact ⟨sync, cues, length, low, high, air, check⟩
  · rintro ⟨sync, cues, length, low, high, air, check⟩
    rw [length]
    exact ⟨⟨⟨⟨⟨⟨sync, low⟩, high⟩, rfl⟩, cues⟩, air⟩, check⟩

theorem exec_frameArrival (bs : List Byte) (s : State) : exec (.programmeFrameArrival bs) s = .next { s with link := s.link.arrive bs } := rfl

/-- Settles O11: the tests of validity unfolded to bytes, and each field at its place. -/
theorem invalidFrameChangesCountOnly : Obligations.InvalidFrameChangesCountOnly := by
  refine ⟨fun s bs invalid => ?_, fun bs => ?_⟩
  · have counted : s.link.arrive bs = s.link.invalid := if_neg (by rw [invalid]; nofun)
    rw [exec_frameArrival, counted]
    rfl
  · intro y x two four n
    have one_ (o : Nat) : leAt bs o 1 = x o := leAt_one bs o
    have two_ (o : Nat) : leAt bs o 2 = two o := leAt_two bs o
    have four_ (o : Nat) : leAt bs o 4 = four o := leAt_four bs o
    constructor
    · rw [frameValid_iff, one_, two_, four_, four_, wordSum_take bs _ (by omega)]
      rfl
    · intro valid f
      obtain ⟨-, cues, length, low, -, -, -⟩ := (frameValid_iff bs).1 valid
      have taken : f.cues = [readCue (slice bs 302 12), readCue (slice bs 314 12)].take (leAt bs 3 1) := rfl
      refine ⟨two_ 6, ?_, ?_, ?_, fun i inside => ?_, ?_, fun k below => ?_⟩
      · rw [← two_, ← four_]
        rfl
      · simp only [f, readFrame, length, slice, n]
      · simp [f, readFrame]
      · have sample : f.bed[i]? = some (readBedSample bs i) := by simp [f, readFrame, inside]
        rw [sample]
        unfold readBedSample
        rw [Nat.add_comm 14, Nat.add_comm 17, ← threeBytes_toInt, ← threeBytes_toInt]
      · rw [taken, List.length_take, one_]
        have : x 3 ≤ 2 := by rwa [one_] at cues
        exact Nat.min_eq_left this
      · intro o
        rw [one_] at cues taken
        have record : f.cues[k]? = some (readCue (slice bs o 12)) := by
          rw [taken, List.getElem?_take_of_lt below]
          have first : k = 0 ∨ k = 1 := by omega
          rcases first with rfl | rfl <;> rfl
        rw [record, readCue_slice, threeBytes_ofNat, one_, one_, two_, two_, leAt_three]

/-! ## The link at a valid frame (R156 to R159) -/

theorem arrive_valid {l : Link} {bs : List Byte} (valid : frameValid bs = true) :
    l.arrive bs = match l.state with
      | .locked => l.counted.place (readFrame bs)
      | .holdover => l.counted.place (readFrame bs)
      | .acquiring => l.counted.run (readFrame bs)
      | .free => l.counted.run (readFrame bs) := by
  unfold Link.arrive
  rw [if_pos valid]
  rfl

/-- R156: what becomes of a frame, by its distance. -/
theorem place_eq {l : Link} (f : ProgFrame) (below : l.expected < 65536) :
    l.place f =
      if (f.seq + 65536 - l.expected) % 65536 ≤ 1 then
        (if l.holding.any fun g => g.seq == f.seq then
          { l with state := .locked
                   counts := { l.counts with outOfSequence := min (2 ^ 32 - 1) (l.counts.outOfSequence + 1) } }
        else { l with state := .locked, holding := l.holding ++ [f] })
      else if (f.seq + 65536 - l.expected) % 65536 ≤ 32767 then
        (if l.state = .holdover then
          { l with
            state := .locked, expected := f.seq, holding := [f], retest := true
            counts :=
              { l.counts with
                outOfSequence := min (2 ^ 32 - 1) (l.counts.outOfSequence + l.holding.length)
                relocks := min (2 ^ 32 - 1) (l.counts.relocks + 1), steps := min (2 ^ 32 - 1) (l.counts.steps + 1) } }
        else { l with counts := { l.counts with outOfSequence := min (2 ^ 32 - 1) (l.counts.outOfSequence + 1) } })
      else { l with counts := { l.counts with late := min (2 ^ 32 - 1) (l.counts.late + 1) } } := by
  have distance : l.distance f = (f.seq + 65536 - l.expected) % 65536 := by
    unfold Link.distance
    rw [Nat.mod_eq_of_lt below]
  unfold Link.place Link.hold Link.holds
  rw [distance]
  rfl

/-- Settles O12, by the link state and the distance, and by the length of the lock run. -/
theorem validFrameMovesLink : Obligations.ValidFrameMovesLink := by
  refine ⟨fun s bs valid state below => ?_, fun s bs valid state short => ?_⟩
  · intro f d l
    have placed : s.link.arrive bs = l.place f := by
      rw [arrive_valid valid]
      rcases state with is | is <;> rw [is]
    rw [exec_frameArrival, placed, place_eq (l := l) f below]
    rfl
  · intro f l extends_
    have ran : s.link.arrive bs = l.run f := by
      rw [arrive_valid valid]
      rcases state with is | is <;> rw [is]
    have count : l.run f = if 4 ≤ (if extends_ then s.link.lockRun + 1 else 1) then l.lock f
        else { l with lockRun := if extends_ then s.link.lockRun + 1 else 1, lockLast := f.seq } := rfl
    refine ⟨fun open_ => ?_, fun ⟨follows, third⟩ => ?_⟩
    · have few : ¬ 4 ≤ (if extends_ then s.link.lockRun + 1 else 1) := by
        split
        · next follows =>
          have : s.link.lockRun ≠ 3 := fun third => open_ ⟨follows, third⟩
          omega
        · omega
      rw [exec_frameArrival, ran, count, if_neg few]
    · have full : 4 ≤ (if extends_ then s.link.lockRun + 1 else 1) := by
        rw [if_pos follows]
        omega
      rw [exec_frameArrival, ran, count, if_pos full]
      rfl

/-! ## The Read Scheduler (R73) -/

theorem openClass_flying {s : State} (flying : s.inFlight ≠ none) : s.openClass = 0 :=
  if_pos (Option.isSome_iff_ne_none.2 flying)

theorem openClass_free {s : State} (free : s.inFlight = none) : s.openClass = match s.store.current with
    | none => if s.store.queue = [] then 5 else 2
    | some c => if c.started = false then 3 else if c.phase = .suspended then 1 else 0 := by
  unfold State.openClass
  rw [free]
  cases s.store.current with
  | none => cases s.store.queue <;> rfl
  | some c =>
    obtain ⟨op, stage, started, phase, suspensions⟩ := c
    cases started <;> cases phase <;> rfl

/-- The first class of a list that may start and has a request is the one served. -/
theorem findSome_first {α β : Type} {p : α → Bool} {f : α → Option β} {before after : List α} {n : α} {q : β} (may : p n = true)
    (here : f n = some q) (empty : ∀ m ∈ before, f m = none) : ((before ++ n :: after).filter p).findSome? f = some q := by
  rw [List.filter_append, List.findSome?_append, List.filter_cons_of_pos may, List.findSome?_cons, here,
    List.findSome?_eq_none_iff.2 fun m inside => empty m (List.mem_filter.1 inside).1]
  rfl

theorem nextRead_first {s : State} {n : Nat} {q : ReadRequest} (cls : n ∈ [1, 2, 3, 4, 5]) (may : n ≤ s.openClass)
    (here : s.firstOf n = some q) (lower : ∀ m ∈ [1, 2, 3, 4, 5], m < n → s.firstOf m = none) : s.nextRead = some q := by
  unfold State.nextRead
  obtain ⟨before, after, classes⟩ := List.append_of_mem cls
  have sorted : [1, 2, 3, 4, 5].Pairwise (· < ·) := by decide
  rw [classes] at sorted ⊢
  refine findSome_first (decide_eq_true may) here fun m inside => ?_
  have lt : m < n := (List.pairwise_append.1 sorted).2.2 m inside n List.mem_cons_self
  exact lower m (by rw [classes]; exact List.mem_append_left _ inside) lt

theorem launch_inFlight (s : State) (q : ReadRequest) : (s.launch q).inFlight = some ⟨q.who, q.page, s.settings.physical (q.page / 64)⟩ := by
  unfold State.launch
  cases q.who <;> rfl

/-- Settles O32. -/
theorem readStartServesFirst : Obligations.ReadStartServesFirst := by
  refine ⟨fun s => ⟨openClass_flying, fun free none => ?_, fun c free some => ?_⟩, fun s n q free cls may here lower => ?_⟩
  · rw [openClass_free free, none]
  · rw [openClass_free free, some]
  · have served : exec .readStart s = .next (s.launch q) := by
      show execReadStart s = _
      unfold execReadStart
      rw [nextRead_first cls may here lower]
    refine ⟨s.launch q, served, launch_inFlight s q, fun v voice => ?_, fun reloc => ?_, fun noVoice noReloc => ?_⟩
    all_goals
      rw [launch_inFlight]
      unfold State.launch
    · rw [voice]
      rfl
    · rw [reloc]
      rfl
    · cases who : q.who with
      | voice v => exact absurd who (noVoice v)
      | relocation => exact absurd who noReloc
      | _ => rfl

/-! ## Page reads (R135) -/

theorem le_foldl_max (l : List Nat) (m : Nat) : m ≤ l.foldl max m ∧ ∀ x ∈ l, x ≤ l.foldl max m := by
  induction l generalizing m with
  | nil => exact ⟨le_rfl, nofun⟩
  | cons y l ih =>
    obtain ⟨start, all⟩ := ih (max m y)
    refine ⟨(le_max_left m y).trans start, fun x inside => ?_⟩
    rcases List.mem_cons.1 inside with rfl | inside
    · exact (le_max_right m x).trans start
    · exact all x inside

theorem foldl_max_mem (l : List Nat) (m : Nat) : l.foldl max m = m ∨ l.foldl max m ∈ l := by
  induction l generalizing m with
  | nil => exact .inl rfl
  | cons y l ih =>
    rcases ih (max m y) with start | later
    · rw [List.foldl_cons, start]
      rcases max_choice m y with is | is
      · exact .inl is
      · exact .inr (by rw [is]; exact List.mem_cons_self)
    · exact .inr (List.mem_cons_of_mem _ later)

/-- The flipped bits of the worst of the eight spans. -/
def worstSpan (a : Attempt) : Nat := ((List.range 8).map (spanFlips a)).foldl max 0

theorem spanFlips_le_worst (a : Attempt) {i : Nat} (span : i < 8) : spanFlips a i ≤ worstSpan a :=
  (le_foldl_max _ 0).2 _ (List.mem_map_of_mem (List.mem_range.2 span))

theorem worstSpan_attained (a : Attempt) : ∃ i < 8, spanFlips a i = worstSpan a := by
  rcases foldl_max_mem ((List.range 8).map (spanFlips a)) 0 with zero | inside
  · refine ⟨0, by omega, ?_⟩
    have := spanFlips_le_worst a (i := 0) (by omega)
    have none : worstSpan a = 0 := zero
    omega
  · obtain ⟨i, span, attained⟩ := List.mem_map.1 inside
    exact ⟨i, List.mem_range.1 span, attained⟩

theorem attemptOutcome_eq (a : Attempt) : attemptOutcome a =
    if 8 < worstSpan a then .uncorrectable else if 0 < worstSpan a then .corrected (worstSpan a) else .clean := rfl

/-- Settles O33: the outcome goes by the worst span, and a read ends at the first attempt that is not uncorrectable. -/
theorem readOutcomeBySpans : Obligations.ReadOutcomeBySpans := by
  refine ⟨fun a => ?_, fun a b c => ⟨fun good single => ?_, fun bad => ?_, fun bad good => ?_, fun bad bad' => ?_⟩⟩
  · obtain ⟨i, span, attained⟩ := worstSpan_attained a
    rw [attemptOutcome_eq]
    refine ⟨⟨fun failed => ⟨i, span, ?_⟩, fun ⟨j, inside, past⟩ => ?_⟩, ⟨fun clean j inside => ?_, fun none => ?_⟩,
      fun n => ⟨fun corrected => ?_, fun ⟨positive, few, bound, j, inside, is⟩ => ?_⟩⟩
    · by_contra few
      rw [if_neg (by omega)] at failed
      split at failed <;> cases failed
    · exact if_pos (past.trans_le (spanFlips_le_worst a inside))
    · have := spanFlips_le_worst a inside
      by_contra some
      split at clean
      · cases clean
      · rw [if_pos (by omega)] at clean
        cases clean
    · have := none i span
      rw [if_neg (by omega), if_neg (by omega)]
    · split at corrected
      · cases corrected
      · split at corrected
        · cases corrected
          exact ⟨by omega, by omega, fun j inside => spanFlips_le_worst a inside, i, span, attained⟩
        · cases corrected
    · have worst : worstSpan a = n := by
        have := bound i span
        have := spanFlips_le_worst a inside
        omega
      rw [worst, if_neg (by omega), if_pos positive]
  all_goals unfold endRead
  · exact if_pos (by simp [good])
  · rw [if_pos (by simp), bad]
  · rw [if_neg (by simp [bad]), if_pos (by simp [good])]
  · rw [if_neg (by simp [bad]), if_neg (by simp [bad'])]

end Sys2Proof.Machine

/-! # Store operations: starts, ends, relocations and remaps (O36, O37, O38, O39) -/

namespace Sys2Proof.Machine

/-! ## Lists by key -/

theorem mem_insertByKey_fresh {α : Type} (key : α → Nat) {x y : α} {l : List α} (fresh : ∀ z ∈ l, key z ≠ key x) :
    y ∈ insertByKey key x l ↔ y = x ∨ y ∈ l := by
  refine ⟨mem_insertByKey key, fun inside => ?_⟩
  induction l with
  | nil => simpa [insertByKey] using inside
  | cons z l ih =>
    have apart : key x ≠ key z := (fresh z List.mem_cons_self).symm
    unfold insertByKey
    split
    · exact List.mem_cons.2 inside
    · rcases inside with is | inside
      · exact List.mem_cons_of_mem _ (ih (fun u mem => fresh u (List.mem_cons_of_mem _ mem)) (.inl is))
      · rcases List.mem_cons.1 inside with is | inside
        · exact is ▸ List.mem_cons_self
        · exact List.mem_cons_of_mem _ (ih (fun u mem => fresh u (List.mem_cons_of_mem _ mem)) (.inr inside))

/-- Into a list in ascending keys an element goes for the one of its key. -/
theorem mem_insertByKey_sorted {α : Type} (key : α → Nat) {x y : α} {l : List α} (sorted : l.Pairwise fun a b => key a < key b) :
    y ∈ insertByKey key x l ↔ y = x ∨ y ∈ l ∧ key y ≠ key x := by
  induction l with
  | nil => simp [insertByKey]
  | cons z l ih =>
    obtain ⟨above, rest⟩ := List.pairwise_cons.1 sorted
    unfold insertByKey
    split
    · next lt =>
      have later : ∀ u ∈ z :: l, key u ≠ key x := by
        intro u mem
        rcases List.mem_cons.1 mem with rfl | mem
        · omega
        · have := above u mem
          omega
      rw [List.mem_cons]
      exact or_congr_right ⟨fun mem => ⟨mem, later y mem⟩, And.left⟩
    · split
      · next same =>
        rw [List.mem_cons, List.mem_cons]
        refine or_congr_right ⟨fun mem => ⟨.inr mem, ?_⟩, fun ⟨mem, other⟩ => mem.resolve_left fun is => other (is ▸ same.symm)⟩
        have := above y mem
        omega
      · next other =>
        rw [List.mem_cons, ih rest, List.mem_cons]
        constructor
        · rintro (rfl | rfl | ⟨mem, apart⟩)
          · exact .inr ⟨.inl rfl, fun same => other same.symm⟩
          · exact .inl rfl
          · exact .inr ⟨.inr mem, apart⟩
        · rintro (rfl | ⟨rfl | mem, apart⟩)
          · exact .inr (.inl rfl)
          · exact .inl rfl
          · exact .inr (.inr ⟨mem, apart⟩)

/-- A set of numbers takes one in. -/
theorem mem_insertByKey_id {j k : Nat} {l : List Nat} : j ∈ insertByKey id k l ↔ j = k ∨ j ∈ l := by
  induction l with
  | nil => simp [insertByKey]
  | cons z l ih =>
    unfold insertByKey
    split
    · exact List.mem_cons
    · split
      · next same =>
        have is : k = z := same
        rw [is, List.mem_cons]
        tauto
      · rw [List.mem_cons, ih, List.mem_cons]
        tauto

theorem mem_addSpent {j k : Nat} {spent : List Nat} : j ∈ addSpent spent k ↔ j = k ∨ j ∈ spent := mem_insertByKey_id

theorem mem_foldl_addSpent {j : Nat} (l spent : List Nat) : j ∈ l.foldl addSpent spent ↔ j ∈ spent ∨ j ∈ l := by
  induction l generalizing spent with
  | nil => simp
  | cons k l ih =>
    rw [List.foldl_cons, ih, mem_addSpent, List.mem_cons]
    tauto

/-! ## Notices placed -/

theorem insertNotice_perm (e : QueueEntry) (n : Notice) (l : List QueueEntry) : (insertNotice e n l).Perm (e :: l) := by
  induction l with
  | nil => exact .refl _
  | cons x l ih =>
    unfold insertNotice
    split
    · split
      · exact (ih.cons x).trans (.swap e x l)
      · exact .refl _
    · exact .refl _

/-- With room, the queue holds the notice and what it held. -/
theorem place_perm {a : Agent} (room : a.noticeRoom = true) (e : QueueEntry) (n : Notice) : (a.place e n).returns.Perm (e :: a.returns) := by
  unfold Agent.place
  rw [if_pos room]
  exact (List.reverse_perm _).trans ((insertNotice_perm e n _).trans ((List.reverse_perm _).cons e))

theorem mem_place {a : Agent} (room : a.noticeRoom = true) (e : QueueEntry) (n : Notice) : e ∈ (a.place e n).returns :=
  (place_perm room e n).mem_iff.2 List.mem_cons_self

theorem mem_place_of_mem {a : Agent} (room : a.noticeRoom = true) (e : QueueEntry) (n : Notice) {x : QueueEntry} (inside : x ∈ a.returns) :
    x ∈ (a.place e n).returns := (place_perm room e n).mem_iff.2 (List.mem_cons_of_mem _ inside)

theorem place_inHand (a : Agent) (e : QueueEntry) (n : Notice) : (a.place e n).inHand = a.inHand := by
  unfold Agent.place
  repeat' split
  all_goals rfl

/-- A queue of fewer than 24 entries has room for a notice. -/
theorem noticeRoom_of_short {a : Agent} (short : a.returns.length < 24) : a.noticeRoom = true := by
  have notices := List.length_filter_le QueueEntry.isNotice a.returns
  unfold Agent.noticeRoom
  refine Bool.and_eq_true_iff.2 ⟨decide_eq_true (show _ < 24 by omega), decide_eq_true (show _ < 32 from ?_)⟩
  split
  · split <;> omega
  · omega

/-- Two notices raised one behind the other, where both find room. -/
theorem mem_place_place {a : Agent} (room : a.noticeRoom = true) (two : a.returns.length + 2 ≤ 24) (e e' : QueueEntry) (n n' : Notice) :
    e ∈ ((a.place e n).place e' n').returns ∧ e' ∈ ((a.place e n).place e' n').returns := by
  have length := (place_perm room e n).length_eq
  rw [List.length_cons] at length
  have more : (a.place e n).noticeRoom = true := noticeRoom_of_short (by omega)
  exact ⟨mem_place_of_mem more _ _ (mem_place room _ _), mem_place more _ _⟩

/-! ## What the end of a store operation leaves (R106, R113, R124, R133) -/

/-- The directory behind an operation: a head commit that left its page programmed registers the clip of its header, and an erase takes
the RETIRING clip of its block away. -/
def Directory.behind (d : Directory) (header : HeaderRead) (op : StoreOp) (good : Bool) : Directory := match op with
  | .commit page _ (some _) => match header with
    | .header clip h => if good then d.register clip (page / 64) h else d
    | _ => d
  | .erase block _ => d.emptyRetiring block
  | _ => d

/-- The Store Controller behind an operation: a commit gives up the staging buffer. -/
def Store.behind (st : Store) (op : StoreOp) : Store := if op.commits then st.release else st

theorem closeOp_eq (s : State) (op : StoreOp) (good : Bool) : s.closeOp op good = { s with
    play := { s.play with dir := s.play.dir.behind s.store.stagedHeader op good }, store := s.store.behind op } := by
  cases op with
  | commit page tag head =>
    cases good with
    | true =>
      cases head with
      | none => rfl
      | some x =>
        show { s.registerHead (.commit page tag (some x)) with store := (s.registerHead (.commit page tag (some x))).store.release } = _
        unfold State.registerHead Directory.behind
        dsimp only
        cases s.store.stagedHeader <;> rfl
    | false =>
      cases head with
      | none => rfl
      | some x =>
        unfold Directory.behind
        dsimp only
        cases s.store.stagedHeader <;> rfl
  | erase block tag => rfl
  | boundary v tag => rfl
  | floor f b tag => rfl

/-- The entry of a notice of the part in the return queue. -/
def State.entryOf (s : State) (tag : Nat) (n : Notice) : QueueEntry := ⟨s.link.address, tag, .notice n, s.link.count⟩

/-- The STORE_DONE of an operation that ends now. -/
def State.doneNotice (s : State) (op : StoreOp) (r : StoreResult) : Notice := .storeDone op.target r s.settings.boundary s.settings.floor

theorem endStore_eq (s : State) (op : StoreOp) (r : StoreResult) : s.endStore op r = { s with
    play := { s.play with
      dir := s.play.dir.behind s.store.stagedHeader op r.good
      agent := s.play.agent.place (s.entryOf op.tag (s.doneNotice op r)) (s.doneNotice op r) }
    store := { s.store.behind op with current := none } } := by
  unfold State.endStore
  rw [closeOp_eq]
  rfl

/-- The REMAP_DONE of an operation that ends now. -/
def State.remapNotice (s : State) (op : StoreOp) (m : Spares) (cause : RemapCause) : Notice :=
  .remapDone op.block m.spare cause m.copied m.lost (256 - (s.settings.remap.length + s.settings.spent.length))

theorem endRemapped_eq (s : State) (op : StoreOp) (m : Spares) (cause : RemapCause) : s.endRemapped op m cause = { s with
    play := { s.play with
      dir := s.play.dir.behind s.store.stagedHeader op true
      agent := (s.play.agent.place (s.entryOf op.tag (s.doneNotice op .remapped)) (s.doneNotice op .remapped)).place
        (s.entryOf 0 (s.remapNotice op m cause)) (s.remapNotice op m cause) }
    store := { s.store.behind op with current := none } } := by
  unfold State.endRemapped
  rw [endStore_eq]
  rfl

theorem queue_behind (st : Store) (op : StoreOp) : (st.behind op).queue = st.queue := by
  unfold Store.behind
  split <;> rfl

/-- A commit that left its page programmed registers the clip of its header where the number is free. -/
theorem register_spec {d : Directory} {clip : Nat} (free : d.find clip = none) (block : Nat) (h : ClipHeader) :
    (∀ e, e ∈ (d.register clip block h).entries ↔ e = ⟨clip, .unverified, block, h.extent, h, 0, 0, none⟩ ∨ e ∈ d.entries) ∧
    (d.register clip block h).queue = if (∃ q ∈ d.queue, q.1 = clip) then d.queue else d.queue ++ [(clip, none)] := by
  refine ⟨fun e => mem_insertByKey_fresh DirEntry.clip fun z inside same => ?_, ?_⟩
  · have := List.find?_eq_none.1 free z inside
    exact this (beq_iff_eq.2 same)
  · unfold Directory.register
    refine if_congr ?_ rfl rfl
    rw [List.any_eq_true]
    exact exists_congr fun q => and_congr_right fun _ => beq_iff_eq

theorem behind_registers {d : Directory} {clip page tag : Nat} {h : ClipHeader} {header : HeaderRead} (is : header = .header clip h)
    (free : d.find clip = none) (x : Nat × Nat) :
    (∀ e, e ∈ (d.behind header (.commit page tag (some x)) true).entries ↔
      e = ⟨clip, .unverified, page / 64, h.extent, h, 0, 0, none⟩ ∨ e ∈ d.entries) ∧
    (d.behind header (.commit page tag (some x)) true).queue =
      if (∃ q ∈ d.queue, q.1 = clip) then d.queue else d.queue ++ [(clip, none)] := by
  subst is
  exact register_spec free (page / 64) h

/-- An operation that ends WORN or PAGE_NOT_ERASED leaves the verify queue, and a commit the whole directory. -/
theorem behind_bad (d : Directory) (header : HeaderRead) (op : StoreOp) :
    (d.behind header op false).queue = d.queue ∧ (op.commits = true → d.behind header op false = d) := by
  unfold Directory.behind
  split
  · split <;> exact ⟨rfl, fun _ => rfl⟩
  · exact ⟨rfl, nofun⟩
  · exact ⟨rfl, fun _ => rfl⟩

/-! ## What follows: the array settled (R120, R128) -/

theorem settleArray_idle {s : State} (free : s.store.current = none) : s.settleArray = s := by
  have first : s.startStep = s := by
    unfold State.startStep
    rw [free]
  unfold State.settleArray
  rw [first]
  unfold State.suspendOrResume
  rw [free]

/-- A started step that is not a running erase with an urgent voice, nor a suspended erase that may resume, stays as it is. -/
theorem settleArray_running {s : State} {c : Current} (current : s.store.current = some c) (started : c.started = true)
    (holds : c.stage.erases = true → (c.phase = .running → s.play.urgent = false) ∧ (c.phase = .suspended → s.play.urgent = true)) :
    s.settleArray = s := by
  have first : s.startStep = s := by
    unfold State.startStep
    rw [current]
    simp [started]
  unfold State.settleArray
  rw [first]
  unfold State.suspendOrResume
  rw [current]
  dsimp only
  split
  · next erases =>
    obtain ⟨-, erases⟩ := Bool.and_eq_true_iff.1 erases
    obtain ⟨calm, urgent⟩ := holds erases
    split
    · next phase => exact if_neg (by rw [calm phase]; nofun)
    · rfl
    · next phase => exact if_neg (by rw [urgent phase]; simp)
  · rfl

/-- A step that has not started may start as the array settles; its operation and its stage stand. -/
theorem goStage_settled {s : State} {c : Current} (current : s.store.current = some c) (st : Stage) :
    ∃ d, (s.goStage st).settleArray = { s with store := { s.store with current := some d } } ∧ d.op = c.op ∧ d.stage = st := by
  obtain ⟨cur, form, same⟩ := settleArray_form (s.goStage st)
  have went : (s.goStage st).store.current = some ⟨c.op, st, false, .running, 0⟩ := by
    show s.store.current.map _ = _
    rw [current]
    rfl
  rw [went] at same
  obtain ⟨d, rfl, fields⟩ := Option.map_eq_some_iff.1 same
  exact ⟨d, form, congrArg Prod.fst fields, congrArg Prod.snd fields⟩

/-- The stage at which a relocation starts, or starts again, by the unused spares. -/
def Settings.relocStage (x : Settings) (spent : List Nat) : Stage := match x.lowestUnused spent with
  | some k => .relocErase ⟨k, spent, 0, 0⟩
  | none => .relocWorn spent

/-- The stage at which a remap starts. -/
def Settings.remapStage (x : Settings) (worn : List Nat) : Stage := match x.lowestUnused [] with
  | some k => .remapInstall ⟨k, [], 0, 0⟩
  | none => .remapWorn worn

theorem beginReloc_eq (s : State) (spent : List Nat) : s.beginReloc spent = s.goStage (s.settings.relocStage spent) := by
  unfold State.beginReloc Settings.relocStage
  cases s.settings.lowestUnused spent <;> rfl

theorem beginRemap_eq (s : State) : s.beginRemap = s.goStage (s.settings.remapStage []) := by
  unfold State.beginRemap Settings.remapStage
  cases s.settings.lowestUnused [] <;> rfl

theorem copyFrom_eq (s : State) (op : StoreOp) (m : Spares) (i : Nat) :
    s.copyFrom op m i = s.goStage (if i < op.index then .relocRead m i else .relocStaged m) := by
  unfold State.copyFrom
  split <;> rfl

theorem urgent_of_not_refilling {p : Play} (calm : p.refilling = false) : p.urgent = false := by
  unfold Play.urgent
  rw [List.any_eq_false]
  intro v inside both
  exact List.any_eq_false.1 calm v inside (Bool.and_eq_true_iff.1 both).1

/-! ## The head of the store queue (O36) -/

theorem exec_storeOperationStart {s : State} {op : StoreOp} {rest : List StoreOp} (free : s.inFlight = none)
    (idle : s.store.current = none) (calm : s.play.refilling = false) (queue : s.store.queue = op :: rest) :
    exec .storeOperationStart s =
      .next (({ s with store := { s.store with queue := rest } } : State).startOp op).settleArray := by
  have due : s.storeDue = true := by
    unfold State.storeDue
    rw [free, idle, calm, queue]
    rfl
  show Host.Outcome.next (if s.storeDue then _ else _) = _
  rw [if_pos due]
  unfold State.startHead
  rw [queue]

theorem beginOp_settled {s : State} (calm : s.play.refilling = false) (op : StoreOp) (st : Stage) :
    (s.beginOp op st).settleArray = s.beginOp op st :=
  settleArray_running (c := ⟨op, st, true, .running, 0⟩) rfl rfl fun _ => ⟨fun _ => urgent_of_not_refilling calm, nofun⟩

/-- An operation that ends at its start leaves the array, and raises its notice. -/
theorem endStore_settled (s : State) (op : StoreOp) (res : StoreResult) (bad : res.good = false) :
    let t := (s.endStore op res).settleArray
    t.store.current = none ∧ t.store.queue = s.store.queue ∧ t.flash = s.flash ∧ t.settings = s.settings ∧
      t.play.dir.queue = s.play.dir.queue ∧ (op.commits = true → t.store.staging = [] ∧ t.store.holds = none) ∧
      (s.play.agent.noticeRoom = true → s.notified t.play op.tag (s.doneNotice op res)) := by
  intro t
  have ended : t = s.endStore op res := settleArray_idle rfl
  rw [ended, endStore_eq, bad]
  refine ⟨rfl, queue_behind _ op, rfl, rfl, (behind_bad _ _ op).1, fun commits => ?_, fun room => mem_place room _ _⟩
  unfold Store.behind
  rw [if_pos commits]
  exact ⟨rfl, rfl⟩

/-- Settles O36, by the kind of the operation at the head. -/
theorem storeOperationStarts : Obligations.StoreOperationStarts := by
  intro s op rest free idle calm queue begun ended
  have runs := exec_storeOperationStart free idle calm queue
  have begins {st : Stage} (starts : ({ s with store := { s.store with queue := rest } } : State).startOp op =
      ({ s with store := { s.store with queue := rest } } : State).beginOp op st) : begun st := by
    show exec .storeOperationStart s = _
    rw [runs, starts, beginOp_settled (by exact calm)]
    rfl
  have ends {res : StoreResult} (bad : res.good = false) (starts : ({ s with store := { s.store with queue := rest } } : State).startOp op =
      ({ s with store := { s.store with queue := rest } } : State).endStore op res) : ended res := by
    obtain ⟨none, left, flash, settings, dir, commit, notice⟩ :=
      endStore_settled { s with store := { s.store with queue := rest } } op res bad
    refine ⟨_, runs.trans (by rw [starts]), none, left, flash, settings, dir, ?_, notice⟩
    rintro page tag head rfl
    exact commit rfl
  cases op with
  | boundary v tag => exact begins rfl
  | floor f b tag => exact begins rfl
  | erase block tag =>
    dsimp only
    split
    · next worn => exact ends rfl (if_pos (List.contains_iff_mem.2 worn))
    · next sound => exact begins (if_neg (mt List.contains_iff_mem.1 sound))
  | commit page tag head =>
    dsimp only
    split
    · next worn => exact ends rfl (if_pos (List.contains_iff_mem.2 worn))
    · next sound =>
      split
      · next set => exact ends rfl ((if_neg (mt List.contains_iff_mem.1 sound)).trans (if_pos set))
      · next clear => exact begins ((if_neg (mt List.contains_iff_mem.1 sound)).trans (if_neg clear))

/-! ## The unused spares (R142) -/

theorem addSpent_sorted {spent : List Nat} (sorted : spent.Pairwise (· < ·)) (k : Nat) : (addSpent spent k).Pairwise (· < ·) :=
  sorted_insertByKey id sorted

theorem used_iff (x : Settings) (k : Nat) : x.used k = true ↔ (∃ e ∈ x.remap, e.2 = k) ∨ k ∈ x.spent := by
  unfold Settings.used
  simp only [Bool.or_eq_true, List.any_eq_true, beq_iff_eq, List.contains_iff_mem]

theorem unused_iff (x : Settings) (spent : List Nat) (k : Nat) : (!x.used k && !spent.contains k) = true ↔
    (∀ e ∈ x.remap, e.2 ≠ k) ∧ k ∉ x.spent ∧ k ∉ spent := by
  rw [Bool.and_eq_true, Bool.not_eq_true', Bool.not_eq_true', ← Bool.not_eq_true, ← Bool.not_eq_true, used_iff, List.contains_iff_mem]
  simp only [not_or, not_exists, not_and, and_assoc, ne_eq]

theorem lowestUnused_spec (x : Settings) (spent : List Nat) :
    let free := fun k => k < 256 ∧ (∀ e ∈ x.remap, e.2 ≠ k) ∧ k ∉ x.spent ∧ k ∉ spent
    match x.lowestUnused spent with
    | some k => free k ∧ ∀ j, j < k → ¬ free j
    | none => ∀ k, ¬ free k := by
  intro free
  have spares : Config.spareBlocks = 256 := rfl
  unfold Settings.lowestUnused
  split
  · next k found =>
    obtain ⟨unused, below, first⟩ := List.find?_range_eq_some.1 found
    rw [List.mem_range, spares] at below
    refine ⟨⟨below, (unused_iff x spent k).1 unused⟩, fun j lt isFree => ?_⟩
    have := first j lt
    rw [(unused_iff x spent j).2 isFree.2] at this
    cases this
  · next none =>
    intro k isFree
    exact List.find?_eq_none.1 none k (List.mem_range.2 isFree.1) ((unused_iff x spent k).2 isFree.2)

/-! ## Page programs (O37) -/

theorem currentStep_of {s : State} {f : Stage → Bool} {c : Current} (current : s.store.current = some c) (started : c.started = true)
    (step : f c.stage = true) (running : c.phase = .running) : s.currentStep f = some c := by
  unfold State.currentStep
  rw [current]
  simp [started, step, running]

theorem exec_pageProgramComplete {s : State} {c : Current} (current : s.currentStep Stage.programs = some c) (pass : Bool) :
    exec (.pageProgramComplete pass) s = .next (s.programEnds c pass).settleArray := by
  show execPageProgramComplete pass s = _
  unfold execPageProgramComplete
  rw [current]

theorem byte_programmed (m : List Host.Cell) (off : Nat) : (programmed m).byte off = readCell m off := by
  unfold PageImage.byte readCell programmed
  dsimp only
  cases m.find? (fun c => c.1 == off) <;> rfl

theorem physicalPage_in_block (x : Settings) (b : Nat) {i : Nat} (inside : i < 64) : x.physicalPage (b * 64 + i) = x.physical b * 64 + i := by
  unfold Settings.physicalPage
  have size : Config.pagesPerBlock = 64 := rfl
  rw [size, show (b * 64 + i) / 64 = b by omega, show (b * 64 + i) % 64 = i by omega]

/-- R143: the programmed pages above the failed index, counted. -/
theorem lostAbove_eq (s : State) (page tag : Nat) (head : Option (Nat × Nat)) : s.lostAbove (.commit page tag head) =
    ((List.range 64).filter fun i =>
      decide (page % 64 < i) && (readFlash s.flash (s.settings.physical (page / 64) * 64 + i)).tag).length := by
  unfold State.lostAbove
  refine congrArg List.length (List.filter_congr fun i inside => ?_)
  have place : s.settings.physicalPage ((StoreOp.commit page tag head).block * Config.pagesPerBlock + i) =
      s.settings.physical (page / 64) * 64 + i := physicalPage_in_block s.settings (page / 64) (List.mem_range.1 inside)
  rw [place]
  rfl

/-- A commit's page programmed: the commit ends. -/
theorem program_passes {s : State} {page tag n : Nat} {head : Option (Nat × Nat)}
    (current : s.store.current = some ⟨.commit page tag head, .program, true, .running, n⟩) :
    exec (.pageProgramComplete true) s =
      .next ((s.writePage (s.settings.physicalPage page) (programmed s.store.staging)).endStore (.commit page tag head) .done) := by
  rw [exec_pageProgramComplete (currentStep_of current rfl rfl rfl)]
  exact congrArg Host.Outcome.next (settleArray_idle rfl)

/-- A commit whose program fails goes on as a relocation. -/
theorem program_fails {s : State} {page tag n : Nat} {head : Option (Nat × Nat)}
    (current : s.store.current = some ⟨.commit page tag head, .program, true, .running, n⟩) :
    ∃ c, exec (.pageProgramComplete false) s = .next { s with store := { s.store with current := some c } } ∧
      c.op = .commit page tag head ∧ c.stage = s.settings.relocStage [] := by
  obtain ⟨c, form, op, stage⟩ := goStage_settled current (s.settings.relocStage [])
  refine ⟨c, ?_, op, stage⟩
  rw [exec_pageProgramComplete (currentStep_of current rfl rfl rfl), ← form, ← beginReloc_eq]
  rfl

/-- A program of a relocation leaves the array given and goes to a stage. -/
theorem program_goes_on {s : State} {c : Current} (current : s.store.current = some c) (started : c.started = true)
    (running : c.phase = .running) (programs : c.stage.programs = true) {pass : Bool} {fl : List (Nat × PageImage)} {st : Stage}
    (ends : s.programEnds c pass = ({ s with flash := fl } : State).goStage st) :
    ∃ t d, exec (.pageProgramComplete pass) s = .next t ∧ t.flash = fl ∧ t.settings = s.settings ∧ t.play = s.play ∧
      t.store.queue = s.store.queue ∧ t.store.staging = s.store.staging ∧ t.store.current = some d ∧ d.op = c.op ∧ d.stage = st := by
  obtain ⟨d, form, op, stage⟩ := goStage_settled (s := { s with flash := fl }) current st
  refine ⟨_, d, exec_pageProgramComplete (currentStep_of current started programs running) pass, ?_⟩
  rw [ends, form]
  exact ⟨rfl, rfl, rfl, rfl, rfl, rfl, op, stage⟩

/-- Settles O37, step by step of a commit and of a relocation. -/
theorem pageProgramEnds : Obligations.PageProgramEnds := by
  refine ⟨fun s page tag n head current => ⟨?passes, ?fails⟩, fun s page tag n head m st current => ?relocates,
    fun spent k j sorted => ⟨addSpent_sorted sorted k, mem_addSpent⟩, lowestUnused_spec⟩
  case passes =>
    refine ⟨_, program_passes current, ?_⟩
    rw [endStore_eq]
    have here : readFlash (s.writePage (s.settings.physicalPage page) (programmed s.store.staging)).flash (s.settings.physicalPage page) =
        programmed s.store.staging := (readFlash_writeFlash ..).trans (if_pos rfl)
    refine ⟨fun off => ?_, ?_, fun k other => (readFlash_writeFlash ..).trans (if_neg other.symm), rfl, rfl, rfl, rfl, rfl,
      fun room => mem_place room _ _, ?_, ?_⟩
    · exact (congrArg (fun i => PageImage.byte i off) here).trans (byte_programmed _ off)
    · exact congrArg PageImage.tag here
    · rintro rfl
      rfl
    · rintro x clip h rfl header free
      exact behind_registers (page := page) (tag := tag) header free x
  case fails =>
    obtain ⟨c, runs, op, stage⟩ := program_fails current
    exact ⟨_, runs, rfl, rfl, rfl, rfl, rfl, rfl, c, rfl, op, stage⟩
  case relocates =>
    intro goes again
    refine ⟨?copied, ?staged⟩
    case copied =>
      rintro i image rfl
      exact ⟨program_goes_on current rfl rfl rfl (copyFrom_eq ..), program_goes_on current rfl rfl rfl (beginReloc_eq ..)⟩
    case staged =>
      rintro rfl
      refine ⟨program_goes_on current rfl rfl rfl ?_, program_goes_on current rfl rfl rfl (beginReloc_eq ..)⟩
      rw [← lostAbove_eq s page tag head]
      rfl

/-! ## Block erases (O38) -/

theorem exec_blockEraseComplete {s : State} {c : Current} (current : s.currentStep Stage.erases = some c) (pass : Bool) :
    exec (.blockEraseComplete pass) s = .next (s.eraseEnds c pass).settleArray := by
  show execBlockEraseComplete pass s = _
  unfold execBlockEraseComplete
  rw [current]

theorem loosen_eq (s : State) (block : Nat) : s.loosen block =
    { s with flash := looseBlock s.flash block s.occasion, occasion := s.occasion + 64 } := by
  unfold State.loosen
  rfl

theorem readFlash_loose_other (s : State) {block k : Nat} (other : k / 64 ≠ block) :
    readFlash (looseBlock s.flash block s.occasion) k = readFlash s.flash k := (readFlash_looseBlock ..).trans (if_neg other)

/-- An erase of the block of an operation passes: the block is blank and the operation ends. -/
theorem erase_passes {s : State} {block tag n : Nat} (current : s.store.current = some ⟨.erase block tag, .erase, true, .running, n⟩) :
    exec (.blockEraseComplete true) s =
      .next (({ s with flash := eraseFlash s.flash (s.settings.physical block) } : State).endStore (.erase block tag) .done) := by
  rw [exec_blockEraseComplete (currentStep_of current rfl rfl rfl)]
  exact congrArg Host.Outcome.next (settleArray_idle rfl)

/-- A step of an erase or of a spare that goes on to a stage, the block given left loose or blank. -/
theorem erase_goes_on {s : State} {c : Current} (current : s.store.current = some c) (started : c.started = true)
    (running : c.phase = .running) (erases : c.stage.erases = true) {pass : Bool} {fl : List (Nat × PageImage)} {occasion : Nat} {st : Stage}
    (ends : s.eraseEnds c pass = ({ s with flash := fl, occasion := occasion } : State).goStage st) :
    ∃ d, exec (.blockEraseComplete pass) s =
        .next { s with flash := fl, occasion := occasion, store := { s.store with current := some d } } ∧ d.op = c.op ∧ d.stage = st := by
  obtain ⟨d, form, op, stage⟩ := goStage_settled (s := { s with flash := fl, occasion := occasion }) current st
  refine ⟨d, ?_, op, stage⟩
  rw [exec_blockEraseComplete (currentStep_of current started erases running), ends, form]

theorem exec_eraseSuspended {s : State} {c : Current} (current : s.store.current = some c) (suspending : c.phase = .suspending) :
    exec .eraseSuspended s = .next ((s.loosenErasing c).modCurrent fun c => { c with phase := .suspended }).settleArray := by
  show execEraseSuspended s = _
  unfold execEraseSuspended
  rw [current]
  simp only [suspending]
  rfl

/-- ERASE_SUSPENDED while a class 1 request is pending. -/
theorem eraseSuspended_spec {s : State} {c : Current} {block : Nat} (current : s.store.current = some c) (started : c.started = true)
    (suspending : c.phase = .suspending) (urgent : s.play.urgent = true) (erasing : s.settings.erasing c = some block) :
    ∃ fl, exec .eraseSuspended s = .next { s with
        store := { s.store with current := some { c with phase := .suspended } }, flash := fl, occasion := s.occasion + 64 } ∧
      ∀ k, readFlash fl k = if k / 64 = block then
        ⟨.free (s.occasion + k % 64), [], Config.freeTag (s.occasion + k % 64), false⟩ else readFlash s.flash k := by
  refine ⟨looseBlock s.flash block s.occasion, ?_, fun k => readFlash_looseBlock ..⟩
  have loosened : (s.loosenErasing c).modCurrent (fun c => { c with phase := .suspended }) = { s with
      store := { s.store with current := some { c with phase := .suspended } }, flash := looseBlock s.flash block s.occasion
      occasion := s.occasion + 64 } := by
    unfold State.loosenErasing
    rw [erasing]
    dsimp only
    rw [loosen_eq]
    unfold State.modCurrent
    dsimp only
    rw [current]
    rfl
  rw [exec_eraseSuspended current suspending, loosened]
  exact congrArg Host.Outcome.next
    (settleArray_running (c := { c with phase := .suspended }) rfl started fun _ => ⟨nofun, fun _ => urgent⟩)

/-- Settles O38, by the step that ends. -/
theorem eraseEndsAndSuspends : Obligations.EraseEndsAndSuspends := by
  refine ⟨fun s block tag n current => ⟨?passes, ?fails⟩, fun s op m st n current which => ?spare,
    fun s c current started erases suspending urgent => ?suspends⟩
  case passes =>
    refine ⟨_, erase_passes current, ?_⟩
    rw [endStore_eq]
    exact ⟨fun k => readFlash_eraseFlash .., rfl, rfl, rfl, rfl, rfl, fun room => mem_place room _ _⟩
  case fails =>
    obtain ⟨c, runs, op, stage⟩ := erase_goes_on current rfl rfl rfl (pass := false) (st := s.settings.remapStage [])
      (fl := looseBlock s.flash (s.settings.physical block) s.occasion) (occasion := s.occasion + 64) (by
        unfold State.eraseEnds
        dsimp only [StoreOp.block]
        rw [if_neg Bool.false_ne_true, loosen_eq, beginRemap_eq])
    refine ⟨_, runs, fun k other => ?_, rfl, rfl, rfl, c, rfl, op, stage⟩
    dsimp only
    exact readFlash_loose_other s other
  case spare =>
    intro clean onward
    rcases which with rfl | rfl
    · obtain ⟨c, runs, op_, stage⟩ := erase_goes_on current rfl rfl rfl (pass := true) (occasion := s.occasion)
        (fl := eraseFlash s.flash (32768 + m.spare)) (copyFrom_eq ..)
      obtain ⟨d, runs', op', stage'⟩ := erase_goes_on current rfl rfl rfl (pass := false)
        (st := s.settings.relocStage (addSpent m.spent m.spare))
        (fl := looseBlock s.flash (Config.logicalBlocks + m.spare) s.occasion) (occasion := s.occasion + 64) (by
          unfold State.eraseEnds
          dsimp only
          rw [if_neg Bool.false_ne_true, loosen_eq, beginReloc_eq])
      refine ⟨_, _, runs, runs', rfl, rfl, rfl, rfl, fun k => readFlash_eraseFlash .., fun k other => ?_,
        fun _ => ⟨⟨c, rfl, op_, stage, rfl⟩, d, rfl, op', stage', rfl⟩, nofun⟩
      dsimp only
      exact readFlash_loose_other s (block := Config.logicalBlocks + m.spare) other
    · have runs : exec (.blockEraseComplete true) s =
          .next (({ s with flash := eraseFlash s.flash (32768 + m.spare) } : State).endRemapped op m .erase) := by
        rw [exec_blockEraseComplete (currentStep_of current rfl rfl rfl)]
        exact congrArg Host.Outcome.next (settleArray_idle rfl)
      obtain ⟨d, runs', op', stage'⟩ := erase_goes_on current rfl rfl rfl (pass := false) (st := s.settings.remapStage [m.spare])
        (fl := looseBlock s.flash (Config.logicalBlocks + m.spare) s.occasion) (occasion := s.occasion + 64) (by
          unfold State.eraseEnds Settings.remapStage
          dsimp only
          rw [if_neg Bool.false_ne_true, loosen_eq]
          dsimp only
          cases s.settings.lowestUnused [] <;> rfl)
      rw [endRemapped_eq] at runs
      refine ⟨_, _, runs, runs', rfl, rfl, queue_behind _ op, rfl, fun k => readFlash_eraseFlash .., fun k other => ?_,
        nofun, fun _ => ⟨?_, d, rfl, op', stage', rfl⟩⟩
      · dsimp only
        exact readFlash_loose_other s (block := Config.logicalBlocks + m.spare) other
      rintro block tag rfl
      exact ⟨rfl, rfl, fun room two => mem_place_place room two _ _ _ _⟩
  case suspends =>
    intro block
    refine eraseSuspended_spec current started suspending urgent ?_
    obtain ⟨op, stage, st, phase, count⟩ := c
    cases stage with
    | erase => rfl
    | relocErase m => rfl
    | remapErase m => rfl
    | _ => exact absurd erases Bool.false_ne_true

/-! ## Settings writes (O39) -/

theorem exec_settingsWriteComplete {s : State} {c : Current} (current : s.store.current = some c) (started : c.started = true)
    (writes : c.stage.writesSettings = true) (running : c.phase = .running) :
    exec .settingsWriteComplete s = .next (s.writeEnds c).settleArray := by
  show execSettingsWriteComplete s = _
  unfold execSettingsWriteComplete
  rw [currentStep_of current started writes running]

/-- The mapping of a block, read from a table of remap entries. -/
theorem physical_eq (x : Settings) (b : Nat) :
    x.physical b = match x.remap.find? (fun e => e.1 == b) with
      | some e => 32768 + e.2
      | none => b := rfl

theorem physical_install (x : Settings) (block : Nat) (m : Spares) (b : Nat) :
    (x.install block m).physical b = if b = block then 32768 + m.spare else x.physical b := by
  have found : (x.install block m).remap.find? (fun e => e.1 == b) =
      if block = b then some (block, m.spare) else x.remap.find? fun e => e.1 == b := find_insertByKey Prod.fst (block, m.spare) b x.remap
  rw [physical_eq, found]
  by_cases same : block = b
  · rw [if_pos same, if_pos same.symm]
  · rw [if_neg same, if_neg fun e => same e.symm, physical_eq]

theorem sorted_remap {x : Settings} (sorted : (x.remap.map Prod.fst).Pairwise (· < ·)) : x.remap.Pairwise fun a b => a.1 < b.1 :=
  List.pairwise_map.1 sorted

theorem former_block {remap : List (Nat × Nat)} {block b n : Nat} (found : remap.find? (fun e => e.1 == block) = some (b, n)) :
    b = block := by
  exact beq_iff_eq.1 (List.find?_some (p := fun e : Nat × Nat => e.1 == block) found)

/-- The spare that a block was mapped to. -/
theorem former_iff {x : Settings} (sorted : (x.remap.map Prod.fst).Pairwise (· < ·)) (block k : Nat) :
    k ∈ ((x.remap.find? fun e => e.1 == block).map Prod.snd).toList ↔ (block, k) ∈ x.remap := by
  rw [Option.mem_toList, Option.map_eq_some_iff]
  constructor
  · rintro ⟨⟨b, n⟩, found, rfl⟩
    have same : b = block := former_block found
    exact same ▸ List.mem_of_find?_eq_some found
  · intro inside
    obtain ⟨⟨b, n⟩, found⟩ : ∃ e, x.remap.find? (fun e => e.1 == block) = some e :=
      Option.isSome_iff_exists.1 (List.find?_isSome.2 ⟨_, inside, beq_self_eq_true block⟩)
    refine ⟨(b, n), found, ?_⟩
    have same : b = block := former_block found
    have mem : (block, n) ∈ x.remap := same ▸ List.mem_of_find?_eq_some found
    have distinct : (x.remap.map Prod.fst).Nodup := sorted.imp Nat.ne_of_lt
    exact congrArg Prod.snd (List.inj_on_of_nodup_map distinct mem inside rfl)

theorem install_spec {x : Settings} (sorted : (x.remap.map Prod.fst).Pairwise (· < ·)) (block : Nat) (m : Spares) :
    ((x.install block m).remap.map Prod.fst).Pairwise (· < ·) ∧
    (∀ e, e ∈ (x.install block m).remap ↔ e = (block, m.spare) ∨ e ∈ x.remap ∧ e.1 ≠ block) ∧
    (∀ k, k ∈ (x.install block m).spent ↔ k ∈ x.spent ∨ k ∈ m.spent ∨ (block, k) ∈ x.remap) := by
  refine ⟨List.pairwise_map.2 (sorted_insertByKey Prod.fst (sorted_remap sorted)),
    fun e => mem_insertByKey_sorted Prod.fst (sorted_remap sorted), fun k => ?_⟩
  refine (mem_foldl_addSpent _ _).trans (or_congr_right ?_)
  rw [List.mem_append, former_iff sorted]
  exact or_comm

theorem mem_wear (x : Settings) (block k : Nat) : k ∈ (x.wear block).worn ↔ k ∈ x.worn ∨ k = block ∧ x.worn.length < 64 := by
  have most : Config.wornMax = 64 := rfl
  unfold Settings.wear
  split
  · next full =>
    rw [Bool.or_eq_true, List.contains_iff_mem, decide_eq_true_eq, most] at full
    refine ⟨.inl, fun either => either.elim id ?_⟩
    rintro ⟨rfl, short⟩
    exact full.resolve_right (by omega)
  · next room =>
    rw [Bool.or_eq_true, List.contains_iff_mem, decide_eq_true_eq, most, not_or] at room
    refine mem_insertByKey_id.trans (or_comm.trans (or_congr_right ?_))
    exact ⟨fun is => ⟨is, by omega⟩, And.left⟩

/-- What a settings write to the worn set leaves, for a relocation and for a remap. -/
theorem worn_spec (x y : Settings) (worn : y.worn = x.worn) (spent_ : y.spent = x.spent) (block : Nat) (spent : List Nat) :
    (∀ k, k ∈ ((y.wear block).spend spent).worn ↔ k ∈ x.worn ∨ k = block ∧ x.worn.length < 64) ∧
    (∀ k, k ∈ ((y.wear block).spend spent).spent ↔ k ∈ x.spent ∨ k ∈ spent) := by
  have kept : (y.wear block).spent = x.spent := by
    unfold Settings.wear
    split <;> exact spent_
  refine ⟨fun k => worn ▸ mem_wear y block k, fun k => ?_⟩
  rw [← kept]
  exact mem_foldl_addSpent spent _

theorem wear_keeps (x : Settings) (block : Nat) : (x.wear block).boundary = x.boundary ∧ (x.wear block).floor = x.floor ∧
    (x.wear block).remap = x.remap := by
  unfold Settings.wear
  split <;> exact ⟨rfl, rfl, rfl⟩

/-- The end of a settings write that ends its operation. -/
theorem write_ends {s : State} {c : Current} {r : StoreResult} (current : s.store.current = some c) (started : c.started = true)
    (writes : c.stage.writesSettings = true) (running : c.phase = .running)
    (ends : s.writeEnds c = ({ s with settings := s.settings.written c } : State).endStore c.op r) :
    exec .settingsWriteComplete s = .next (({ s with settings := s.settings.written c } : State).endStore c.op r) := by
  rw [exec_settingsWriteComplete current started writes running, ends]
  exact congrArg Host.Outcome.next (settleArray_idle rfl)

/-- The settings write of a worn block: the operation ends WORN. -/
theorem write_worn {s : State} {op : StoreOp} {st : Stage} {n : Nat} {spent : List Nat} {y : Settings}
    (current : s.store.current = some ⟨op, st, true, .running, n⟩) (writes : st.writesSettings = true)
    (boundary : y.boundary = s.settings.boundary) (floor : y.floor = s.settings.floor) (worn : y.worn = s.settings.worn)
    (spent_ : y.spent = s.settings.spent)
    (written : s.settings.written ⟨op, st, true, .running, n⟩ = (y.wear op.block).spend spent)
    (ends : s.writeEnds ⟨op, st, true, .running, n⟩ =
      ({ s with settings := s.settings.written ⟨op, st, true, .running, n⟩ } : State).endStore op .worn) :
    ∃ t, exec .settingsWriteComplete s = .next t ∧ t.flash = s.flash ∧ t.store.queue = s.store.queue ∧ t.store.current = none ∧
      t.settings.boundary = s.settings.boundary ∧ t.settings.floor = s.settings.floor ∧
      (∀ k, k ∈ t.settings.worn ↔ k ∈ s.settings.worn ∨ k = op.block ∧ s.settings.worn.length < 64) ∧
      (∀ k, k ∈ t.settings.spent ↔ k ∈ s.settings.spent ∨ k ∈ spent) ∧ t.settings.remap = y.remap ∧
      (∀ page tag head, op = .commit page tag head → t.store.staging = [] ∧ t.store.holds = none ∧ t.play.dir = s.play.dir) ∧
      (∀ block tag, op = .erase block tag → t.store.staging = s.store.staging ∧ t.play.dir.queue = s.play.dir.queue ∧
        t.play.dir.entries = s.play.dir.entries.filter fun e => !(e.state == .retiring && e.firstBlock == block)) ∧
      (s.play.agent.noticeRoom = true →
        s.notified t.play op.tag (.storeDone op.target .worn s.settings.boundary s.settings.floor)) := by
  obtain ⟨boundary', floor', remap'⟩ := wear_keeps y op.block
  obtain ⟨wornIff, spentIff⟩ := worn_spec s.settings y worn spent_ op.block spent
  refine ⟨_, write_ends current rfl writes rfl ends, ?_⟩
  rw [written, endStore_eq]
  refine ⟨rfl, queue_behind _ op, rfl, boundary'.trans boundary, floor'.trans floor, wornIff, spentIff, remap', ?_, ?_, fun room => ?_⟩
  · rintro page tag head rfl
    exact ⟨rfl, rfl, (behind_bad _ _ _).2 rfl⟩
  · rintro block tag rfl
    exact ⟨rfl, rfl, rfl⟩
  · have notice : Notice.storeDone op.target .worn s.settings.boundary s.settings.floor =
        State.doneNotice { s with settings := (y.wear op.block).spend spent } op .worn := by
      rw [← boundary, ← floor, ← boundary', ← floor']
      rfl
    rw [notice]
    exact mem_place room _ _

/-- Settles O39, by the settings write that completes. -/
theorem settingsWriteTakesEffect : Obligations.SettingsWriteTakesEffect := by
  refine ⟨fun s op p l n current which => ?fence, fun s op m st n current which sorted => ?install,
    fun s op spent st n current which => ?worn⟩
  case fence =>
    refine ⟨_, write_ends current rfl rfl rfl rfl, ?_⟩
    rw [endStore_eq]
    rcases which with ⟨⟨tag, rfl⟩, rfl⟩ | ⟨tag, rfl⟩
    · exact ⟨rfl, rfl, rfl, rfl, rfl, rfl, rfl, rfl, rfl, fun room => mem_place room _ _⟩
    · exact ⟨rfl, rfl, rfl, rfl, rfl, rfl, rfl, rfl, rfl, fun room => mem_place room _ _⟩
  case install =>
    obtain ⟨sorted', remap', spent'⟩ := install_spec sorted op.block m
    have mapped := physical_install s.settings op.block m
    rcases which with rfl | rfl
    · have runs : exec .settingsWriteComplete s =
          .next (({ s with settings := s.settings.install op.block m } : State).endRemapped op m .program) := by
        rw [exec_settingsWriteComplete current rfl rfl rfl]
        exact congrArg Host.Outcome.next (settleArray_idle rfl)
      rw [endRemapped_eq] at runs
      refine ⟨_, runs, rfl, queue_behind _ op, rfl, rfl, rfl, mapped, sorted', remap', spent', nofun, fun _ => ⟨rfl, ?_,
        fun room two => mem_place_place room two _ _ _ _⟩⟩
      rintro page tag head rfl
      refine ⟨rfl, rfl, ?_, ?_⟩
      · rintro rfl
        rfl
      · rintro x clip h rfl header free
        exact behind_registers (page := page) (tag := tag) header free x
    · obtain ⟨c, form, op', stage⟩ := goStage_settled (s := { s with settings := s.settings.install op.block m }) current (.remapErase m)
      refine ⟨_, (exec_settingsWriteComplete current rfl rfl rfl).trans (congrArg Host.Outcome.next form), rfl, rfl, rfl, rfl, rfl, mapped,
        sorted', remap', spent', fun _ => ⟨rfl, c, rfl, op', stage⟩, nofun⟩
  case worn =>
    rcases which with rfl | rfl
    · rw [if_pos rfl]
      exact write_worn (y := s.settings) current rfl rfl rfl rfl rfl rfl rfl
    · rw [if_neg nofun]
      exact write_worn (y := s.settings.dropFailed spent) current rfl rfl rfl rfl rfl rfl rfl

end Sys2Proof.Machine

/-! # Gates at a frame boundary (O26) and the frame period event (O10) -/

namespace Sys2Proof.Machine

/-! ## Region sets -/

theorem inMask_or (m n : BitVec 24) (r : Region) : inMask (m ||| n) r = (inMask m r || inMask n r) := BitVec.getLsbD_or

theorem inMask_oneRegion (q r : Region) : inMask (oneRegion q) r = (q == r) := by
  have all : ∀ q r : Region, inMask (oneRegion q) r = (q == r) := by decide
  exact all q r

theorem inMask_regionSet (f : Region → Bool) (r : Region) : inMask (regionSet f) r = f r := by
  have fold (l : List Region) (m : BitVec 24) :
      inMask (l.foldl (fun m q => if f q then m ||| oneRegion q else m) m) r = (inMask m r || (decide (r ∈ l) && f r)) := by
    induction l generalizing m with
    | nil => simp
    | cons q l ih =>
      rw [List.foldl_cons, ih]
      by_cases same : q = r
      · subst same
        cases f q <;> simp [inMask_or, inMask_oneRegion]
      · have other : (q == r) = false := beq_false_of_ne same
        have apart : r ≠ q := fun is => same is.symm
        cases f q <;> simp [inMask_or, inMask_oneRegion, other, apart]
  unfold regionSet
  rw [fold, decide_eq_true (mem_allRegions r)]
  have empty : inMask 0 r = false := BitVec.getLsbD_zero
  rw [empty, Bool.false_or, Bool.true_and]

theorem inMask_arrivedSet (x : Gate) (r : Region) : inMask x.arrivedSet r = x.arrived.any fun a => a.1 == r := inMask_regionSet _ r

/-! ## A gate that closes (R99) -/

theorem close_form (x : Gate) : ∃ missed, x.close = { x with state := .closed, missed := missed } := ⟨_, rfl⟩

theorem mem_insertByKey_self {α : Type} (key : α → Nat) (x : α) (l : List α) : x ∈ insertByKey key x l := by
  induction l with
  | nil => exact List.mem_cons_self
  | cons z l ih =>
    unfold insertByKey
    split
    · exact List.mem_cons_self
    · split
      · exact List.mem_cons_self
      · exact List.mem_cons_of_mem _ ih

theorem mem_insertByKey_of_mem {α : Type} (key : α → Nat) {x y : α} {l : List α} (inside : y ∈ l) :
    y ∈ insertByKey key x l ∨ key y = key x := by
  induction l with
  | nil => cases inside
  | cons z l ih =>
    unfold insertByKey
    split
    · exact .inl (List.mem_cons_of_mem _ inside)
    · split
      · next same =>
        rcases List.mem_cons.1 inside with rfl | later
        · exact .inr same.symm
        · exact .inl (List.mem_cons_of_mem _ later)
      · rcases List.mem_cons.1 inside with rfl | later
        · exact .inl List.mem_cons_self
        · exact (ih later).imp_left (List.mem_cons_of_mem _)

/-- Every region still awaited enters the missed set with the gate's break ID. -/
theorem mem_missed_close {x : Gate} {r : Region} (awaited : x.awaits r = true) : (r, x.breakId.getD 0) ∈ x.close.missed := by
  have fold (l : List Region) (m : List (Region × Nat)) (here : r ∈ l ∨ (r, x.breakId.getD 0) ∈ m) :
      (r, x.breakId.getD 0) ∈ l.foldl (fun m r => insertByKey (fun a => a.1.val) (r, x.breakId.getD 0) m) m := by
    induction l generalizing m with
    | nil => exact here.resolve_left List.not_mem_nil
    | cons q l ih =>
      refine ih _ ?_
      rcases here with first | inside
      · rcases List.mem_cons.1 first with rfl | later
        · exact .inr (mem_insertByKey_self _ _ _)
        · exact .inl later
      · rcases mem_insertByKey_of_mem (fun a : Region × Nat => a.1.val) (x := (q, x.breakId.getD 0)) inside with kept | same
        · exact .inr kept
        · have is : r = q := Fin.ext same
          exact .inr (is ▸ mem_insertByKey_self _ _ _)
  exact fold _ _ (.inl (List.mem_filter.2 ⟨mem_allRegions r, awaited⟩))

/-- Once all that were expected have arrived, a gate closes without missing anybody. -/
theorem close_complete {x : Gate} (complete : x.arrivedSet = x.expected) : x.close = { x with state := .closed } := by
  have nobody : allRegions.filter x.awaits = [] := by
    rw [List.filter_eq_nil_iff]
    intro r _ awaited
    obtain ⟨expected, absent⟩ := Bool.and_eq_true_iff.1 awaited
    rw [← complete, inMask_arrivedSet] at expected
    rw [expected] at absent
    cases absent
  unfold Gate.close
  rw [nobody]
  rfl

/-! ## A gate that opens (R97) -/

/-- The record of a gate that opens. -/
def Gate.openedAt (x : Gate) (count : Nat) : Gate :=
  { x with state := .opened, openPoint := some count, joinDeadline := some (count + x.waitMs * 48) }

/-- The regions given a start: the arrived ones. -/
theorem foldl_opening (g : LinkGroup) (l : List (Region × Nat)) (p : Play) :
    ∃ regions, l.foldl (fun q a => q.modRegion a.1 fun y => { y with opening := some g }) p = { p with regions := regions } ∧
      ∀ r, ({ p with regions := regions } : Play).region r =
        if l.any (fun a => a.1 == r) then { p.region r with opening := some g } else p.region r := by
  induction l generalizing p with
  | nil => exact ⟨p.regions, rfl, fun r => rfl⟩
  | cons a l ih =>
    obtain ⟨regions, form, each⟩ := ih (p.modRegion a.1 fun y => { y with opening := some g })
    refine ⟨regions, form, fun r => (each r).trans ?_⟩
    rw [Play.region_modRegion, List.any_cons]
    by_cases same : a.1 = r
    · subst same
      rw [if_pos rfl, beq_self_eq_true, Bool.true_or, if_pos rfl]
      exact ite_self _
    · rw [if_neg same, beq_false_of_ne same, Bool.false_or]

/-- The GATE_DEADLINE of a gate. -/
def Gate.deadlineNotice (x : Gate) (g : LinkGroup) : Notice := .gateDeadline g x.breakId x.expected x.arrived

/-- An opening, as one equation: the gate, the starts given, and GATE_DEADLINE where the arrived set is short. -/
theorem openGate_form (p : Play) (t : Now) (g : LinkGroup) : ∃ regions,
    p.openGate t g = { p.setGate g ((p.gate g).openedAt t.count) with
      regions := regions
      agent := if (p.gate g).arrivedSet = (p.gate g).expected then p.agent else
        p.agent.place ⟨t.address, 0, .notice ((p.gate g).deadlineNotice g), t.count⟩ ((p.gate g).deadlineNotice g) } ∧
    ∀ r, ({ p with regions := regions } : Play).region r =
      if (p.gate g).arrived.any (fun a => a.1 == r) then { p.region r with opening := some g } else p.region r := by
  obtain ⟨regions, form, each⟩ := foldl_opening g (p.gate g).arrived (p.setGate g ((p.gate g).openedAt t.count))
  refine ⟨regions, ?_, each⟩
  have opened : p.openGate t g = if (p.gate g).arrivedSet = (p.gate g).expected then
      { p.setGate g ((p.gate g).openedAt t.count) with regions := regions }
      else ({ p.setGate g ((p.gate g).openedAt t.count) with regions := regions } : Play).raise t 0 ((p.gate g).deadlineNotice g) := by
    rw [← form]
    rfl
  rw [opened]
  split <;> rfl

/-- The closing test of a gate that has just opened: only a wait limit of 0, or nobody to wait for, closes it at once. -/
theorem closeTest_opened {q : Play} {t : Now} {g : LinkGroup} {x : Gate} (gate : q.gate g = x.openedAt t.count) :
    q.closeTest t g = if x.arrivedSet = x.expected ∨ x.waitMs = 0 then q.setGate g (x.openedAt t.count).close else q := by
  have test : ((x.openedAt t.count).state == .opened &&
      ((x.openedAt t.count).arrivedSet == (x.openedAt t.count).expected || (x.openedAt t.count).joinPassed t)) = true ↔
      x.arrivedSet = x.expected ∨ x.waitMs = 0 := by
    have join : (x.openedAt t.count).joinPassed t = true ↔ x.waitMs = 0 := by
      show decide (t.count + x.waitMs * 48 ≤ t.count) = true ↔ _
      rw [decide_eq_true_iff]
      omega
    have set : (x.openedAt t.count).arrivedSet = x.arrivedSet := rfl
    have state : (x.openedAt t.count).state = .opened := rfl
    rw [state, beq_self_eq_true, Bool.true_and, Bool.or_eq_true, join, beq_iff_eq, set]
    rfl
  unfold Play.closeTest
  rw [gate]
  exact if_congr test rfl rfl

theorem gateTest_waiting {p : Play} {t : Now} {g : LinkGroup} (waiting : (p.gate g).state = .waiting) : p.gateTest t g =
    if (p.gate g).expected = 0 then p.setGate g { p.gate g with state := .closed }
    else if (p.gate g).arrivedSet = (p.gate g).expected ∨ (p.gate g).deadlinePassed t = true then (p.openGate t g).closeTest t g
    else p := by
  unfold Play.gateTest
  dsimp only
  rw [waiting]
  simp only [Bool.or_eq_true, beq_iff_eq]

theorem gate_openGate (p : Play) (t : Now) (g : LinkGroup) : (p.openGate t g).gate g = (p.gate g).openedAt t.count := by
  obtain ⟨regions, form, -⟩ := openGate_form p t g
  rw [form]
  exact (Play.gate_setGate ..).trans (if_pos rfl)

/-! ## GATE_DEADLINE and JOIN_DEADLINE (O26) -/

theorem exec_gateDeadline {s : State} {g : LinkGroup} (last : s.sample = 48) (due : s.play.gateDeadlineDue s.now g = true) :
    exec (.gateDeadline g) s = .next { s with play := s.play.gateTest s.now g } := by
  refine congrArg Host.Outcome.next (if_pos ?_)
  unfold State.atBoundary
  rw [last, due]
  rfl

theorem exec_joinDeadline {s : State} {g : LinkGroup} (last : s.sample = 48) (due : s.play.joinDeadlineDue s.now g = true) :
    exec (.joinDeadline g) s = .next { s with play := s.play.closeTest s.now g } := by
  refine congrArg Host.Outcome.next (if_pos ?_)
  unfold State.atBoundary
  rw [last, due]
  rfl

theorem gateDeadlineDue_iff (p : Play) (t : Now) (g : LinkGroup) : p.gateDeadlineDue t g = true ↔ (p.gate g).state = .waiting ∧
    (p.gate g).expected ≠ 0 ∧ (p.gate g).arrivedSet ≠ (p.gate g).expected ∧ (p.gate g).deadlinePassed t = true := by
  unfold Play.gateDeadlineDue
  simp only [Bool.and_eq_true, beq_iff_eq, bne_iff_ne, and_assoc]

theorem joinDeadlineDue_iff (p : Play) (t : Now) (g : LinkGroup) : p.joinDeadlineDue t g = true ↔ (p.gate g).state = .opened ∧
    (p.gate g).arrivedSet ≠ (p.gate g).expected ∧ (p.gate g).joinPassed t = true := by
  unfold Play.joinDeadlineDue
  simp only [Bool.and_eq_true, beq_iff_eq, bne_iff_ne, and_assoc]

/-- Settles O26, from the forms of an opening and of a closing. -/
theorem gateBoundaries : Obligations.GateBoundaries := by
  refine ⟨fun s g last due => ?_, fun s g last due => ?_⟩
  · intro x
    obtain ⟨waiting, awaited, short, passed⟩ := (gateDeadlineDue_iff ..).1 due
    obtain ⟨regions, form, each⟩ := openGate_form s.play s.now g
    have tested : s.play.gateTest s.now g = (s.play.openGate s.now g).closeTest s.now g := by
      rw [gateTest_waiting waiting, if_neg awaited, if_pos (.inr passed)]
    rw [closeTest_opened (gate_openGate s.play s.now g)] at tested
    rw [form, if_neg short] at tested
    refine ⟨_, exec_gateDeadline last due, ?_⟩
    rw [tested]
    by_cases none : x.waitMs = 0
    · rw [if_pos (.inr none)]
      simp only [Play.gate_setGate, if_true]
      refine ⟨rfl, rfl, rfl, rfl, (if_pos none).symm, fun h other => ?_, rfl, each, fun room => mem_place room _ _⟩
      rw [if_neg other.symm]
      exact (Play.gate_setGate ..).trans (if_neg other.symm)
    · rw [if_neg (not_or.2 ⟨short, none⟩)]
      have gate (h : LinkGroup) := Play.gate_setGate s.play g h ((s.play.gate g).openedAt s.now.count)
      have here : (s.play.setGate g ((s.play.gate g).openedAt s.now.count)).gate g = (s.play.gate g).openedAt s.now.count :=
        (gate g).trans (if_pos rfl)
      refine ⟨congrArg Gate.openPoint here, congrArg Gate.joinDeadline here, (congrArg Gate.arrived here).trans rfl,
        (congrArg Gate.expected here).trans rfl,
        (congrArg Gate.state here).trans (if_neg none).symm, fun h other => (gate h).trans (if_neg other.symm), rfl, each,
        fun room => mem_place room _ _⟩
  · intro x
    obtain ⟨opened, short, passed⟩ := (joinDeadlineDue_iff ..).1 due
    refine ⟨x.close, (exec_joinDeadline last due).trans ?_, rfl, rfl, fun r expected absent => mem_missed_close ?_⟩
    · have closes : s.play.closeTest s.now g = s.play.setGate g x.close := by
        unfold Play.closeTest
        simp only [opened, passed, beq_self_eq_true, Bool.or_true, Bool.and_self, if_true]
        rfl
      rw [closes]
    · unfold Gate.awaits
      rw [expected, absent]
      rfl

/-! ## The samples that a frame period event still forms -/

/-- What samples leave of the link, the Settings Area, the waiting commands and the return frame. -/
theorem formSample_link (s : State) : ∃ count, s.formSample.link = { s.link with count := count } ∧ s.formSample.settings = s.settings ∧
    s.formSample.pending = s.pending ∧ s.formSample.returnFrame = s.returnFrame ∧ s.formSample.returnFormed = s.returnFormed := by
  by_cases idle : s.period = none ∨ 48 ≤ s.sample
  · rw [formSample_idle idle]
    exact ⟨_, rfl, rfl, rfl, rfl, rfl⟩
  · obtain ⟨running, before⟩ := not_or.1 idle
    obtain ⟨p, period⟩ := Option.ne_none_iff_exists'.1 running
    obtain ⟨cues, play, cur, form, -⟩ := formSample_form period (by omega)
    rw [form]
    exact ⟨_, rfl, rfl, rfl, rfl, rfl⟩

theorem formSamples_link (n : Nat) (s : State) : ∃ count, (State.formSamples n s).link = { s.link with count := count } ∧
    (State.formSamples n s).settings = s.settings ∧ (State.formSamples n s).pending = s.pending ∧
    (State.formSamples n s).returnFrame = s.returnFrame ∧ (State.formSamples n s).returnFormed = s.returnFormed := by
  induction n generalizing s with
  | zero => exact ⟨_, rfl, rfl, rfl, rfl, rfl⟩
  | succ n ih =>
    obtain ⟨_, link, settings, pending, frame, formed⟩ := formSample_link s
    obtain ⟨count, link', settings', pending', frame', formed'⟩ := ih s.formSample
    refine ⟨count, ?_, settings'.trans settings, pending'.trans pending, frame'.trans frame, formed'.trans formed⟩
    show (State.formSamples n s.formSample).link = _
    rw [link', link]

/-! ## The return frame and a due reset -/

/-- The return frame formed takes the entries sent out of the agent, and clears its two flags. -/
theorem formReturn_form (s : State) : ∃ frame a, s.formReturn =
      { s with returnFrame := some frame, play := { s.play with agent := a }, returnFormed := true } ∧
    ∃ rest pending, a = { s.play.agent with
      returns := rest, noticesDropped := false, inputDiscarded := false, resetPending := pending } := by
  unfold State.formReturn Agent.afterReturn
  exact ⟨_, _, rfl, _, _, rfl⟩

/-- The boundary tests reach the gates, the regions that they start, the agent and the group levels. -/
theorem boundaryTests_frame (s : State) : s.boundaryTests.link = s.link ∧ s.boundaryTests.settings = s.settings ∧
    s.boundaryTests.pending = s.pending ∧ s.boundaryTests.returnFrame = s.returnFrame ∧ s.boundaryTests.play = s.play.gateTests s.now := by
  unfold State.boundaryTests
  generalize s.play.gateTests s.now = p
  exact ⟨rfl, rfl, rfl, rfl, rfl⟩

/-- What the return frame, a due reset and the boundary tests leave of the link, the Settings Area and the waiting commands. -/
theorem readied_frame (s : State) (stands : s.returnFormed = true → s.returnFrame ≠ none) :
    let t := s.withReturn.resetIfDue.boundaryTests
    t.link = s.link ∧ t.settings = s.settings ∧ t.pending = s.pending ∧ t.returnFrame ≠ none := by
  have formed : s.withReturn.link = s.link ∧ s.withReturn.settings = s.settings ∧ s.withReturn.pending = s.pending ∧
      s.withReturn.returnFrame ≠ none := by
    unfold State.withReturn
    split
    · next is => exact ⟨rfl, rfl, rfl, stands is⟩
    · obtain ⟨frame, a, formed, -⟩ := formReturn_form s
      rw [formed]
      exact ⟨rfl, rfl, rfl, Option.some_ne_none _⟩
  have reset (u : State) : u.resetIfDue.link = u.link ∧ u.resetIfDue.settings = u.settings ∧ u.resetIfDue.pending = u.pending ∧
      u.resetIfDue.returnFrame = u.returnFrame := by
    unfold State.resetIfDue
    split
    · obtain ⟨flash, occasion, abandoned⟩ := abandonStep_form u
      unfold State.softReset
      rw [abandoned]
      exact ⟨rfl, rfl, rfl, rfl⟩
    · exact ⟨rfl, rfl, rfl, rfl⟩
  obtain ⟨link, settings, pending, frame⟩ := formed
  obtain ⟨link', settings', pending', frame'⟩ := reset s.withReturn
  obtain ⟨link'', settings'', pending'', frame'', -⟩ := boundaryTests_frame s.withReturn.resetIfDue
  refine ⟨link''.trans (link'.trans link), settings''.trans (settings'.trans settings), pending''.trans (pending'.trans pending), ?_⟩
  rw [frame'', frame']
  exact frame

/-- R157: the link state after a period without a frame. -/
theorem missed_eq (l : Link) : l.missed = match l.state with
    | .locked => .holdover
    | .holdover => if 2001 ≤ l.consecutive + 1 then .free else .holdover
    | .acquiring => .acquiring
    | .free => .free := by
  unfold Link.missed
  cases l.state with
  | holdover => simp
  | _ => rfl

/-- The frame of the period is passed on: the link of the period, with the re-test of a relock made. -/
theorem passFrame_link (t : State) : t.passFrame.link = { t.link.settle.1 with retest := false } ∧
    t.passFrame.period = some ⟨t.link.settle.2.seq, t.link.settle.1.state, t.link.settle.1.air, t.link.settle.2.bed⟩ := ⟨rfl, rfl⟩

theorem exec_framePeriodEvent (s : State) : exec .framePeriodEvent s = .next s.boundary.settleArray := rfl

/-- Every frame period event opens a period (R157, R160 to R162). -/
theorem framePeriodEvent_opens (s : State) (stands : s.returnFormed = true → s.returnFrame ≠ none) : ∃ t, exec .framePeriodEvent s = .next t ∧
    t.sample = 0 ∧ t.link.expected = (s.link.expected + 1) % 65536 ∧ t.link.address = s.link.address ∧ t.pending = s.pending ∧
    t.link.lockRun = (if s.link.arrived then s.link.lockRun else 0) ∧ t.link.arrived = false ∧
    t.settings = s.settings ∧ t.returnFrame ≠ none ∧
    match s.link.holding.find? fun f => f.seq == s.link.expected with
    | some f => t.period = some ⟨f.seq, s.link.state, f.air, f.bed⟩ ∧ t.link.air = f.air ∧ t.link.consecutive = 0 ∧
        t.link.state = s.link.state ∧ t.link.counts = s.link.counts
    | none => t.period = some ⟨s.link.expected, t.link.state, s.link.air.next, List.replicate 48 (0, 0)⟩ ∧
        t.link.air = s.link.air.next ∧ t.link.consecutive = min 2001 (s.link.consecutive + 1) ∧
        t.link.state = (match s.link.state with
          | .locked => .holdover
          | .holdover => if 2001 ≤ s.link.consecutive + 1 then .free else .holdover
          | .acquiring => .acquiring
          | .free => .free) ∧
        t.link.counts = { s.link.counts with holdover := min (2 ^ 32 - 1) (s.link.counts.holdover + 1) } := by
  obtain ⟨count, link, settings, pending, frame, formed⟩ := formSamples_link (48 - s.sample) s
  generalize samples : State.formSamples (48 - s.sample) s = u at link settings pending frame formed
  obtain ⟨link', settings', pending', frame'⟩ := readied_frame u (by rw [formed, frame]; exact stands)
  generalize readied : u.withReturn.resetIfDue.boundaryTests = v at link' settings' pending' frame'
  have bound : s.boundary = v.passFrame := by
    unfold State.boundary
    rw [← readied, ← samples]
  obtain ⟨passed, period⟩ := passFrame_link v
  obtain ⟨cur, form, -⟩ := settleArray_form v.passFrame
  refine ⟨_, (exec_framePeriodEvent s).trans (congrArg Host.Outcome.next ((congrArg State.settleArray bound).trans form)), rfl, ?_⟩
  have linked : v.link = { s.link with count := count } := link'.trans link
  dsimp only
  rw [period, passed, linked]
  have rest : v.passFrame.pending = s.pending ∧ v.passFrame.settings = s.settings ∧ v.passFrame.returnFrame ≠ none :=
    ⟨pending'.trans pending, settings'.trans settings, frame'⟩
  obtain ⟨commands, area, stands'⟩ := rest
  unfold Link.settle
  dsimp only
  cases held : s.link.holding.find? fun f => f.seq == s.link.expected with
  | some f => exact ⟨rfl, rfl, commands, rfl, rfl, area, stands', rfl, rfl, rfl, rfl, rfl⟩
  | none =>
    refine ⟨rfl, rfl, commands, rfl, rfl, area, stands', rfl, rfl, rfl, ?_, rfl⟩
    exact missed_eq { s.link with count := count }

/-! ## The return frame (R164) -/

theorem takeEntries_cons (left : Nat) (e : QueueEntry) (l : List QueueEntry) : takeEntries left (e :: l) =
    if e.size ≤ left then (e :: (takeEntries (left - e.size) l).1, (takeEntries (left - e.size) l).2) else ([], e :: l) := by
  rw [takeEntries]

theorem takeEntries_spec (left : Nat) (l : List QueueEntry) :
    l = (takeEntries left l).1 ++ (takeEntries left l).2 ∧ ((takeEntries left l).1.map QueueEntry.size).sum ≤ left ∧
    ∀ e, (takeEntries left l).2.head? = some e → left < ((takeEntries left l).1.map QueueEntry.size).sum + e.size := by
  induction l generalizing left with
  | nil => simp [takeEntries]
  | cons x l ih =>
    rw [takeEntries_cons]
    split
    · next fits =>
      obtain ⟨whole, within, next_⟩ := ih (left - x.size)
      dsimp only
      rw [List.map_cons, List.sum_cons, List.cons_append, ← whole]
      refine ⟨rfl, by omega, fun e head => ?_⟩
      have := next_ e head
      omega
    · next big =>
      refine ⟨rfl, Nat.zero_le _, fun e head => ?_⟩
      cases head
      rw [List.map_nil, List.sum_nil]
      omega

theorem length_toLE (n v : Nat) : (toLE n v).length = n := by
  induction n generalizing v with
  | zero => rfl
  | succ n ih => exact congrArg (· + 1) (ih _)

theorem length_entryBytes (e : QueueEntry) : e.bytes.length = e.size := by
  have header : e.header.length = 8 := by
    unfold QueueEntry.header
    split <;> simp [length_toLE]
  unfold QueueEntry.bytes QueueEntry.size
  rw [List.length_append, header]

theorem length_returnBytes (f : ReturnFrame) : f.bytes.length = 14 + f.payload := by
  have entries : (f.entries.flatMap QueueEntry.bytes).length = f.payload := by
    rw [List.length_flatMap]
    exact congrArg List.sum (List.map_congr_left fun e _ => length_entryBytes e)
  have header : f.header.length = 10 := by simp [ReturnFrame.header, length_toLE]
  unfold ReturnFrame.bytes withCheck
  rw [List.length_append, List.length_append, header, entries, length_toLE]
  omega

/-! ## The management field (R165, R169) -/

theorem leAt_cons (b : Byte) (bs : List Byte) (off n : Nat) : leAt (b :: bs) (off + 1) n = leAt bs off n := rfl

theorem leAt_toLE_one {v : Nat} (width : v < 256) (bs : List Byte) : leAt (toLE 1 v ++ bs) 0 1 = v := by
  rw [leAt_one]
  show (BitVec.ofNat 8 v).toNat = v
  rw [BitVec.toNat_ofNat]
  omega

theorem leAt_toLE_two {v : Nat} (width : v < 65536) (bs : List Byte) : leAt (toLE 2 v ++ bs) 0 2 = v := by
  rw [leAt_two]
  show (BitVec.ofNat 8 v).toNat + 256 * (BitVec.ofNat 8 (v / 256)).toNat = v
  rw [BitVec.toNat_ofNat, BitVec.toNat_ofNat]
  omega

/-- The header of a message, field by field, and its body. -/
theorem message_reads {m : Message} (fits : m.fits) (tail : List Byte) :
    leAt (m.bytes ++ tail) 0 1 = m.target ∧ leAt (m.bytes ++ tail) 1 2 = m.tag ∧ leAt (m.bytes ++ tail) 3 1 = m.kind ∧
    leAt (m.bytes ++ tail) 4 1 = m.flags ∧ leAt (m.bytes ++ tail) 5 2 = m.body.length ∧
    slice (m.bytes ++ tail) 7 m.body.length = m.body ∧ (m.bytes ++ tail).drop (7 + m.body.length) = tail ∧
    (m.bytes ++ tail).length = 7 + m.body.length + tail.length := by
  obtain ⟨target, tag, kind, flags, length, -⟩ := fits
  have body : (m.bytes ++ tail).drop 7 = m.body ++ tail := rfl
  refine ⟨leAt_toLE_one target _, leAt_toLE_two tag _, leAt_toLE_one kind _, leAt_toLE_one flags _, leAt_toLE_two length _, ?_, ?_, ?_⟩
  · unfold slice
    rw [body, List.take_left']
    rfl
  · rw [← List.drop_drop, body, List.drop_left']
    rfl
  · have := congrArg List.length body
    rw [List.length_drop, List.length_append, List.length_append] at this
    have header : 7 ≤ m.bytes.length := by
      unfold Message.bytes
      simp only [List.length_append, length_toLE]
      omega
    rw [List.length_append]
    omega

theorem readMessages_end {tail : List Byte} (ends : tail.length < 7 ∨ ∃ b c d rest, tail = [0xFF, b, c, 0xFF, d] ++ rest) (n : Nat) :
    readMessages n tail = [] := by
  cases n with
  | zero => rfl
  | succ n =>
    unfold readMessages
    rcases ends with short | ⟨b, c, d, rest, rfl⟩
    · exact if_pos short
    · have mark : (leAt ([0xFF, b, c, 0xFF, d] ++ rest) 0 1 == 0xFF && leAt ([0xFF, b, c, 0xFF, d] ++ rest) 3 1 == 0xFF) = true := by
        rw [leAt_one, leAt_one]
        rfl
      dsimp only
      rw [if_pos mark]
      exact ite_self _

/-- Messages laid back to back are read back in order (R165). -/
theorem readMessages_bytes {tail : List Byte} (ends : tail.length < 7 ∨ ∃ b c d rest, tail = [0xFF, b, c, 0xFF, d] ++ rest)
    (ms : List Message) : ∀ n, (∀ m ∈ ms, m.fits) → ms.length < n → readMessages n (ms.flatMap Message.bytes ++ tail) = ms := by
  induction ms with
  | nil => exact fun n _ _ => readMessages_end ends n
  | cons m ms ih =>
    intro n fits fuel
    obtain ⟨k, rfl⟩ : ∃ k, n = k + 1 := ⟨n - 1, by omega⟩
    have fit : m.fits := fits m List.mem_cons_self
    rw [List.flatMap_cons, List.append_assoc]
    obtain ⟨target, tag, kind, flags, length, body, rest, whole⟩ := message_reads fit (ms.flatMap Message.bytes ++ tail)
    have open_ : ¬ (m.target == 0xFF && m.kind == 0xFF) = true := by
      intro both
      obtain ⟨t, k⟩ := Bool.and_eq_true_iff.1 both
      exact fit.2.2.2.2.2 ⟨beq_iff_eq.1 t, beq_iff_eq.1 k⟩
    unfold readMessages
    dsimp only
    rw [length, target, kind, if_neg (by omega), if_neg open_, if_neg (by omega), tag, flags, body, rest,
      ih k (fun x inside => fits x (List.mem_cons_of_mem _ inside)) (by simp only [List.length_cons] at fuel; omega)]

theorem foldl_receive (address : Nat) (ms : List Message) (a : Agent) (clear : a.inputDiscarded = false) :
    let own := ms.filter fun m => m.target == address || m.target == 255
    (ms.foldl (Agent.receive address) a).input = a.input ++ own.take (16 - a.input.length) ∧
    (ms.foldl (Agent.receive address) a).inputDiscarded = decide (16 - a.input.length < own.length) := by
  have full (ms : List Message) (a : Agent) (full : 16 ≤ a.input.length) (set : a.inputDiscarded = true) :
      (ms.foldl (Agent.receive address) a).input = a.input ∧ (ms.foldl (Agent.receive address) a).inputDiscarded = true := by
    induction ms generalizing a with
    | nil => exact ⟨rfl, set⟩
    | cons m ms ih =>
      rw [List.foldl_cons]
      unfold Agent.receive
      split
      · rw [if_neg (by show ¬ a.input.length < 16; omega)]
        exact ih _ full rfl
      · exact ih _ full set
  induction ms generalizing a with
  | nil => simp [clear]
  | cons m ms ih =>
    intro own
    by_cases mine : m.target = address ∨ m.target = 255
    · have kept : own = m :: ms.filter fun m => m.target == address || m.target == 255 :=
        List.filter_cons_of_pos (by simpa using mine)
      by_cases room : a.input.length < 16
      · have taken : a.receive address m = { a with input := a.input ++ [m] } := (if_pos mine).trans (if_pos room)
        obtain ⟨input, discarded⟩ := ih { a with input := a.input ++ [m] } clear
        have length : (a.input ++ [m]).length = a.input.length + 1 := List.length_append
        rw [List.foldl_cons, taken, kept, input, discarded, length, List.length_cons,
          show 16 - a.input.length = 16 - (a.input.length + 1) + 1 by omega, List.take_succ_cons, List.append_assoc]
        exact ⟨rfl, decide_eq_decide.2 (by omega)⟩
      · have taken : a.receive address m = { a with inputDiscarded := true } := (if_pos mine).trans (if_neg room)
        obtain ⟨input, discarded⟩ := full ms { a with inputDiscarded := true } (by show 16 ≤ a.input.length; omega) rfl
        rw [List.foldl_cons, taken, kept, input, discarded, show 16 - a.input.length = 0 by omega]
        exact ⟨(List.append_nil _).symm, (decide_eq_true (Nat.succ_pos _)).symm⟩
    · have passed : own = ms.filter fun m => m.target == address || m.target == 255 := List.filter_cons_of_neg (by simpa using mine)
      have untouched : a.receive address m = a := if_neg mine
      rw [List.foldl_cons, untouched, passed]
      exact ih a clear

/-! ## The boundary with the samples formed -/

/-- What a notice placed leaves of the agent. -/
theorem place_form (a : Agent) (e : QueueEntry) (n : Notice) : ∃ returns dropped,
    a.place e n = { a with returns := returns, noticesDropped := dropped } := by
  unfold Agent.place
  repeat' split
  all_goals exact ⟨_, _, rfl⟩

/-- A change of the agent in its return queue and its notices flag only. -/
def Agent.Noticed (a b : Agent) : Prop := ∃ returns dropped, b = { a with returns := returns, noticesDropped := dropped }

theorem Agent.Noticed.refl (a : Agent) : a.Noticed a := ⟨_, _, rfl⟩

theorem Agent.Noticed.trans {a b c : Agent} (first : a.Noticed b) (second : b.Noticed c) : a.Noticed c := by
  obtain ⟨_, _, rfl⟩ := first
  obtain ⟨_, _, rfl⟩ := second
  exact ⟨_, _, rfl⟩

/-- A gate is tested without regard to the agent, of which it changes the notices only. -/
theorem gateTest_agent (p : Play) (a : Agent) (t : Now) (g : LinkGroup) :
    ∃ b, ({ p with agent := a } : Play).gateTest t g = { p.gateTest t g with agent := b } ∧ a.Noticed b := by
  have closed (q : Play) (b : Agent) : ({ q with agent := b } : Play).closeTest t g = { q.closeTest t g with agent := b } := by
    by_cases due : ((q.gate g).state == .opened && ((q.gate g).arrivedSet == (q.gate g).expected || (q.gate g).joinPassed t)) = true
    · have one : ({ q with agent := b } : Play).closeTest t g = ({ q with agent := b } : Play).setGate g (q.gate g).close := if_pos due
      have two : q.closeTest t g = q.setGate g (q.gate g).close := if_pos due
      rw [one, two]
      rfl
    · have one : ({ q with agent := b } : Play).closeTest t g = { q with agent := b } := if_neg due
      have two : q.closeTest t g = q := if_neg due
      rw [one, two]
  have opened : ∃ b, ({ p with agent := a } : Play).openGate t g = { p.openGate t g with agent := b } ∧ a.Noticed b := by
    obtain ⟨regions, form, each⟩ := openGate_form p t g
    obtain ⟨regions', form', each'⟩ := openGate_form { p with agent := a } t g
    have same : regions' = regions := Vector.ext fun i lt => (each' ⟨i, lt⟩).trans (each ⟨i, lt⟩).symm
    rw [form, form', same]
    refine ⟨_, rfl, ?_⟩
    split
    · exact .refl a
    · exact place_form _ _ _
  have state : ({ p with agent := a } : Play).gate g = p.gate g := rfl
  unfold Play.gateTest
  rw [state]
  dsimp only
  split
  · exact ⟨a, rfl, .refl a⟩
  · split
    · exact ⟨a, rfl, .refl a⟩
    · split
      · obtain ⟨b, form, noticed⟩ := opened
        rw [form]
        exact ⟨b, closed _ b, noticed⟩
      · exact ⟨a, rfl, .refl a⟩
  · exact ⟨a, closed p a, .refl a⟩

theorem gateTests_agent (p : Play) (a : Agent) (t : Now) :
    ∃ b, ({ p with agent := a } : Play).gateTests t = { p.gateTests t with agent := b } ∧ a.Noticed b := by
  have fold (l : List LinkGroup) (p : Play) (a : Agent) : ∃ b, l.foldl (fun q g => q.gateTest t g) ({ p with agent := a } : Play) =
      { l.foldl (fun q g => q.gateTest t g) p with agent := b } ∧ a.Noticed b := by
    induction l generalizing p a with
    | nil => exact ⟨a, rfl, .refl a⟩
    | cons g l ih =>
      obtain ⟨b, form, noticed⟩ := gateTest_agent p a t g
      obtain ⟨c, form', noticed'⟩ := ih (p.gateTest t g) b
      rw [List.foldl_cons, form, form', List.foldl_cons]
      exact ⟨c, rfl, noticed.trans noticed'⟩
  exact fold _ p a

/-- The boundary tests leave the voices, the plans, the waiting list, the directory and the log. -/
theorem gateTest_form (p : Play) (t : Now) (g : LinkGroup) : ∃ regions gates agent,
    p.gateTest t g = { p with regions := regions, gates := gates, agent := agent } := by
  have closed (q : Play) : ∃ gates, q.closeTest t g = { q with gates := gates } := by
    unfold Play.closeTest
    dsimp only
    split
    · exact ⟨_, rfl⟩
    · exact ⟨_, rfl⟩
  unfold Play.gateTest
  dsimp only
  split
  · exact ⟨_, _, _, rfl⟩
  · split
    · exact ⟨_, _, _, rfl⟩
    · split
      · obtain ⟨regions, form, -⟩ := openGate_form p t g
        obtain ⟨gates, form'⟩ := closed (p.openGate t g)
        rw [form', form]
        exact ⟨_, _, _, rfl⟩
      · exact ⟨_, _, _, rfl⟩
  · obtain ⟨gates, form⟩ := closed p
    rw [form]
    exact ⟨_, _, _, rfl⟩

theorem gateTests_form (p : Play) (t : Now) : ∃ regions gates agent,
    p.gateTests t = { p with regions := regions, gates := gates, agent := agent } := by
  have fold (l : List LinkGroup) (p : Play) : ∃ regions gates agent,
      l.foldl (fun q g => q.gateTest t g) p = { p with regions := regions, gates := gates, agent := agent } := by
    induction l generalizing p with
    | nil => exact ⟨_, _, _, rfl⟩
    | cons g l ih =>
      obtain ⟨_, _, _, first⟩ := gateTest_form p t g
      obtain ⟨_, _, _, later⟩ := ih (p.gateTest t g)
      rw [List.foldl_cons, later, first]
      exact ⟨_, _, _, rfl⟩
  exact fold _ p

/-- The intake of a frame, and the re-test before it, reach of the on-air blocks the notices only. -/
def IntakeOnly (x y : CueUnit × Play) : Prop := ∃ b, y.2 = { x.2 with agent := b } ∧ x.2.agent.Noticed b

theorem IntakeOnly.refl (x : CueUnit × Play) : IntakeOnly x x := ⟨_, rfl, .refl _⟩

theorem IntakeOnly.trans {x y z : CueUnit × Play} (first : IntakeOnly x y) (second : IntakeOnly y z) : IntakeOnly x z := by
  obtain ⟨b, form, noticed⟩ := first
  obtain ⟨c, form', noticed'⟩ := second
  rw [form] at form' noticed'
  exact ⟨c, form', noticed.trans noticed'⟩

theorem intakeOnly_drop (t : Now) (n : Nat) (why : DropReason) (c : CueRecord) (x : CueUnit × Play) : IntakeOnly x (dropCue t n why c x) :=
  ⟨_, rfl, place_form _ _ _⟩

theorem intakeOnly_enter (t : Now) (n : Nat) (c : PendingCue) (x : CueUnit × Play) : IntakeOnly x (enterCue t n c x) := by
  unfold enterCue
  split
  · exact ⟨_, rfl, .refl _⟩
  · split
    · exact .refl x
    · split
      · exact ⟨_, rfl, place_form _ _ _⟩
      · exact intakeOnly_drop ..

theorem intakeOnly_take (t : Now) (n : Nat) (x : CueUnit × Play) (c : CueRecord) : IntakeOnly x (takeCue t n x c) := by
  unfold takeCue
  split
  · exact intakeOnly_drop ..
  · split
    · exact intakeOnly_drop ..
    · split
      · exact .refl x
      · exact intakeOnly_enter ..

theorem intakeOnly_foldl {α : Type} {f : CueUnit × Play → α → CueUnit × Play} (each : ∀ x c, IntakeOnly x (f x c)) (l : List α)
    (x : CueUnit × Play) : IntakeOnly x (l.foldl f x) := by
  induction l generalizing x with
  | nil => exact .refl x
  | cons c l ih => exact (each x c).trans (ih _)

theorem intakeOnly_intake (t : Now) (n : Nat) (x : CueUnit × Play) : IntakeOnly x (intake t n x) :=
  intakeOnly_foldl (intakeOnly_take t n) x.1.intake x

theorem intakeOnly_retest (t : Now) (n : Nat) (x : CueUnit × Play) : IntakeOnly x (retest t n x) := by
  refine (show IntakeOnly x ({ x.1 with table := [] }, x.2) from ⟨_, rfl, .refl _⟩).trans (intakeOnly_foldl (fun y c => ?_) x.1.table _)
  unfold retestCue
  split
  · exact intakeOnly_drop ..
  · exact ⟨_, rfl, .refl _⟩

theorem takeCues_play (s : State) (f : ProgFrame) : ∃ b, (s.takeCues f).play = { s.play with agent := b } ∧ s.play.agent.Noticed b := by
  unfold State.takeCues
  dsimp only
  have passed : IntakeOnly ({ s.cues with intake := f.cues }, s.play)
      (intake s.now f.seq (if s.link.retest then retest s.now f.seq ({ s.cues with intake := f.cues }, s.play)
        else ({ s.cues with intake := f.cues }, s.play))) := by
    refine IntakeOnly.trans ?_ (intakeOnly_intake _ _ _)
    split
    · exact intakeOnly_retest ..
    · exact .refl _
  exact passed

theorem settle_frame (l : Link) : l.settle.2 = (l.holding.find? fun f => f.seq == l.expected).getD l.substitute := by
  unfold Link.settle
  cases l.holding.find? fun f => f.seq == l.expected <;> rfl

/-- Between two frames the boundary forms the return frame, tests the gates and passes the frame on. -/
theorem boundary_at_end {s : State} (last : s.sample = 48) (unformed : s.returnFormed = false) (calm : s.play.agent.resetPending = none) :
    s.boundary = s.formReturn.boundaryTests.passFrame := by
  have formed : s.withReturn = s.formReturn := by
    unfold State.withReturn
    rw [unformed]
    rfl
  have pending : s.formReturn.play.agent.resetPending = none := by
    show s.play.agent.replySent _ = none
    unfold Agent.replySent
    rw [calm]
  have stays : s.formReturn.resetIfDue = s.formReturn := by
    unfold State.resetIfDue State.resetDue
    rw [pending]
    rfl
  unfold State.boundary
  rw [last]
  show s.withReturn.resetIfDue.boundaryTests.passFrame = _
  rw [formed, stays]

theorem passFrame_play (t : State) : t.passFrame.play =
    { (({ t with link := t.link.settle.1 } : State).takeCues t.link.settle.2).play with
      agent := (({ t with link := t.link.settle.1 } : State).takeCues t.link.settle.2).play.agent.receiveField t.link.settle.1.address
        t.link.settle.2.management
      regions := (({ t with link := t.link.settle.1 } : State).takeCues t.link.settle.2).play.regions.map fun x => { x with out := [] } } := by
  unfold State.passFrame State.openPeriod
  rfl

/-- The on-air blocks at the opening of a period: the gates tested, the messages of the frame taken, the samples of the last frame gone. -/
theorem opened_play (s : State) : ∃ b,
    s.formReturn.boundaryTests.passFrame.play = { s.play.gateTests s.now with
      agent := b.receiveField s.link.address ((s.link.holding.find? fun f => f.seq == s.link.expected).getD s.link.substitute).management
      regions := (s.play.gateTests s.now).regions.map fun x => { x with out := [] } } ∧
    ∃ rest dropped pending, b =
      { s.play.agent with returns := rest, noticesDropped := dropped, inputDiscarded := false, resetPending := pending } := by
  obtain ⟨frame, a, formed, rest, pending, agent⟩ := formReturn_form s
  rw [formed]
  obtain ⟨a', tested, noticed⟩ := gateTests_agent s.play a s.now
  obtain ⟨link, -, -, -, play⟩ := boundaryTests_frame
    { s with returnFrame := some frame, play := { s.play with agent := a }, returnFormed := true }
  generalize State.boundaryTests _ = v at link play ⊢
  have play' : v.play = { s.play.gateTests s.now with agent := a' } := play.trans tested
  have link' : v.link = s.link := link
  clear tested play
  generalize s.play.gateTests s.now = q at play' ⊢
  obtain ⟨b, taken, noticed'⟩ := takeCues_play { v with link := v.link.settle.1 } v.link.settle.2
  rw [passFrame_play, taken]
  dsimp only at noticed' ⊢
  rw [play'] at noticed' ⊢
  rw [link', address_settle, settle_frame]
  refine ⟨b, rfl, ?_⟩
  obtain ⟨_, _, rfl⟩ := noticed
  obtain ⟨_, _, rfl⟩ := noticed'
  rw [agent]
  exact ⟨_, _, _, rfl⟩

/-! ## Settling O10 -/

theorem boundaryTests_levels (s : State) : s.boundaryTests.levels = mapGroups s.levels GroupRec.atBoundary := rfl

/-- The frame period event at the end of a frame, with no return frame formed and no reset due. -/
theorem framePeriodEvent_at_end (s : State) (last : s.sample = 48) (unformed : s.returnFormed = false)
    (calm : s.play.agent.resetPending = none) :
    let a := s.play.agent
    let x := takeEntries 496 a.returns
    let f := (s.link.holding.find? fun f => f.seq == s.link.expected).getD s.link.substitute
    let ms := (readMessages f.management.length f.management).filter fun m => m.target == s.link.address || m.target == 255
    ∃ t, exec .framePeriodEvent s = .next t ∧ t.returnFormed = false ∧
      t.returnFrame = some ⟨a.noticesDropped, a.inputDiscarded, s.play.dir.state == .scanning, s.link.address, s.link.expected, x.1⟩ ∧
      t.play.agent.input = a.input ++ ms.take (16 - a.input.length) ∧
      t.play.agent.inputDiscarded = decide (16 - a.input.length < ms.length) ∧
      t.play.voices = s.play.voices ∧ t.play.plans = s.play.plans ∧ t.play.log = s.play.log ∧ t.play.dir = s.play.dir ∧
      t.play.gates = (s.play.gateTests s.now).gates ∧ t.levels = mapGroups s.levels GroupRec.atBoundary ∧
      ∀ r, t.play.region r = { (s.play.gateTests s.now).region r with out := [] } := by
  intro a x f ms
  obtain ⟨cur, form, -⟩ := settleArray_form s.boundary
  refine ⟨_, (exec_framePeriodEvent s).trans (congrArg Host.Outcome.next form), ?_⟩
  rw [boundary_at_end last unformed calm]
  obtain ⟨b, opened, rest, dropped, pending, noticed⟩ := opened_play s
  dsimp only
  rw [opened]
  have received := foldl_receive s.link.address (readMessages f.management.length f.management) b (by rw [noticed])
  rw [noticed] at received
  obtain ⟨regions, gates, agent, tested⟩ := gateTests_form s.play s.now
  rw [noticed]
  refine ⟨rfl, rfl, received.1, received.2, ?_, ?_, ?_, ?_, rfl, rfl, fun r => ?_⟩
  · rw [tested]
  · rw [tested]
  · rw [tested]
  · rw [tested]
  · simp [Play.region]

/-- Settles O10, part by part. -/
theorem framePeriodEventOpensPeriod : Obligations.FramePeriodEventOpensPeriod := by
  refine ⟨framePeriodEvent_opens, fun s last unformed calm => ?ending, fun f => ⟨length_returnBytes f, rfl⟩, fun p t g waiting => ?waiting,
    fun p t g opened => ?opened, fun ms tail n fits fuel ends => readMessages_bytes ends ms n fits fuel,
    fun s p empty period last => ?egress⟩
  case ending =>
    intro a x f ms
    obtain ⟨whole, within, next_⟩ := takeEntries_spec 496 a.returns
    obtain ⟨t, runs, formed, frame, input, discarded, voices, plans, log, dir, gates, levels, regions⟩ :=
      framePeriodEvent_at_end s last unformed calm
    refine ⟨t, runs, formed, frame, whole, within, next_, input, discarded, voices, plans, log, dir, gates, levels, ?_, ?_, regions⟩
    · rw [levels]
      exact mapGroups_zero _ _
    · intro g target ms above waits
      rw [levels, mapGroups_other _ _ above, atBoundary_eq, waits]
  case waiting =>
    intro x
    refine ⟨fun nobody => ?_, fun some complete => ?_, fun some short early => ?_⟩
    · rw [gateTest_waiting waiting, if_pos nobody]
    · obtain ⟨regions, form, each⟩ := openGate_form p t g
      have tested : p.gateTest t g = (p.openGate t g).setGate g ((p.gate g).openedAt t.count).close := by
        rw [gateTest_waiting waiting, if_neg some, if_pos (.inl complete), closeTest_opened (gate_openGate p t g), if_pos (.inl complete)]
      have complete' : (x.openedAt t.count).arrivedSet = (x.openedAt t.count).expected := complete
      rw [close_complete complete'] at tested
      have gate : (p.gateTest t g).gate g = { x.openedAt t.count with state := .closed } := by
        rw [tested]
        exact (Play.gate_setGate ..).trans (if_pos rfl)
      rw [gate]
      refine ⟨rfl, fun a inside => inside, ?_, fun r => ?_⟩
      · rw [tested, form, if_pos complete]
        rfl
      · rw [tested, form]
        exact each r
    · rw [gateTest_waiting waiting, if_neg some, if_neg (not_or.2 ⟨short, ?_⟩)]
      intro passed
      unfold Gate.deadlinePassed at passed
      split at passed
      · next d deadline =>
        have := early d deadline
        have := of_decide_eq_true passed
        omega
      · cases passed
  case opened =>
    intro x
    have tested : p.gateTest t g = p.closeTest t g := by
      unfold Play.gateTest
      dsimp only
      rw [opened]
    rw [tested]
    unfold Play.closeTest
    refine ⟨fun complete => ?_, fun short early => ?_⟩
    · rw [← close_complete complete]
      exact if_pos (Bool.and_eq_true_iff.2 ⟨beq_iff_eq.2 opened, Bool.or_eq_true_iff.2 (.inl (beq_iff_eq.2 complete))⟩)
    · refine if_neg ?_
      rw [opened, Bool.and_eq_true, Bool.or_eq_true, beq_iff_eq (a := x.arrivedSet)]
      rintro ⟨-, complete | passed⟩
      · exact short complete
      · unfold Gate.joinPassed at passed
        split at passed
        · next d deadline =>
          have := early d deadline
          have := of_decide_eq_true passed
          omega
        · cases passed
  case egress =>
    obtain ⟨cues, play, cur, form, -⟩ := formSample_form period (by omega)
    refine ⟨_, step_idle empty, ?_⟩
    rw [form]
    exact ⟨congrArg (· + 1) last, if_pos (congrArg (· + 1) last)⟩

end Sys2Proof.Machine

/-! # The events of one region -/

namespace Sys2Proof.Machine

/-! ## An event taken by command -/

/-- A region event that is due does its operation, and the sample is settled behind it. -/
theorem event_due {s : State} {due : Bool} (f : Play → Now → Play) (assembling : s.assembling = true) (isDue : due = true) :
    s.event due f = s.after (f s.play s.now) := by
  unfold State.event
  rw [assembling, isDue]
  rfl

/-! ## What an operation of one region leaves -/

/-- Only a region and some voices have changed. -/
structure Within (r : Region) (vs : VoiceNo → Prop) (p q : Play) : Prop where
  regions : ∀ x, x ≠ r → q.region x = p.region x
  voices : ∀ v, ¬ vs v → q.voice v = p.voice v
  plans : q.plans = p.plans
  waiters : q.waiters = p.waiters
  gates : q.gates = p.gates
  dir : q.dir = p.dir
  log : q.log = p.log
  agent : q.agent = p.agent

theorem Within.refl (r : Region) (vs : VoiceNo → Prop) (p : Play) : Within r vs p p :=
  ⟨fun _ _ => rfl, fun _ _ => rfl, rfl, rfl, rfl, rfl, rfl, rfl⟩

theorem Within.trans {r : Region} {vs : VoiceNo → Prop} {p q u : Play} (first : Within r vs p q) (second : Within r vs q u) :
    Within r vs p u where
  regions x other := (second.regions x other).trans (first.regions x other)
  voices v other := (second.voices v other).trans (first.voices v other)
  plans := second.plans.trans first.plans
  waiters := second.waiters.trans first.waiters
  gates := second.gates.trans first.gates
  dir := second.dir.trans first.dir
  log := second.log.trans first.log
  agent := second.agent.trans first.agent

theorem within_setRegion (p : Play) (r : Region) (vs : VoiceNo → Prop) (x : RegionRec) : Within r vs p (p.setRegion r x) :=
  ⟨fun y other => by simp [Ne.symm other], fun _ _ => rfl, rfl, rfl, rfl, rfl, rfl, rfl⟩

theorem within_modVoice (p : Play) (r : Region) (vs : VoiceNo → Prop) {v : VoiceNo} (f : Voice → Voice) (inside : vs v) :
    Within r vs p (p.modVoice v f) := by
  refine ⟨fun _ _ => rfl, fun u outside => ?_, rfl, rfl, rfl, rfl, rfl, rfl⟩
  have other : v ≠ u := fun same => outside (same ▸ inside)
  simp [other]

theorem within_prepare (p : Play) (t : Now) (r : Region) {vs : VoiceNo → Prop} (lead : ∀ v, (p.region r).lead = some v → vs v) :
    Within r vs p (p.prepare t r) := by
  obtain ⟨others, -, -, notLead, plans, waiters, gates, dir, log, agent⟩ := p.prepare_form t r
  exact ⟨others, fun v outside => notLead v fun isLead => outside (lead v isLead), plans, waiters, gates, dir, log, agent⟩

/-! ## The region's record after several changes of it -/

theorem Play.modVoice_setRegion (p : Play) (r : Region) (x : RegionRec) (v : VoiceNo) (f : Voice → Voice) :
    (p.setRegion r x).modVoice v f = (p.modVoice v f).setRegion r x := rfl

theorem Play.modRegion_eq (p : Play) (r : Region) (f : RegionRec → RegionRec) : p.modRegion r f = p.setRegion r (f (p.region r)) := rfl

/-- A change of the break that a region has open. -/
theorem modBreak_of {p : Play} {r : Region} {b : OpenBreak} (f : OpenBreak → OpenBreak) (isOpen : (p.region r).brk = some b) :
    p.modBreak r f = p.setRegion r { p.region r with brk := some (f b) } := by
  simp only [Play.modBreak, Play.modRegion, isOpen, Option.map_some]

theorem withBreak_of {p : Play} {r : Region} {b : OpenBreak} (f : OpenBreak → Play) (isOpen : (p.region r).brk = some b) :
    p.withBreak r f = f b := by
  simp only [Play.withBreak, isOpen]

/-- Staging ahead keeps the region's record but for what its break notes of it. -/
theorem Prepared.region {r : Region} {p q : Play} {b : OpenBreak} (prepared : Prepared r p q) (isOpen : (p.region r).brk = some b) :
    ∃ prep tested, q.region r = { p.region r with brk := some { b with prep := prep, fillerTested := tested } } := by
  obtain ⟨prep, tested, own⟩ := prepared.own
  exact ⟨prep b, tested b, by rw [own, isOpen]; rfl⟩

/-! ## Run entries -/

theorem mem_modEntry {run : List RunEntry} {i : Nat} {f : RunEntry → RunEntry} {x : RunEntry}
    (inside : x ∈ modEntry run i f) (index : x.index = i) : ∃ e ∈ run, e.index = i ∧ x = f e := by
  obtain ⟨e, member, rfl⟩ := List.mem_map.1 inside
  by_cases same : e.index = i
  · exact ⟨e, member, same, by rw [if_pos same]⟩
  · rw [if_neg same] at index
    exact absurd index same

/-- The break once one of its entries has started. -/
def OpenBreak.entryStarted (b : OpenBreak) (t : Now) (i : Nat) : OpenBreak :=
  { b with
    run := modEntry b.run i fun e => e.started t (isFirstKept b.run i && 0 < b.lateStart)
    itemsAired := b.itemsAired + 1 }

theorem startEntry_of {p : Play} {r : Region} {b : OpenBreak} (t : Now) (i : Nat) (isOpen : (p.region r).brk = some b) :
    p.startEntry t r i = p.setRegion r { p.region r with brk := some (b.entryStarted t i) } := modBreak_of _ isOpen

theorem mem_entryStarted {b : OpenBreak} {t : Now} {i : Nat} {x : RunEntry} (inside : x ∈ (b.entryStarted t i).run)
    (index : x.index = i) : ∃ e ∈ b.run, e.index = i ∧ ∃ late, x = e.started t late := by
  obtain ⟨e, member, same, rfl⟩ := mem_modEntry inside index
  exact ⟨e, member, same, _, rfl⟩

/-! ## Starts -/

theorem noteStart_of {p : Play} {r : Region} {b : OpenBreak} (t : Now) (out : Option VoiceNo) (isOpen : (p.region r).brk = some b) :
    ∃ before, p.noteStart t r out = p.setRegion r { p.region r with brk := some { b with before := before } } := by
  unfold Play.noteStart
  rw [modBreak_of _ isOpen]
  split
  · exact ⟨b.before, rfl⟩
  · exact ⟨_, rfl⟩

/-- The start of a held entry: the region in LOCAL with the bed cut, the entry started, and the lead voice PLAYING. -/
theorem startHeld_spec {p : Play} {r : Region} {b : OpenBreak} {v : VoiceNo} {e : RunEntry} (t : Now) (skip : Nat)
    (isOpen : (p.region r).brk = some b) (lead : (p.region r).lead = some v) (next : nextPending b.run = some e) :
    (∃ before prep tested, (p.startHeld t r skip).region r = { p.region r with
      state := .localPlay, arriving := none, opening := none, bed := ⟨0, none⟩,
      brk := some { b.entryStarted t e.index with before := before, prep := prep, fillerTested := tested } }) ∧
    (∃ u pend, (p.startHeld t r skip).voice v = { (p.voice v).start t.count skip with successor := u, pending := pend }) ∧
    Within r (· = v) p (p.startHeld t r skip) := by
  obtain ⟨before, noted⟩ := noteStart_of t none isOpen
  let x : RegionRec := { p.region r with
    state := .localPlay, arriving := none, opening := none, bed := ⟨0, none⟩,
    brk := some ({ b with before := before, prep := .none }.entryStarted t e.index) }
  have shape : p.startHeld t r skip = ((p.modVoice v fun y => y.start t.count skip).setRegion r x).prepare t r := by
    unfold Play.startHeld
    rw [withBreak_of _ isOpen, lead, next]
    dsimp only
    rw [noted, Play.modVoice_setRegion, Play.modRegion_eq, Play.setRegion_setRegion, Play.region_setRegion, if_pos rfl, Play.setPrep,
      modBreak_of _ (by rw [Play.region_setRegion, if_pos rfl]), Play.setRegion_setRegion, startEntry_of (b := { b with
        before := before, prep := .none }) t _ (by rw [Play.region_setRegion, if_pos rfl]), Play.setRegion_setRegion]
    simp only [Play.region_setRegion, if_true]
    rfl
  rw [shape]
  have prepared := ((p.modVoice v fun y => y.start t.count skip).setRegion r x).prepare_form t r
  refine ⟨?_, ?_, ?_⟩
  · obtain ⟨prep, tested, own⟩ := prepared.region (b := { b with before := before, prep := .none }.entryStarted t e.index) (by simp [x])
    exact ⟨before, prep, tested, by rw [own]; simp [x, OpenBreak.entryStarted]⟩
  · obtain ⟨u, pend, own⟩ := prepared.voices v
    exact ⟨u, pend, by rw [own]; simp⟩
  · refine ((within_modVoice p r (· = v) _ rfl).trans (within_setRegion _ r _ x)).trans (within_prepare _ t r fun u isLead => ?_)
    simp only [Play.region_setRegion, if_true, x, lead, Option.some.injEq] at isLead
    exact isLead.symm

/-- The incoming voice of a mix as it starts. -/
def Voice.mixedIn (x : Voice) (count level ms : Nat) : Voice :=
  { x with fader := (Fader.still 0).begin level ms, releaseAtRampEnd := false }.start count 0

/-- A crossfade: the incoming voice leads and ramps in, the outgoing one ramps out and plays on, and the entry has started. -/
theorem crossfade_spec {p : Play} {r : Region} {b : OpenBreak} (t : Now) (out v : VoiceNo) (e : RunEntry) (ms : Nat)
    (isOpen : (p.region r).brk = some b) :
    (∃ before prep tested, (p.crossfade t r out v e ms).region r = { p.region r with
      lead := some v
      brk := some { b.entryStarted t e.index with before := before, prep := prep, fillerTested := tested, mixLate := false } }) ∧
    (∃ u pend, (p.crossfade t r out v e ms).voice v = { (p.voice v).mixedIn t.count e.level ms with successor := u, pending := pend }) ∧
    (out ≠ v → (p.crossfade t r out v e ms).voice out =
      { p.voice out with fader := (p.voice out).fader.begin 0 ms, releaseAtRampEnd := false }) ∧
    Within r (fun u => u = v ∨ u = out) p (p.crossfade t r out v e ms) := by
  obtain ⟨before, noted⟩ := noteStart_of t (some out) isOpen
  let x : RegionRec := { p.region r with
    lead := some v, brk := some ({ b with before := before, prep := .none, mixLate := false }.entryStarted t e.index) }
  let q := (p.modVoice out fun y => { y with fader := y.fader.begin 0 ms, releaseAtRampEnd := false }).modVoice v fun y =>
    y.mixedIn t.count e.level ms
  have shape : p.crossfade t r out v e ms = (q.setRegion r x).prepare t r := by
    unfold Play.crossfade
    rw [noted, Play.modVoice_setRegion, Play.modVoice_setRegion, Play.setLead, Play.modRegion_eq, Play.setRegion_setRegion,
      Play.region_setRegion, if_pos rfl, modBreak_of _ (by rw [Play.region_setRegion, if_pos rfl]), Play.setRegion_setRegion,
      startEntry_of (b := { b with before := before, prep := .none, mixLate := false }) t _
        (by rw [Play.region_setRegion, if_pos rfl]), Play.setRegion_setRegion]
    simp only [Play.region_setRegion, if_true]
    rfl
  rw [shape]
  have prepared := (q.setRegion r x).prepare_form t r
  refine ⟨?_, ?_, fun apart => ?_, ?_⟩
  · obtain ⟨prep, tested, own⟩ := prepared.region (b := { b with before := before, prep := .none, mixLate := false }.entryStarted t e.index)
      (by simp [x])
    exact ⟨before, prep, tested, by rw [own]; simp [x, OpenBreak.entryStarted]⟩
  · obtain ⟨u, pend, own⟩ := prepared.voices v
    refine ⟨u, pend, ?_⟩
    rw [own]
    by_cases same : out = v
    · subst same; simp [q, Voice.mixedIn]
    · simp [q, same]
  · rw [prepared.notLead out (by simp [x, Ne.symm apart])]
    simp [q, Ne.symm apart]
  · have voices : Within r (fun u => u = v ∨ u = out) p q :=
      (within_modVoice p r _ _ (.inr rfl)).trans (within_modVoice _ r _ _ (.inl rfl))
    refine (voices.trans (within_setRegion _ r _ x)).trans (within_prepare _ t r fun u isLead => ?_)
    simp only [Play.region_setRegion, if_true, x, Option.some.injEq] at isLead
    exact .inl isLead.symm

/-- The start of a late entry after a gap: its voice leads at the entry's own level, and the entry has started. -/
theorem plainStart_spec {p : Play} {r : Region} {b : OpenBreak} (t : Now) (v : VoiceNo) (e : RunEntry)
    (isOpen : (p.region r).brk = some b) :
    (∃ before prep tested, (p.plainStart t r v e).region r = { p.region r with
      lead := some v
      brk := some { b.entryStarted t e.index with before := before, prep := prep, fillerTested := tested, mixLate := false } }) ∧
    (∃ u pend, (p.plainStart t r v e).voice v =
      { { p.voice v with fader := .still e.level }.start t.count 0 with successor := u, pending := pend }) ∧
    Within r (· = v) p (p.plainStart t r v e) := by
  obtain ⟨before, noted⟩ := noteStart_of t none isOpen
  let x : RegionRec := { p.region r with
    lead := some v, brk := some ({ b with before := before, prep := .none, mixLate := false }.entryStarted t e.index) }
  have shape : p.plainStart t r v e =
      ((p.modVoice v fun y => { y with fader := .still e.level }.start t.count 0).setRegion r x).prepare t r := by
    unfold Play.plainStart
    rw [noted, Play.modVoice_setRegion, Play.setLead, Play.modRegion_eq, Play.setRegion_setRegion, Play.region_setRegion, if_pos rfl,
      modBreak_of _ (by rw [Play.region_setRegion, if_pos rfl]), Play.setRegion_setRegion,
      startEntry_of (b := { b with before := before, prep := .none, mixLate := false }) t _
        (by rw [Play.region_setRegion, if_pos rfl]), Play.setRegion_setRegion]
    simp only [Play.region_setRegion, if_true]
    rfl
  rw [shape]
  have prepared := ((p.modVoice v fun y => { y with fader := .still e.level }.start t.count 0).setRegion r x).prepare_form t r
  refine ⟨?_, ?_, ?_⟩
  · obtain ⟨prep, tested, own⟩ := prepared.region (b := { b with before := before, prep := .none, mixLate := false }.entryStarted t e.index)
      (by simp [x])
    exact ⟨before, prep, tested, by rw [own]; simp [x, OpenBreak.entryStarted]⟩
  · obtain ⟨u, pend, own⟩ := prepared.voices v
    exact ⟨u, pend, by rw [own]; simp⟩
  · refine ((within_modVoice p r (· = v) _ rfl).trans (within_setRegion _ r _ x)).trans (within_prepare _ t r fun u isLead => ?_)
    simp only [Play.region_setRegion, if_true, x, Option.some.injEq] at isLead
    exact isLead.symm

/-- What a voice is once it has started. -/
theorem start_fields (v : Voice) (count skip : Nat) : (v.start count skip).state = .playing ∧ (v.start count skip).fader = v.fader ∧
    (v.start count skip).pos = v.pos + skip ∧ (v.start count skip).endPos = v.endPos ∧
    (v.start count skip).startedAt = some count := by
  obtain ⟨ring, pend, form⟩ := v.start_form count skip
  rw [form]
  exact ⟨rfl, rfl, rfl, rfl, rfl⟩

/-! ## Mixes -/

/-- A region that moves from entry to entry. -/
theorem moving_some {p : Play} {r : Region} {b : OpenBreak} {lead : VoiceNo} {e : RunEntry} (moves : p.moving r = some (b, lead, e)) :
    (p.region r).brk = some b ∧ (p.region r).lead = some lead ∧ (p.voice lead).state = .playing ∧ nextPending b.run = some e ∧
      ((p.region r).state = .leadin ∨ (p.region r).state = .localPlay) := by
  unfold Play.moving at moves
  split at moves
  · rename_i c v isOpen isLead
    split at moves
    · rename_i active
      simp only [Bool.and_eq_true, Bool.or_eq_true, beq_iff_eq] at active
      obtain ⟨f, next, found⟩ := Option.map_eq_some_iff.1 moves
      cases found
      exact ⟨isOpen, isLead, active.2, next, active.1⟩
    · cases moves
  · cases moves

/-- The samples that the outgoing entry of a late mix has left. -/
def Play.outgoingLeft (p : Play) (r : Region) : Nat := match (p.region r).lead with
  | some o => if (p.voice o).state == .playing then (p.voice o).remaining else 0
  | none => 0

/-- The break once its next entry is marked as a late mix over what is left. -/
def OpenBreak.mixedLate (b : OpenBreak) (i left : Nat) : OpenBreak :=
  { b with run := modEntry b.run i fun e => { e with overlap := left, flags := { e.flags with lateMix := true } } }

/-- A late start is a crossfade over what the outgoing entry has left, and without any left a plain start. -/
theorem lateMixStart_eq {p : Play} {r : Region} {b : OpenBreak} {v : VoiceNo} {e : RunEntry} (t : Now)
    (isOpen : (p.region r).brk = some b) (incoming : b.incoming = some v) (next : nextPending b.run = some e) :
    p.lateMixStart t r =
      let q := p.setRegion r { p.region r with brk := some (b.mixedLate e.index (p.outgoingLeft r)) }
      match (p.region r).lead with
      | some o => if 0 < p.outgoingLeft r then q.crossfade t r o v e (p.outgoingLeft r / 48) else q.plainStart t r v e
      | none => q.plainStart t r v e := by
  unfold Play.lateMixStart
  rw [withBreak_of _ isOpen, incoming, next]
  dsimp only
  rw [modBreak_of _ isOpen]
  rfl

theorem mem_mixedLate_started {b : OpenBreak} {t : Now} {i left : Nat} {x : RunEntry}
    (inside : x ∈ ((b.mixedLate i left).entryStarted t i).run) (index : x.index = i) :
    x.status = .playing ∧ x.overlap = left ∧ x.flags.lateMix = true := by
  obtain ⟨f, member, same, late, rfl⟩ := mem_entryStarted inside index
  obtain ⟨e, -, -, rfl⟩ := mem_modEntry member same
  exact ⟨rfl, rfl, rfl⟩

/-- A late start, whichever it is: the incoming voice leads and plays, and nothing else of another region changes. -/
theorem lateMixStart_spec {p : Play} {r : Region} {b : OpenBreak} {v : VoiceNo} {e : RunEntry} (t : Now)
    (isOpen : (p.region r).brk = some b) (incoming : b.incoming = some v) (next : nextPending b.run = some e) :
    ((p.lateMixStart t r).region r).lead = some v ∧ ((p.lateMixStart t r).voice v).state = .playing ∧
    (∀ q, q ≠ r → (p.lateMixStart t r).region q = p.region q) ∧ (p.lateMixStart t r).log = p.log ∧
    (∃ b', ((p.lateMixStart t r).region r).brk = some b' ∧ b'.run = ((b.mixedLate e.index (p.outgoingLeft r)).entryStarted t e.index).run) ∧
    (∀ o, (p.region r).lead = some o → o ≠ v → 0 < p.outgoingLeft r →
      ((p.lateMixStart t r).voice v).fader = (⟨0, none⟩ : Fader).begin e.level (p.outgoingLeft r / 48) ∧
      (p.lateMixStart t r).voice o =
        { p.voice o with fader := (p.voice o).fader.begin 0 (p.outgoingLeft r / 48), releaseAtRampEnd := false }) ∧
    ((p.region r).lead = none → ((p.lateMixStart t r).voice v).fader = ⟨e.level, none⟩) := by
  let x : RegionRec := { p.region r with brk := some (b.mixedLate e.index (p.outgoingLeft r)) }
  have shape : p.lateMixStart t r = match (p.region r).lead with
      | some o =>
        if 0 < p.outgoingLeft r then (p.setRegion r x).crossfade t r o v e (p.outgoingLeft r / 48)
        else (p.setRegion r x).plainStart t r v e
      | none => (p.setRegion r x).plainStart t r v e := lateMixStart_eq t isOpen incoming next
  have record : ((p.setRegion r x).region r).brk = some (b.mixedLate e.index (p.outgoingLeft r)) := by simp [x]
  obtain ⟨⟨before, prep, tested, plainRegion⟩, ⟨u, pend, plainVoice⟩, plainWithin⟩ := plainStart_spec (p := p.setRegion r x) t v e record
  have plain : p.lateMixStart t r = (p.setRegion r x).plainStart t r v e →
      ((p.lateMixStart t r).region r).lead = some v ∧ ((p.lateMixStart t r).voice v).state = .playing ∧
      (∀ q, q ≠ r → (p.lateMixStart t r).region q = p.region q) ∧ (p.lateMixStart t r).log = p.log ∧
      (∃ b', ((p.lateMixStart t r).region r).brk = some b' ∧
        b'.run = ((b.mixedLate e.index (p.outgoingLeft r)).entryStarted t e.index).run) ∧
      ((p.lateMixStart t r).voice v).fader = ⟨e.level, none⟩ := by
    intro isPlain
    obtain ⟨state, fader, -, -, -⟩ := start_fields { p.voice v with fader := .still e.level } t.count 0
    rw [isPlain]
    exact ⟨by rw [plainRegion], by rw [plainVoice]; exact state,
      fun q other => (plainWithin.regions q other).trans (by simp [Ne.symm other]), plainWithin.log, ⟨_, congrArg RegionRec.brk plainRegion, rfl⟩,
      by rw [plainVoice]; exact fader⟩
  cases isLead : (p.region r).lead with
  | none =>
    rw [isLead] at shape
    obtain ⟨lead, state, regions, log, run, fader⟩ := plain shape
    exact ⟨lead, state, regions, log, run, nofun, fun _ => fader⟩
  | some o =>
    rw [isLead] at shape
    dsimp only at shape
    by_cases some_left : 0 < p.outgoingLeft r
    · rw [if_pos some_left] at shape
      obtain ⟨⟨before, prep, tested, region⟩, ⟨u, pend, voice⟩, out, within⟩ :=
        crossfade_spec (p := p.setRegion r x) t o v e (p.outgoingLeft r / 48) record
      obtain ⟨state, fader, -, -, -⟩ := start_fields
        { p.voice v with fader := (Fader.still 0).begin e.level (p.outgoingLeft r / 48), releaseAtRampEnd := false } t.count 0
      rw [shape]
      refine ⟨by rw [region], by rw [voice]; exact state, fun q other => (within.regions q other).trans (by simp [Ne.symm other]),
        within.log, ⟨_, congrArg RegionRec.brk region, rfl⟩, fun w same apart _ => ?_, nofun⟩
      cases same
      exact ⟨by rw [voice]; exact fader, out apart⟩
    · rw [if_neg some_left] at shape
      obtain ⟨lead, state, regions, log, run, -⟩ := plain shape
      exact ⟨lead, state, regions, log, run, fun _ _ _ left => absurd left some_left, nofun⟩

/-- Settles O25: the crossfade and the plain start, in time and late. -/
theorem mixesStart : Obligations.MixesStart := by
  unfold Obligations.MixesStart
  refine ⟨fun s r b lead v e assembling due moves incoming apart => ⟨fun notReady => ?_, fun ready => ?_⟩,
    fun s r b v e assembling due isOpen incoming next => ?_⟩
  · obtain ⟨isOpen, -, -, -, -⟩ := moving_some moves
    show Host.Outcome.next (s.event _ _) = _
    rw [event_due _ assembling due]
    simp only [Play.mixStart, moves, incoming, beq_iff_eq, notReady, if_false]
    rw [modBreak_of _ isOpen]
  · obtain ⟨isOpen, -, -, -, -⟩ := moving_some moves
    obtain ⟨⟨before, prep, tested, region⟩, ⟨u, pend, voice⟩, out, within⟩ :=
      crossfade_spec (p := s.play) s.now lead v e (e.overlap / 48) isOpen
    have shape : s.play.mixStart s.now r = s.play.crossfade s.now r lead v e (e.overlap / 48) := by
      simp only [Play.mixStart, moves, incoming, ready, beq_self_eq_true, if_true]
    obtain ⟨state, fader, pos, -, -⟩ := start_fields
      { s.play.voice v with fader := (Fader.still 0).begin e.level (e.overlap / 48), releaseAtRampEnd := false } s.link.count 0
    refine ⟨s.play.mixStart s.now r, congrArg _ (event_due _ assembling due), ?_⟩
    rw [shape]
    refine ⟨by rw [region], by rw [voice]; exact state, by rw [voice]; exact fader, by rw [voice]; exact pos,
      out (Ne.symm apart), ⟨_, by rw [region], rfl, fun x inside index => ?_⟩, ?_, within.regions, within.log⟩
    · obtain ⟨f, -, -, late, rfl⟩ := mem_entryStarted inside index
      exact ⟨rfl, rfl⟩
    · exact fun w notIn notOut => within.voices w (not_or.2 ⟨notIn, notOut⟩)
  · obtain ⟨lead, state, regions, log, ⟨b', isOpen', run⟩, mix, plain⟩ := lateMixStart_spec s.now isOpen incoming next
    refine ⟨s.play.lateMixStart s.now r, congrArg _ (event_due _ assembling due), lead, state, regions, log,
      fun o isLead apart playing room => ?_, fun gap => ⟨plain gap, b', isOpen', fun x inside index => ?_⟩⟩
    · have left : s.play.outgoingLeft r = (s.play.voice o).endPos - (s.play.voice o).pos := by
        simp only [Play.outgoingLeft, isLead, playing, beq_self_eq_true, if_true, Voice.remaining]
      obtain ⟨fader, out⟩ := mix o isLead apart (by omega)
      rw [left] at fader out
      refine ⟨fader, by rw [out], by rw [out], b', isOpen', fun x inside index => ?_⟩
      have entry := mem_mixedLate_started (run ▸ inside) index
      rwa [left] at entry
    · have entry := mem_mixedLate_started (run ▸ inside) index
      rwa [show s.play.outgoingLeft r = 0 by simp only [Play.outgoingLeft, gap]] at entry

/-! ## Gate openings and the filler -/

/-- The held entry of a region has started. -/
def HeldFrom (p : Play) (t : Now) (r : Region) (q : Play) : Prop :=
  ∀ b v e, (p.region r).brk = some b → (p.region r).lead = some v → nextPending b.run = some e →
    (q.region r).state = .localPlay ∧ (q.region r).bed = ⟨0, none⟩ ∧ (q.voice v).state = .playing ∧
      (q.region r).lead = some v ∧
      ∃ b', (q.region r).brk = some b' ∧ b'.itemsAired = b.itemsAired + 1 ∧
        ∀ x ∈ b'.run, x.index = e.index → x.status = .playing ∧ x.start = some t.pos

theorem heldStarted_iff (s : State) (r : Region) (q : Play) : HeldStarted s r q ↔ HeldFrom s.play s.now r q := Iff.rfl

/-- A held start starts its own region's entry, leaves the other regions, and stops no voice. -/
theorem startHeld_starts (p : Play) (t : Now) (r : Region) : HeldFrom p t r (p.startHeld t r 0) ∧
    (∀ q, q ≠ r → (p.startHeld t r 0).region q = p.region q) ∧
    ∀ u, (p.voice u).state = .playing → ((p.startHeld t r 0).voice u).state = .playing := by
  by_cases ready : ∃ b v e, (p.region r).brk = some b ∧ (p.region r).lead = some v ∧ nextPending b.run = some e
  · obtain ⟨b, v, e, isOpen, lead, next⟩ := ready
    obtain ⟨⟨before, prep, tested, region⟩, ⟨u, pend, voice⟩, within⟩ := startHeld_spec t 0 isOpen lead next
    have playing : ((p.startHeld t r 0).voice v).state = .playing := by rw [voice]; exact (start_fields _ _ _).1
    refine ⟨fun b' v' e' isOpen' lead' next' => ?_, within.regions, fun w active => ?_⟩
    · cases isOpen.symm.trans isOpen'
      cases lead.symm.trans lead'
      cases next.symm.trans next'
      refine ⟨by rw [region], by rw [region], playing, by rw [region]; exact lead, _, by rw [region], rfl, fun x inside index => ?_⟩
      obtain ⟨f, -, -, late, rfl⟩ := mem_entryStarted inside index
      exact ⟨rfl, rfl⟩
    · by_cases same : w = v
      · rw [same]; exact playing
      · rw [within.voices w same]; exact active
  · have stays : p.startHeld t r 0 = p := by
      unfold Play.startHeld Play.withBreak
      split
      · rfl
      · rename_i b isOpen
        dsimp only
        split
        · rename_i v e lead next
          exact absurd ⟨b, v, e, isOpen, lead, next⟩ ready
        · rfl
    rw [stays]
    exact ⟨fun b v e isOpen lead next => absurd ⟨b, v, e, isOpen, lead, next⟩ ready, fun _ _ => rfl, fun _ active => active⟩

/-- The starts that a gate has given to the regions of a list. -/
theorem openRegions_starts (t : Now) (g : LinkGroup) (l : List Region) (distinct : l.Nodup) (p : Play) :
    let q := l.foldl (fun q r => if q.openingDue t r g then q.startHeld t r 0 else q) p
    (∀ r ∈ l, p.openingDue t r g = true → HeldFrom p t r q) ∧
    (∀ r, r ∉ l ∨ p.openingDue t r g = false → q.region r = p.region r) ∧
    ∀ u, (p.voice u).state = .playing → (q.voice u).state = .playing := by
  induction l generalizing p with
  | nil => exact ⟨nofun, fun _ _ => rfl, fun _ active => active⟩
  | cons r l ih =>
    obtain ⟨fresh, distinct⟩ := List.nodup_cons.1 distinct
    obtain ⟨held, others, voices⟩ := startHeld_starts p t r
    have stay : ∀ {p q : Play} {x : Region}, q.region x = p.region x → q.openingDue t x g = p.openingDue t x g := by
      intro p q x same
      unfold Play.openingDue
      rw [same]
    rw [List.foldl_cons]
    by_cases due : p.openingDue t r g = true
    · rw [if_pos due]
      obtain ⟨starts, keeps, plays⟩ := ih distinct (p.startHeld t r 0)
      refine ⟨fun x inside isDue => ?_, fun x out => ?_, fun u active => plays u (voices u active)⟩
      · rcases List.mem_cons.1 inside with rfl | inside
        · intro b v e isOpen lead next
          obtain ⟨state, bed, playing, leads, started⟩ := held b v e isOpen lead next
          have same := keeps x (.inl fresh)
          exact ⟨by rw [same]; exact state, by rw [same]; exact bed, plays v playing, by rw [same]; exact leads,
            by rw [same]; exact started⟩
        · have other : x ≠ r := fun same => fresh (same ▸ inside)
          have from' := starts x inside ((stay (others x other)).trans isDue)
          unfold HeldFrom at from' ⊢
          rwa [others x other] at from'
      · have other : x ≠ r := by
          rintro rfl
          rcases out with outside | off
          · exact outside List.mem_cons_self
          · rw [due] at off; cases off
        refine (keeps x ?_).trans (others x other)
        exact out.imp (fun outside inside => outside (List.mem_cons_of_mem _ inside)) fun off => (stay (others x other)).trans off
    · rw [if_neg due]
      obtain ⟨starts, keeps, plays⟩ := ih distinct p
      refine ⟨fun x inside isDue => ?_, fun x out => ?_, plays⟩
      · rcases List.mem_cons.1 inside with rfl | inside
        · exact absurd isDue due
        · exact starts x inside isDue
      · exact keeps x (out.imp_left fun outside inside => outside (List.mem_cons_of_mem _ inside))

/-- Settles O23: the starts of a gate fold over the regions; a primed entry and the filler are one start each. -/
theorem heldAndFillerStarts : Obligations.HeldAndFillerStarts := by
  unfold Obligations.HeldAndFillerStarts
  refine ⟨⟨fun s g assembling due => ?_, fun s r assembling due => ?_⟩, fun s r v assembling due lead => ?_⟩
  · obtain ⟨r, due⟩ := due
    obtain ⟨starts, keeps, -⟩ := openRegions_starts s.now g allRegions (by decide) s.play
    refine ⟨s.play.openRegions s.now g, congrArg _ (event_due _ assembling (List.any_eq_true.2 ⟨r, mem_allRegions r, due⟩)), fun x => ?_⟩
    exact ⟨fun isDue => starts x (mem_allRegions x) isDue, fun off => keeps x (.inr off)⟩
  · obtain ⟨held, others, -⟩ := startHeld_starts s.play s.now r
    exact ⟨s.play.startHeld s.now r 0, congrArg _ (event_due _ assembling due), held, others⟩
  · have fill : (s.play.region r).state = .fill := by
      unfold Play.fillerDue at due
      simp only [Bool.and_eq_true, beq_iff_eq] at due
      exact due.1.2
    have shape : s.play.fillerStart s.now r = (s.play.modVoice v fun x => x.start s.now.count 0).setPrep r .none := by
      simp only [Play.fillerStart, lead]
    obtain ⟨state, -, pos, -, startedAt⟩ := start_fields (s.play.voice v) s.link.count 0
    have within : Within r (· = v) s.play (s.play.fillerStart s.now r) := by
      rw [shape]
      exact (within_modVoice _ r (· = v) _ rfl).trans (within_setRegion _ r _ _)
    have voice : (s.play.fillerStart s.now r).voice v = (s.play.voice v).start s.link.count 0 := by
      rw [shape]
      simp only [Play.setPrep, Play.modBreak, Play.voice_modRegion, Play.voice_modVoice, if_true]
      rfl
    refine ⟨s.play.fillerStart s.now r, congrArg _ (event_due _ assembling due), by rw [voice]; exact state, by rw [voice]; exact pos,
      by rw [voice]; exact startedAt, ?_, within.voices, within.regions, within.log⟩
    rw [shape]
    simp only [Play.setPrep, Play.modBreak, Play.region_modRegion, Play.region_modVoice, if_true]
    exact fill

end Sys2Proof.Machine

/-! # The start of lead-in, and the disarm of a region -/

namespace Sys2Proof.Machine

/-! ## Lead-in -/

/-- A ramp is complete at its start where it takes no time or no step. -/
theorem begin_done (f : Fader) (target ms : Nat) : (f.begin target ms).ramp = none ↔ ms = 0 ∨ f.level = target := by
  unfold Fader.begin
  dsimp only
  split
  · rename_i still
    exact ⟨fun _ => by omega, fun _ => rfl⟩
  · rename_i moves
    exact ⟨nofun, fun still => absurd (by omega) moves⟩

/-- The break as lead-in begins. -/
def OpenBreak.leadIn (b : OpenBreak) (t : Now) : OpenBreak :=
  { b with leadInStart := some t.pos, lateStart := match b.split with | some x => t.count - x.count | none => 0 }

/-- A region that arrives at a gate. -/
theorem arrive_of {p : Play} {r : Region} {b : OpenBreak} (g : LinkGroup) (isOpen : (p.region r).brk = some b) :
    p.arrive r g = p.setRegion r { p.region r with
      state := .gated, arriving := some g, bed := (p.region r).bed.begin (p.region r).config.duckLevel (p.heldPlan r b).leadInMs,
      brk := some { b with prep := .none } } := by
  unfold Play.arrive
  rw [withBreak_of _ isOpen, Play.modRegion_eq, Play.setPrep, modBreak_of (b := b) _ (by rw [Play.region_setRegion, if_pos rfl]; exact isOpen),
    Play.setRegion_setRegion, Play.region_setRegion, if_pos rfl]

/-- A lead-in whose first kept entry waits for a gate. -/
theorem leadInStart_held {p : Play} {r : Region} {b : OpenBreak} {e : RunEntry} {g : LinkGroup} (t : Now)
    (isOpen : (p.region r).brk = some b) (next : nextPending b.run = some e) (linked : p.linkedTo r e = some g) :
    p.leadInStart t r = p.setRegion r { p.region r with
      lead := some (homeVoice r), state := .gated, arriving := some g
      bed := (p.region r).bed.begin (p.region r).config.duckLevel (p.heldPlan r b).leadInMs
      brk := some { b.leadIn t with prep := .none } } := by
  unfold Play.leadInStart
  rw [withBreak_of _ isOpen, next]
  dsimp only
  rw [linked]
  dsimp only
  rw [modBreak_of _ isOpen, Play.setLead, Play.modRegion_eq, Play.setRegion_setRegion, Play.region_setRegion, if_pos rfl,
    arrive_of (b := b.leadIn t) g (by rw [Play.region_setRegion, if_pos rfl]; rfl), Play.setRegion_setRegion, Play.region_setRegion,
    if_pos rfl]
  rfl

/-- A lead-in without a kept entry: the filler starts. -/
theorem leadInStart_filler {p : Play} {r : Region} {b : OpenBreak} (t : Now) (isOpen : (p.region r).brk = some b)
    (next : nextPending b.run = none) (active : (p.voice (homeVoice r)).active = true) :
    p.leadInStart t r = (p.modVoice (homeVoice r) fun x => x.start t.count 0).setRegion r { p.region r with
      lead := some (homeVoice r), state := .fill, bed := (p.region r).bed.begin 0 (p.heldPlan r b).leadInMs, brk := some (b.leadIn t) } := by
  unfold Play.leadInStart
  rw [withBreak_of _ isOpen, next]
  dsimp only
  rw [if_pos active, modBreak_of _ isOpen, Play.setLead, Play.modRegion_eq, Play.setRegion_setRegion, Play.modVoice_setRegion, Play.setBed,
    Play.modRegion_eq, Play.setRegion_setRegion, Play.setState, Play.modRegion_eq, Play.setRegion_setRegion]
  simp only [Play.region_setRegion, if_true]
  rfl

/-- A lead-in whose first kept entry starts: the home voice leads and plays it, and the bed ramps to 0. -/
theorem leadInStart_spec {p : Play} {r : Region} {b : OpenBreak} {e : RunEntry} (t : Now) (isOpen : (p.region r).brk = some b)
    (state : (p.region r).state = .leadin) (next : nextPending b.run = some e) (free : p.linkedTo r e = none) :
    let bed := (p.region r).bed.begin 0 (p.heldPlan r b).leadInMs
    (∃ prep tested, (p.leadInStart t r).region r = { p.region r with
      lead := some (homeVoice r), bed := bed, state := if bed.ramp.isNone then .localPlay else .leadin
      brk := some { (b.leadIn t).entryStarted t e.index with prep := prep, fillerTested := tested } }) ∧
    (∃ u pend, (p.leadInStart t r).voice (homeVoice r) =
      { (p.voice (homeVoice r)).startFirst t e with successor := u, pending := pend }) ∧
    Within r (· = homeVoice r) p (p.leadInStart t r) := by
  intro bed
  let x : RegionRec := { p.region r with
    lead := some (homeVoice r), bed := bed, state := if bed.ramp.isNone then .localPlay else .leadin
    brk := some ((b.leadIn t).entryStarted t e.index) }
  have shape : p.leadInStart t r = ((p.modVoice (homeVoice r) fun y => y.startFirst t e).setRegion r x).prepare t r := by
    unfold Play.leadInStart
    rw [withBreak_of _ isOpen, next]
    dsimp only
    rw [free]
    dsimp only
    rw [modBreak_of _ isOpen, Play.setLead, Play.modRegion_eq, Play.setRegion_setRegion, Play.modVoice_setRegion,
      startEntry_of (b := b.leadIn t) t _ (by rw [Play.region_setRegion, if_pos rfl]; simp only [Play.region_setRegion, if_true]; rfl),
      Play.setRegion_setRegion, Play.setBed, Play.modRegion_eq, Play.setRegion_setRegion]
    simp only [Play.region_setRegion, if_true]
    unfold Play.localIfDown
    simp only [Play.region_setRegion, if_true, state, beq_self_eq_true, Bool.true_and]
    by_cases down : bed.ramp.isNone = true
    · rw [if_pos down, Play.setState, Play.modRegion_eq, Play.setRegion_setRegion]
      simp only [Play.region_setRegion, if_true, x, down]
      rfl
    · rw [if_neg down]
      simp only [x, down]
      rfl
  rw [shape]
  have prepared := ((p.modVoice (homeVoice r) fun y => y.startFirst t e).setRegion r x).prepare_form t r
  refine ⟨?_, ?_, ?_⟩
  · obtain ⟨prep, tested, own⟩ := prepared.region (b := (b.leadIn t).entryStarted t e.index) (by simp [x])
    exact ⟨prep, tested, by rw [own]; simp [x, OpenBreak.entryStarted]⟩
  · obtain ⟨u, pend, own⟩ := prepared.voices (homeVoice r)
    exact ⟨u, pend, by rw [own]; simp⟩
  · refine ((within_modVoice p r (· = homeVoice r) _ rfl).trans (within_setRegion _ r _ x)).trans (within_prepare _ t r fun u isLead => ?_)
    simp only [Play.region_setRegion, if_true, x, Option.some.injEq] at isLead
    exact isLead.symm

theorem leadInDue_iff (p : Play) (t : Now) (r : Region) : p.leadInDue t r = true ↔ t.opensFrame = true ∧
    (p.region r).state = .leadin ∧ (p.voice (homeVoice r)).state = .ready ∧
      ∃ b, (p.region r).brk = some b ∧ b.leadInStart = none := by
  unfold Play.leadInDue
  cases isOpen : (p.region r).brk with
  | none => simp
  | some b => simp [and_assoc]

/-- Settles O17, by what the first kept entry is. -/
theorem leadInStartRecords : Obligations.LeadInStartRecords := by
  unfold Obligations.LeadInStartRecords
  intro s r b assembling due isOpen
  obtain ⟨-, state, ready, -⟩ := (leadInDue_iff _ _ _).1 due
  refine ⟨s.play.leadInStart s.now r, congrArg _ (event_due _ assembling due), ?_⟩
  change _ ∧ _ ∧ _ ∧ _ ∧ ∃ b', _ ∧ _ ∧ _ ∧ match nextPending b.run with | none => _ | some e => _
  cases next : nextPending b.run with
  | none =>
    have active : (s.play.voice (homeVoice r)).active = true := by simp [Voice.active, ready]
    rw [leadInStart_filler s.now isOpen next active]
    refine ⟨by simp, fun q other => by simp [Ne.symm other], fun v other => by simp [Ne.symm other], rfl, b.leadIn s.now, by simp, rfl, rfl,
      by simp, ?_, by simp, rfl⟩
    simpa using (start_fields _ _ _).1
  | some e =>
    cases linked : s.play.linkedTo r e with
    | some g =>
      rw [leadInStart_held s.now isOpen next linked]
      simp only [linked]
      exact ⟨by simp, fun q other => by simp [Ne.symm other], fun v _ => rfl, rfl, { b.leadIn s.now with prep := .none }, by simp, rfl, rfl,
        by simp, rfl, rfl, rfl, by simp⟩
    | none =>
      obtain ⟨⟨prep, tested, region⟩, ⟨u, pend, voice⟩, within⟩ := leadInStart_spec s.now isOpen state next linked
      obtain ⟨playing, fader, pos, -, -⟩ := start_fields { s.play.voice (homeVoice r) with
        fader := if e.transition = .mix then (Fader.still 0).begin e.level (e.transitionSamples / 48) else .still e.level } s.link.count 0
      simp only [linked]
      refine ⟨by rw [region], within.regions, within.voices, within.log, _, congrArg RegionRec.brk region, rfl, rfl, ?_,
        by rw [region], rfl, by rw [voice]; exact playing, by rw [voice]; exact pos, by rw [voice]; exact fader,
        fun x inside index => ?_⟩
      · rw [region]
        simp only [Option.isNone_iff_eq_none, begin_done]
      · obtain ⟨f, -, -, late, rfl⟩ := mem_entryStarted inside index
        exact ⟨rfl, rfl, rfl⟩

/-! ## Giving back -/

/-- Leaving the gates changes the gates only. -/
theorem leaveGates_form (p : Play) (r : Region) : ∃ gates, p.leaveGates r = { p with gates := gates } := by
  have fold : ∀ (l : List LinkGroup) (q : Play), ∃ gates,
      l.foldl (fun q g => q.modGate g fun x => x.leave r) q = { q with gates := gates } := by
    intro l
    induction l with
    | nil => exact fun q => ⟨q.gates, rfl⟩
    | cons g l ih =>
      intro q
      obtain ⟨gates, form⟩ := ih (q.modGate g fun x => x.leave r)
      exact ⟨gates, form⟩
  exact fold allLinkGroups p

/-- What a slot becomes when it is given back (R20). -/
def Play.slotBack (p : Play) (r : Region) (n : Fin 16) (wasSplit : Bool) : Slot := match (p.slot r n).plan with
  | none => Slot.reset
  | some pl =>
    if (p.slot r n).state == .retiring || (pl.singleUse && wasSplit) || p.duplicateReady r n pl.breakId then Slot.reset
    else { p.slot r n with state := .ready }

theorem giveBack_eq (p : Play) (r : Region) (n : Fin 16) (wasSplit : Bool) :
    p.giveBack r n wasSplit = p.setSlot r n (p.slotBack r n wasSplit) := by
  unfold Play.giveBack Play.slotBack
  cases found : (p.slot r n).plan with
  | none => simp only [found]
  | some pl =>
    simp only [found]
    split <;> rfl

/-- Giving back depends on the plans alone. -/
theorem slotBack_of_plans {p q : Play} (plans : q.plans = p.plans) (r : Region) (n : Fin 16) (wasSplit : Bool) :
    q.slotBack r n wasSplit = p.slotBack r n wasSplit := by
  unfold Play.slotBack Play.duplicateReady Play.slot
  rw [plans]

theorem slot_of_plans {p q : Play} (plans : q.plans = p.plans) (r : Region) (n : Fin 16) : q.slot r n = p.slot r n := by
  unfold Play.slot
  rw [plans]

/-- The plans once a slot of a region has been written. -/
theorem slot_setSlot_of_plans {p q : Play} {r : Region} {n : Fin 16} {x : Slot} (plans : q.plans = (p.setSlot r n x).plans) (r' : Region)
    (m : Fin 16) : q.slot r' m = if r = r' ∧ n = m then x else p.slot r' m := by
  rw [slot_of_plans plans, Play.slot_setSlot]

/-- A pool voice given back: some voices inactive, and of the regions only pool voice and lead voice fields changed. -/
structure Released (p q : Play) : Prop where
  voices : ∀ v, q.voice v = p.voice v ∨ (q.voice v).active = false
  regions : ∀ r, ∃ pool lead, q.region r = { p.region r with pool := pool, lead := lead }
  plans : q.plans = p.plans
  waiters : q.waiters = p.waiters
  gates : q.gates = p.gates
  dir : q.dir = p.dir
  log : q.log = p.log
  agent : q.agent = p.agent

theorem Released.refl (p : Play) : Released p p := ⟨fun _ => .inl rfl, fun _ => ⟨_, _, rfl⟩, rfl, rfl, rfl, rfl, rfl, rfl⟩

theorem Released.trans {p q u : Play} (first : Released p q) (second : Released q u) : Released p u where
  voices v := by
    rcases second.voices v with same | still
    · rw [same]; exact first.voices v
    · exact .inr still
  regions r := by
    obtain ⟨pool, lead, region⟩ := first.regions r
    obtain ⟨pool', lead', region'⟩ := second.regions r
    exact ⟨pool', lead', by rw [region', region]⟩
  plans := second.plans.trans first.plans
  waiters := second.waiters.trans first.waiters
  gates := second.gates.trans first.gates
  dir := second.dir.trans first.dir
  log := second.log.trans first.log
  agent := second.agent.trans first.agent

theorem released_releaseVoice (p : Play) (v : VoiceNo) : Released p (p.releaseVoice v) := by
  obtain ⟨plans, waiters, gates, dir, log, agent⟩ := p.rest_releaseVoice v
  refine ⟨fun u => ?_, fun r => ?_, plans, waiters, gates, dir, log, agent⟩
  · obtain ⟨own, other⟩ := p.voice_releaseVoice v u
    by_cases same : v = u
    · exact .inr (own same)
    · exact .inl (other same)
  · obtain ⟨pool, lead, region, -⟩ := p.region_releaseVoice v r
    exact ⟨pool, lead, region⟩

theorem released_giveBackPool (p : Play) (r : Region) : Released p (p.giveBackPool r) := by
  unfold Play.giveBackPool
  split
  · exact released_releaseVoice p _
  · exact .refl p

/-- A voice stays inactive through a release. -/
theorem Released.inactive {p q : Play} (released : Released p q) {v : VoiceNo} (still : (p.voice v).active = false) :
    (q.voice v).active = false := by
  rcases released.voices v with same | still'
  · rw [same]; exact still
  · exact still'

/-! ## Disarming -/

/-- A region that has been disarmed (R19): its break gone without a record, its slot and its voices given back. -/
structure Disarmed (p : Play) (r : Region) (b : OpenBreak) (st : RegionState) (q : Play) : Prop where
  own : ∃ pool lead, q.region r = { p.region r with pool := pool, lead := lead }.unbreak st
  others : ∀ x, x ≠ r → ∃ pool lead, q.region x = { p.region x with pool := pool, lead := lead }
  plans : q.plans = (p.setSlot r b.slot (p.slotBack r b.slot false)).plans
  voices : ∀ v, q.voice v = p.voice v ∨ (q.voice v).active = false
  home : (q.voice (homeVoice r)).active = false
  waiters : q.waiters = p.waiters.filter fun w => w.region != r
  dir : q.dir = p.dir
  log : q.log = p.log
  agent : q.agent = p.agent

theorem disarm_spec {p : Play} {r : Region} {b : OpenBreak} (st : RegionState) (isOpen : (p.region r).brk = some b) :
    Disarmed p r b st (p.disarm r st) := by
  have first := released_releaseVoice (p.withdraw r) (homeVoice r)
  have second := released_giveBackPool ((p.withdraw r).releaseVoice (homeVoice r)) r
  have both := first.trans second
  have home := second.inactive (((p.withdraw r).voice_releaseVoice (homeVoice r) (homeVoice r)).1 rfl)
  unfold Play.disarm
  rw [withBreak_of _ isOpen]
  generalize hq : ((p.withdraw r).releaseVoice (homeVoice r)).giveBackPool r = q at both home
  rw [giveBack_eq, slotBack_of_plans (p := p) both.plans]
  obtain ⟨gates, form⟩ := leaveGates_form (q.setSlot r b.slot (p.slotBack r b.slot false)) r
  rw [form]
  have region : ∀ x, Play.region { q.setSlot r b.slot (p.slotBack r b.slot false) with gates := gates } x = q.region x := fun _ => rfl
  constructor
  case own =>
    obtain ⟨pool, lead, record⟩ := both.regions r
    refine ⟨pool, lead, ?_⟩
    rw [Play.region_modRegion, if_pos rfl, region, record]
    rfl
  case others =>
    intro x other
    rw [Play.region_modRegion, if_neg (Ne.symm other), region]
    exact both.regions x
  case plans =>
    show (q.setSlot r b.slot (p.slotBack r b.slot false)).plans = _
    unfold Play.setSlot
    rw [both.plans]
    rfl
  case voices => exact both.voices
  case home => exact home
  case waiters => exact both.waiters
  case dir => exact both.dir
  case log => exact both.log
  case agent => exact both.agent

/-- Settles O18: the disarm, and the notice behind it. -/
theorem armExpiryDisarms : Obligations.ArmExpiryDisarms := by
  unfold Obligations.ArmExpiryDisarms
  intro s r b pl assembling due kept isOpen planned
  have disarmed := disarm_spec .network isOpen
  have shape : s.play.armExpire s.now r = (s.play.disarm r .network).raise s.now 0 (.armExpired r b.breakId b.slot) := by
    unfold Play.armExpire
    rw [withBreak_of _ isOpen]
  obtain ⟨a, raised⟩ := (s.play.disarm r .network).raise_form s.now 0 (.armExpired r b.breakId b.slot)
  have slots : ∀ q m, (s.play.armExpire s.now r).slot q m = (s.play.disarm r .network).slot q m := by
    rw [shape, raised]
    exact fun _ _ => rfl
  obtain ⟨pool, lead, own⟩ := disarmed.own
  have region : (s.play.armExpire s.now r).region r = { s.play.region r with pool := pool, lead := lead }.unbreak .network := by
    rw [shape, raised]
    exact own
  refine ⟨s.play.armExpire s.now r, congrArg _ (event_due _ assembling (by rw [due, kept]; rfl)), by rw [region]; rfl,
    by rw [region]; rfl, by rw [region]; rfl, by rw [region]; rfl, by rw [region]; rfl, by rw [region]; rfl, ?_, fun q m other => ?_, ?_, ?_, ?_, ?_, fun room => ?_⟩
  · rw [slots, slot_setSlot_of_plans disarmed.plans, if_pos ⟨rfl, rfl⟩]
    simp only [Play.slotBack, planned, Bool.and_false, Bool.or_false, Bool.or_eq_true, beq_iff_eq]
    split <;> rfl
  · rw [slots, slot_setSlot_of_plans disarmed.plans, if_neg]
    rintro ⟨rfl, rfl⟩
    exact other.elim (· rfl) (· rfl)
  · rw [shape, raised]
    exact disarmed.home
  · rw [shape, raised]
    show ∀ w ∈ (s.play.disarm r .network).waiters, _
    rw [disarmed.waiters]
    exact fun w inside => by simpa using (List.mem_filter.1 inside).2
  · rw [shape, raised]
    exact disarmed.log
  · rw [shape, raised]
    exact disarmed.dir
  · rw [shape]
    exact Play.mem_raise _ s.now 0 _ (by rw [disarmed.agent]; exact room)

end Sys2Proof.Machine

/-! # The Pool Arbiter: requests, decision points and grants -/

namespace Sys2Proof.Machine

/-! ## Priming -/

/-- The clip of a priming is the one asked for, whatever the directory holds. -/
theorem prime_fields (d : Directory) (clip first last level : Nat) (group : GainGroup) (loop : Bool) (run : Option Nat) :
    ∃ format trim page, d.prime clip first last level group loop run = ⟨clip, format, trim, page, first, last, level, group, loop, run⟩ := by
  unfold Directory.prime
  split
  · exact ⟨_, _, _, rfl⟩
  · exact ⟨_, _, _, rfl⟩

/-- The priming of a run entry. -/
theorem primeOf_fields (p : Play) (e : RunEntry) (level : Nat) :
    ∃ format trim page, p.primeOf e level = ⟨e.clip, format, trim, page, 0, e.effective.getD 0, level, e.group, false, some e.index⟩ :=
  prime_fields _ _ _ _ _ _ _ _

/-- A voice that is being primed with a clip, R at a level. -/
structure PrimedAs (x : Voice) (u : Prime) : Prop where
  state : x.state = .priming
  clip : x.clip = some u.clip
  pos : x.pos = u.startPos
  endPos : x.endPos = u.endPos
  fader : x.fader = ⟨u.level, none⟩
  group : x.group = u.group
  loop : x.loop = u.loop
  run : x.run = u.run
  ring : x.ring = []

theorem primedAs_take (v : Voice) (u : Prime) : PrimedAs (v.take u) u ∧ (v.take u).holder = v.holder := by
  obtain ⟨q, form⟩ := v.take_form u
  rw [form]
  exact ⟨⟨rfl, rfl, rfl, rfl, rfl, rfl, rfl, rfl, rfl⟩, rfl⟩

theorem prime_eq_take {v : Voice} (u : Prime) (held : v.state ≠ .releasing) : v.prime u = v.take u := if_neg held

/-- A voice that is not RELEASING takes the priming at once. -/
theorem primedAs_primeVoice {p : Play} {v : VoiceNo} (u : Prime) (held : (p.voice v).state ≠ .releasing) :
    PrimedAs ((p.primeVoice v u).voice v) u := by
  simp only [Play.primeVoice, Play.voice_modVoice, if_true]
  rw [prime_eq_take u held]
  exact (primedAs_take _ _).1

theorem within_primeVoice (p : Play) (r : Region) (v : VoiceNo) (u : Prime) : Within r (· = v) p (p.primeVoice v u) :=
  within_modVoice p r (· = v) _ rfl

/-! ## Pool requests -/

/-- Priming the voice that the region holds already for the incoming entry. -/
theorem useOther_primes {p : Play} {r : Region} {b : OpenBreak} {v : VoiceNo} (e : RunEntry) (isOpen : (p.region r).brk = some b)
    (idle : (p.voice v).state = .idle) :
    PrimedAs ((p.useOther r v e).voice v) (p.primeOf e 0) ∧
    (p.useOther r v e).region r = { p.region r with brk := some { b with prep := .incoming v } } ∧
    Within r (· = v) p (p.useOther r v e) := by
  have shape : p.useOther r v e =
      (p.primeVoice v (p.primeOf e 0)).setRegion r { p.region r with brk := some { b with prep := .incoming v } } := by
    unfold Play.useOther
    rw [if_neg (by simp [idle]), Play.setPrep, modBreak_of _ (show ((p.primeVoice v _).region r).brk = some b from isOpen)]
    rfl
  rw [shape]
  refine ⟨?_, by simp, (within_primeVoice p r v _).trans (within_setRegion _ r _ _)⟩
  exact primedAs_primeVoice _ (by rw [idle]; exact nofun)

/-- A voice that still plays is waited for. -/
theorem useOther_awaits {p : Play} {r : Region} {b : OpenBreak} {v : VoiceNo} (e : RunEntry) (isOpen : (p.region r).brk = some b)
    (playing : (p.voice v).state = .playing) :
    p.useOther r v e = p.setRegion r { p.region r with brk := some { b with prep := .awaiting v } } := by
  unfold Play.useOther
  rw [if_pos (by simp [playing]), Play.setPrep, modBreak_of _ isOpen]

/-- The other voice used changes that voice and the region's break only. -/
theorem within_useOther (p : Play) (r : Region) (v : VoiceNo) (e : RunEntry) : Within r (· = v) p (p.useOther r v e) := by
  unfold Play.useOther
  split
  · exact within_setRegion _ r _ _
  · exact (within_primeVoice p r v _).trans (within_setRegion _ r _ _)

/-- The waiting list with a region's request in it. -/
theorem request_home {p : Play} {r : Region} {b : OpenBreak} {e : RunEntry} (t : Now) (moves : p.moving r = some (b, homeVoice r, e))
    (alone : (p.region r).pool = none) : p.request t r =
      { p.setRegion r { p.region r with brk := some { b with prep := .waiting } } with
        waiters := insertWaiter ⟨r, e.index, decisionPoint t (p.voice (homeVoice r)).remaining e.overlap⟩ p.waiters } := by
  have shape : p.request t r = ({ p with
      waiters := insertWaiter ⟨r, e.index, decisionPoint t (p.voice (homeVoice r)).remaining e.overlap⟩ p.waiters } : Play).setPrep r
        .waiting := by simp only [Play.request, moves, if_true, alone]
  rw [shape, Play.setPrep, modBreak_of (b := b) _ (by exact (moving_some moves).1)]
  rfl

theorem request_pool {p : Play} {r : Region} {b : OpenBreak} {e : RunEntry} {v : VoiceNo} (t : Now)
    (moves : p.moving r = some (b, homeVoice r, e)) (held : (p.region r).pool = some v) : p.request t r = p.useOther r v e := by
  unfold Play.request
  rw [moves]
  dsimp only
  rw [if_pos rfl, held]

theorem request_other {p : Play} {r : Region} {b : OpenBreak} {lead : VoiceNo} {e : RunEntry} (t : Now)
    (moves : p.moving r = some (b, lead, e)) (away : lead ≠ homeVoice r) : p.request t r = p.useOther r (homeVoice r) e := by
  unfold Play.request
  rw [moves]
  dsimp only
  rw [if_neg away]

/-- A request reaches no other region, and no record. -/
theorem request_frame {p : Play} {r : Region} {b : OpenBreak} {lead : VoiceNo} {e : RunEntry} (t : Now)
    (moves : p.moving r = some (b, lead, e)) :
    (∀ q, q ≠ r → (p.request t r).region q = p.region q) ∧ (p.request t r).log = p.log := by
  by_cases home : lead = homeVoice r
  · subst home
    cases held : (p.region r).pool with
    | none =>
      rw [request_home t moves held]
      exact ⟨fun q other => (within_setRegion p r (fun _ => False) _).regions q other, rfl⟩
    | some v =>
      rw [request_pool t moves held]
      exact ⟨(within_useOther p r v e).regions, (within_useOther p r v e).log⟩
  · rw [request_other t moves home]
    exact ⟨(within_useOther p r _ e).regions, (within_useOther p r _ e).log⟩

/-! ## The decision point -/

/-- A waiting entry withdrawn: staged on the lead voice as a CUT at its own level, and flagged. -/
theorem degrade_spec {p : Play} {r : Region} {b : OpenBreak} {lead : VoiceNo} {e : RunEntry} (moves : p.moving r = some (b, lead, e)) :
    (p.degrade r).waiters = p.waiters.filter (fun w => w.region != r) ∧
    (∃ pend, (p.degrade r).voice lead = { p.voice lead with successor := some ⟨p.primeOf e e.level, false⟩, pending := pend }) ∧
    (∀ v, v ≠ lead → (p.degrade r).voice v = p.voice v) ∧
    (∃ b', ((p.degrade r).region r).brk = some b' ∧ b'.prep = .staged ∧ ∀ x ∈ b'.run, x.index = e.index → x.flags.degradedMix = true) ∧
    (∀ q, q ≠ r → (p.degrade r).region q = p.region q) ∧ (p.degrade r).log = p.log := by
  obtain ⟨isOpen, -, -, -, -⟩ := moving_some moves
  let c : OpenBreak := { b with
    prep := .staged, run := modEntry b.run e.index fun e => { e with flags := { e.flags with degradedMix := true } } }
  have shape : p.degrade r = ((p.withdraw r).modVoice lead fun x => x.stage ⟨p.primeOf e e.level, false⟩).setRegion r
      { p.region r with brk := some c } := by
    unfold Play.degrade
    rw [moves]
    dsimp only
    rw [Play.flagEntry, modBreak_of (b := b) _ (by exact isOpen), Play.setPrep, modBreak_of _ (by rw [Play.region_setRegion, if_pos rfl]),
      Play.setRegion_setRegion, Play.region_setRegion, if_pos rfl]
    rfl
  rw [shape]
  refine ⟨rfl, ?_, fun v other => ?_, ⟨c, by simp, rfl, fun x inside index => ?_⟩, fun q other => ?_, rfl⟩
  · obtain ⟨pend, form⟩ := (p.voice lead).stage_form ⟨p.primeOf e e.level, false⟩
    refine ⟨pend, ?_⟩
    rw [← form]
    simp only [Play.voice_setRegion, Play.voice_modVoice, if_true]
    rfl
  · rw [Play.voice_setRegion, Play.voice_modVoice, if_neg (Ne.symm other)]
    rfl
  · obtain ⟨f, -, -, rfl⟩ := mem_modEntry inside index
    rfl
  · rw [Play.region_setRegion, if_neg (Ne.symm other)]
    rfl

/-! ## Grants -/

theorem mem_freePool (p : Play) (v : VoiceNo) : v ∈ p.freePool ↔ isPool v = true ∧ (p.voice v).state = .idle ∧ (p.voice v).holder = none := by
  unfold Play.freePool
  simp only [List.mem_filter, mem_allVoices, true_and, Bool.and_eq_true, beq_iff_eq, and_assoc]

theorem freePool_sorted (p : Play) : p.freePool.Pairwise (· < ·) := (show allVoices.Pairwise (· < ·) by decide).filter _

theorem freePool_nodup (p : Play) : p.freePool.Nodup := (freePool_sorted p).imp fun lt => ne_of_lt lt

theorem length_freePool (p : Play) : p.freePool.length ≤ 8 := by
  have within : p.freePool.length ≤ (allVoices.filter fun v => isPool v).length := by
    unfold Play.freePool
    rw [← List.countP_eq_length_filter, ← List.countP_eq_length_filter]
    exact List.countP_mono_left fun v _ free => by
      simp only [Bool.and_eq_true] at free
      exact free.1.1
  exact within.trans (by decide)

/-- One voice taken from the free ones: the others stay free in their order. -/
theorem freePool_taken {p q : Play} {v : VoiceNo} {free : List VoiceNo} (pool : p.freePool = v :: free) (taken : v ∉ q.freePool)
    (others : ∀ u, u ≠ v → q.voice u = p.voice u) : q.freePool = free := by
  have filtered : q.freePool = p.freePool.filter (· != v) := by
    unfold Play.freePool
    rw [List.filter_filter]
    refine List.filter_congr fun u _ => ?_
    by_cases same : u = v
    · subst same
      have closed : ¬ (isPool u = true ∧ (q.voice u).state = .idle ∧ (q.voice u).holder = none) := fun c => taken ((mem_freePool q u).2 c)
      rw [bne_self_eq_false, Bool.false_and, ← Bool.not_eq_true]
      simpa [and_assoc] using closed
    · rw [others u same, bne_iff_ne.2 same, Bool.true_and]
  have distinct := pool ▸ freePool_nodup p
  rw [filtered, pool, List.filter_cons_of_neg (by simp), List.filter_eq_self]
  exact fun u inside => bne_iff_ne.2 fun same => (List.nodup_cons.1 distinct).1 (same ▸ inside)

/-- What one grant is, where a voice is free and an entry waits. -/
theorem grantOne_cons {p : Play} {v : VoiceNo} {free : List VoiceNo} {w : Waiter} {rest : List Waiter} (pool : p.freePool = v :: free)
    (waiting : p.waiters = w :: rest) :
    (p.grantOne).waiters = rest ∧ (p.grantOne).freePool = free ∧ (∀ u, u ≠ v → (p.grantOne).voice u = p.voice u) ∧
    (∀ y, y ≠ w.region → (p.grantOne).region y = p.region y) ∧ (p.grantOne).log = p.log ∧ (p.grantOne).gates = p.gates ∧
    ∀ b e, (p.region w.region).brk = some b → findEntry b.run w.run = some e →
      (p.grantOne).region w.region = { p.region w.region with pool := some v, brk := some { b with prep := .incoming v } } ∧
      (p.grantOne).voice v = ({ p.voice v with holder := some w.region } : Voice).take (p.primeOf e 0) := by
  obtain ⟨-, idle, -⟩ := (mem_freePool p v).1 (pool ▸ List.mem_cons_self)
  let q := ({ p with waiters := rest }.modVoice v fun x => { x with holder := some w.region }).setRegion w.region
    { p.region w.region with pool := some v }
  have held : (q.voice v) = { p.voice v with holder := some w.region } := by
    simp only [q, Play.voice_setRegion, Play.voice_modVoice, if_true]
    rfl
  have base : q.waiters = rest ∧ (∀ u, u ≠ v → q.voice u = p.voice u) ∧ (∀ y, y ≠ w.region → q.region y = p.region y) ∧ q.log = p.log ∧
      q.gates = p.gates := by
    refine ⟨rfl, fun u other => ?_, fun y other => ?_, rfl, rfl⟩
    · simp only [q, Play.voice_setRegion, Play.voice_modVoice, if_neg (Ne.symm other)]
      rfl
    · simp only [q, Play.region_setRegion, if_neg (Ne.symm other)]
      rfl
  have shape : p.grantOne = q.withBreak w.region fun b => match findEntry b.run w.run with
      | some e => (q.primeVoice v (q.primeOf e 0)).setPrep w.region (.incoming v)
      | none => q := by
    unfold Play.grantOne
    rw [pool, waiting]
    rfl
  have record : (q.region w.region).brk = (p.region w.region).brk := by simp [q]
  obtain ⟨waiters, others, regions, log, gates⟩ := base
  have bare : p.grantOne = q → (p.grantOne).waiters = rest ∧ (p.grantOne).freePool = free ∧
      (∀ u, u ≠ v → (p.grantOne).voice u = p.voice u) ∧ (∀ y, y ≠ w.region → (p.grantOne).region y = p.region y) ∧
      (p.grantOne).log = p.log ∧ (p.grantOne).gates = p.gates := by
    intro same
    rw [same]
    refine ⟨waiters, freePool_taken pool (fun free => ?_) others, others, regions, log, gates⟩
    have := ((mem_freePool q v).1 free).2.2
    rw [held] at this
    cases this
  cases isOpen : (p.region w.region).brk with
  | none =>
    have same : p.grantOne = q := by rw [shape, Play.withBreak, record, isOpen]
    obtain ⟨a, b, c, d, e, f⟩ := bare same
    exact ⟨a, b, c, d, e, f, fun _ _ closed => absurd closed.symm (Option.some_ne_none _)⟩
  | some b =>
    rw [withBreak_of _ (record.trans isOpen)] at shape
    cases found : findEntry b.run w.run with
    | none =>
      rw [found] at shape
      obtain ⟨a, b', c, d, e, f⟩ := bare shape
      refine ⟨a, b', c, d, e, f, fun b'' e' same found' => ?_⟩
      cases same
      rw [found] at found'
      cases found'
    | some e =>
      rw [found] at shape
      dsimp only at shape
      rw [Play.setPrep, modBreak_of (b := b) _ (show ((q.primeVoice v _).region _).brk = _ from record.trans isOpen)] at shape
      have voice : (p.grantOne).voice v = ({ p.voice v with holder := some w.region } : Voice).take (p.primeOf e 0) := by
        rw [shape]
        simp only [Play.voice_setRegion, Play.primeVoice, Play.voice_modVoice, if_true]
        rw [held, prime_eq_take _ (by rw [idle]; exact nofun)]
        rfl
      have others' : ∀ u, u ≠ v → (p.grantOne).voice u = p.voice u := fun u other => by
        rw [shape]
        simp only [Play.voice_setRegion, Play.primeVoice, Play.voice_modVoice, if_neg (Ne.symm other)]
        exact others u other
      refine ⟨by rw [shape]; exact waiters, freePool_taken pool (fun free => ?_) others', others', fun y other => ?_,
        by rw [shape]; exact log, by rw [shape]; exact gates, fun b' e' same found' => ?_⟩
      · have state := ((mem_freePool _ v).1 free).2.1
        rw [voice, (primedAs_take _ _).1.state] at state
        cases state
      · rw [shape, Play.region_setRegion, if_neg (Ne.symm other)]
        exact regions y other
      · cases same
        cases found.symm.trans found'
        refine ⟨?_, voice⟩
        rw [shape, Play.region_setRegion, if_pos rfl]
        show ({ q.region w.region with brk := some { b with prep := .incoming v } } : RegionRec) = _
        simp [q]

theorem grantOne_stays {p : Play} (done : p.freePool = [] ∨ p.waiters = []) : p.grantOne = p := by
  unfold Play.grantOne
  split
  · rename_i v free w rest pool waiting
    rcases done with none' | none'
    · rw [pool] at none'; cases none'
    · rw [waiting] at none'; cases none'
  · rfl

theorem grants_eq (p : Play) : p.grants = Play.grantOne^[8] p := by
  unfold Play.grants
  rw [List.foldl_const, List.length_range]

/-- An entry that has been granted a voice: it is held by its region, and being primed with the entry at level 0. -/
structure Granted (p q : Play) (r : Region) (b : OpenBreak) (e : RunEntry) (v : VoiceNo) : Prop where
  free : v ∈ p.freePool
  region : q.region r = { p.region r with pool := some v, brk := some { b with prep := .incoming v } }
  holder : (q.voice v).holder = some r
  primed : PrimedAs (q.voice v) (p.primeOf e 0)

theorem primeOf_of_dir {p q : Play} (dir : q.dir = p.dir) (e : RunEntry) (level : Nat) : q.primeOf e level = p.primeOf e level := by
  unfold Play.primeOf
  rw [dir]

theorem grantOne_dir (p : Play) : p.grantOne.dir = p.dir := by
  unfold Play.grantOne
  split
  · dsimp only
    unfold Play.withBreak
    split
    · rfl
    · dsimp only
      split
      · rfl
      · rfl
  · rfl

/-- Some grants in a row: each free voice goes to the entry at the head, until none is free or none waits. -/
theorem grantOne_iterate (n : Nat) (p : Play) (distinct : p.waiters.Pairwise fun x y => x.region ≠ y.region) :
    let q := Play.grantOne^[n] p
    (∀ u ∉ p.freePool, q.voice u = p.voice u) ∧ q.waiters <:+ p.waiters ∧
    (∀ y, (∀ w ∈ p.waiters, w.region ≠ y) → q.region y = p.region y) ∧ q.log = p.log ∧
    ∀ w ∈ p.waiters, (p.waiters.takeWhile fun x => x.region != w.region).length < min n p.freePool.length →
      (∀ x ∈ q.waiters, x.region ≠ w.region) ∧
      ∀ b e, (p.region w.region).brk = some b → findEntry b.run w.run = some e → ∃ v, Granted p q w.region b e v := by
  induction n generalizing p with
  | zero => exact ⟨fun _ _ => rfl, List.suffix_refl _, fun _ _ => rfl, rfl, fun w _ early => by omega⟩
  | succ n ih =>
    rw [Function.iterate_succ_apply]
    by_cases done : p.freePool = [] ∨ p.waiters = []
    · rw [grantOne_stays done]
      obtain ⟨voices, waiters, regions, log, granted⟩ := ih p distinct
      refine ⟨voices, waiters, regions, log, fun w inside early => ?_⟩
      rcases done with none' | none'
      · rw [none'] at early
        exact absurd early (by simp)
      · rw [none'] at inside
        cases inside
    · obtain ⟨v, free, pool⟩ := List.exists_cons_of_ne_nil (not_or.1 done).1
      obtain ⟨h, rest, waiting⟩ := List.exists_cons_of_ne_nil (not_or.1 done).2
      obtain ⟨waiters', pool', voices', regions', log', -, grant⟩ := grantOne_cons pool waiting
      obtain ⟨apart, distinct'⟩ := List.pairwise_cons.1 (waiting ▸ distinct)
      obtain ⟨voices, waiters, regions, log, granted⟩ := ih p.grantOne (by rw [waiters']; exact distinct')
      have fresh : v ∉ free := (List.nodup_cons.1 (pool ▸ freePool_nodup p)).1
      refine ⟨fun u outside => ?_, ?_, fun y none' => ?_, log.trans log', fun w inside early => ?_⟩
      · rw [pool] at outside
        rw [voices u (by rw [pool']; exact fun inside => outside (List.mem_cons_of_mem _ inside)),
          voices' u fun same => outside (same ▸ List.mem_cons_self)]
      · rw [waiting]
        exact waiters.trans (waiters' ▸ List.suffix_cons h rest)
      · rw [waiting] at none'
        rw [regions y (by rw [waiters']; exact fun w inside => none' w (List.mem_cons_of_mem _ inside)),
          regions' y (Ne.symm (none' h List.mem_cons_self))]
      · rw [waiting] at inside early
        rcases List.mem_cons.1 inside with rfl | inside
        · refine ⟨fun x inside => ?_, fun b e isOpen found => ⟨v, ?_⟩⟩
          · exact Ne.symm (apart x (waiters' ▸ waiters.subset inside))
          · obtain ⟨region, voice⟩ := grant b e isOpen found
            have keepsV := voices v (by rw [pool']; exact fresh)
            refine ⟨pool ▸ List.mem_cons_self, ?_, ?_, ?_⟩
            · rw [regions w.region (by rw [waiters']; exact fun x inside => Ne.symm (apart x inside)), region]
            · rw [keepsV, voice, (primedAs_take _ _).2]
            · rw [keepsV, voice]
              exact (primedAs_take _ _).1
        · have other : h.region ≠ w.region := apart w inside
          rw [List.takeWhile_cons_of_pos (by simpa using other), List.length_cons, pool, List.length_cons] at early
          obtain ⟨gone, given⟩ := granted w (by rw [waiters']; exact inside) (by rw [waiters', pool']; omega)
          refine ⟨gone, fun b e isOpen found => ?_⟩
          obtain ⟨u, isFree, region, holder, primed⟩ := given b e (by rw [regions' _ (Ne.symm other)]; exact isOpen) found
          refine ⟨u, pool ▸ List.mem_cons_of_mem _ (pool' ▸ isFree), ?_, holder, ?_⟩
          · rw [region, regions' _ (Ne.symm other)]
          · rwa [primeOf_of_dir (grantOne_dir p)] at primed

/-- After eight grants no pool voice is free while an entry waits. -/
theorem grants_exhaust (p : Play) : p.grants.freePool = [] ∨ p.grants.waiters = [] := by
  have steps : ∀ n (q : Play), q.freePool.length ≤ n →
      (Play.grantOne^[n] q).freePool = [] ∨ (Play.grantOne^[n] q).waiters = [] := by
    intro n
    induction n with
    | zero => exact fun q few => .inl (List.length_eq_zero_iff.1 (Nat.le_zero.1 few))
    | succ n ih =>
      intro q few
      rw [Function.iterate_succ_apply]
      by_cases done : q.freePool = [] ∨ q.waiters = []
      · rw [grantOne_stays done]
        rw [Function.iterate_fixed (grantOne_stays done)]
        exact done
      · obtain ⟨v, free, pool⟩ := List.exists_cons_of_ne_nil (not_or.1 done).1
        obtain ⟨h, rest, waiting⟩ := List.exists_cons_of_ne_nil (not_or.1 done).2
        obtain ⟨-, pool', -⟩ := grantOne_cons pool waiting
        refine ih _ ?_
        rw [pool', ← Nat.succ_le_succ_iff]
        rwa [pool] at few
  rw [grants_eq]
  exact steps 8 p (length_freePool p)

theorem grants_stay {p : Play} (done : p.freePool = [] ∨ p.waiters = []) : p.grants = p := by
  rw [grants_eq, Function.iterate_fixed (grantOne_stays done)]

/-! ## The sample settled -/

theorem resolveRegion_stays {p : Play} {r : Region} (t : Now) (away : (p.region r).arriving = none) (n : Nat) :
    Play.resolveRegion t r n p = p := by
  cases n with
  | zero => rfl
  | succ n => unfold Play.resolveRegion; rw [away]

theorem foldl_fixed {α β : Type} {f : α → β → α} {a : α} (l : List β) (fixed : ∀ b ∈ l, f a b = a) : l.foldl f a = a := by
  induction l with
  | nil => rfl
  | cons b l ih =>
    rw [List.foldl_cons, fixed b List.mem_cons_self]
    exact ih fun c inside => fixed c (List.mem_cons_of_mem _ inside)

theorem settleArrivals_stays {p : Play} (t : Now) (away : ∀ r, (p.region r).arriving = none) : p.settleArrivals t = p :=
  foldl_fixed _ fun r _ => resolveRegion_stays t (away r) 13

theorem requests_stay {p : Play} (t : Now) (calm : ∀ r, p.requestDue r = false) : p.requests t = p :=
  foldl_fixed _ fun r _ => by rw [calm r]; rfl

/-- What a settled sample leaves of the on-air blocks. -/
theorem after_play (s : State) (p : Play) : (s.after p).play =
    if ({ s with play := p, midSample := true } : State).quiet then (p.settleArrivals s.now).poolRound s.now else p := by
  unfold State.after State.settle
  rw [(settleArray_keeps _).1]
  by_cases quiet : ({ s with play := p, midSample := true } : State).quiet = true
  · rw [if_pos quiet, if_pos quiet]
    have now : ({ s with play := p, midSample := true } : State).now = s.now := rfl
    rw [now]
  · rw [if_neg quiet, if_neg quiet]

/-- Settles O24: the request by what the region holds, the degrade, and the grant that the settling makes. -/
theorem poolRequestAndDecision : Obligations.PoolRequestAndDecision := by
  unfold Obligations.PoolRequestAndDecision
  refine ⟨fun s r b lead e assembling due moves => ?_, fun s r b lead e assembling due short moves => ?_,
    fun s r assembling due reached => ?_, fun s r b w e assembling due quiet away distinct calm reached inside isOwn isOpen found => ?_⟩
  · obtain ⟨isOpen, isLead, -, -, -⟩ := moving_some moves
    obtain ⟨others, log⟩ := request_frame s.now moves
    refine ⟨s.play.request s.now r, congrArg _ (event_due _ assembling due), ?_, ?_, ?_, others, log⟩
    · rintro rfl alone
      rw [request_home s.now moves alone]
      exact ⟨rfl, rfl, (Play.region_setRegion ..).trans (if_pos rfl)⟩
    · intro away idle
      rw [request_other s.now moves away]
      obtain ⟨primed, region, within⟩ := useOther_primes e isOpen idle
      obtain ⟨format, trim, page, fields⟩ := primeOf_fields s.play e 0
      rw [fields] at primed
      exact ⟨primed.state, primed.clip, primed.fader, within.voices, region, within.waiters⟩
    · rintro v rfl held apart
      rw [request_pool s.now moves held]
      refine ⟨useOther_awaits e isOpen, fun idle => ?_⟩
      obtain ⟨primed, region, within⟩ := useOther_primes e isOpen idle
      obtain ⟨format, trim, page, fields⟩ := primeOf_fields s.play e 0
      rw [fields] at primed
      exact ⟨primed.state, primed.clip, primed.fader, within.voices, region, within.waiters⟩
  · obtain ⟨-, -, playing, -, -⟩ := moving_some moves
    obtain ⟨waiters, ⟨pend, voice⟩, others, flagged, regions, log⟩ := degrade_spec moves
    have shape : s.play.decideWaiting s.now r = s.play.degrade r := by simp only [Play.decideWaiting, short, Bool.false_eq_true, if_false]
    obtain ⟨format, trim, page, fields⟩ := primeOf_fields s.play e e.level
    rw [fields] at voice
    refine ⟨s.play.degrade r, (congrArg _ (event_due _ assembling due)).trans (congrArg (fun p => Host.Outcome.next (s.after p)) shape), waiters,
      ⟨_, by rw [voice], rfl, rfl, rfl, rfl, rfl, rfl, rfl⟩, by rw [voice]; exact playing, others, flagged, regions, log⟩
  · have shape : s.play.decideWaiting s.now r = s.play := by simp only [Play.decideWaiting, reached, if_true]
    exact (congrArg _ (event_due _ assembling due)).trans (congrArg (fun p => Host.Outcome.next (s.after p)) shape)
  · have shape : s.play.decideWaiting s.now r = s.play := by
      simp only [Play.decideWaiting, requests_stay s.now calm, reached, if_true]
    have settled : (s.after s.play).play = s.play.grants := by
      rw [after_play, if_pos (by exact quiet), settleArrivals_stays _ away, Play.poolRound, requests_stay _ calm]
    obtain ⟨voices, waiters, -, log, granted⟩ := grantOne_iterate 8 s.play distinct
    subst isOwn
    have early : (s.play.waiters.takeWhile fun x => x.region != w.region).length < min 8 s.play.freePool.length := by
      have := length_freePool s.play
      have reach : (s.play.waiters.takeWhile fun x => x.region != w.region).length < s.play.freePool.length := by
        simpa [Play.wouldBeGranted] using reached
      omega
    obtain ⟨gone, given⟩ := granted w inside early
    obtain ⟨v, free, region, holder, primed⟩ := given b e isOpen found
    obtain ⟨format, trim, page, fields⟩ := primeOf_fields s.play e 0
    rw [fields] at primed
    refine ⟨s.after s.play, v, (congrArg _ (event_due _ assembling due)).trans (congrArg (fun p => Host.Outcome.next (s.after p)) shape), free, ?_⟩
    dsimp only
    rw [settled]
    have exhausted := grants_exhaust s.play
    rw [grants_eq] at exhausted ⊢
    exact ⟨region, holder, primed.state, primed.clip, primed.pos, primed.endPos, primed.fader, primed.run, voices, gone, waiters,
      exhausted, log⟩

end Sys2Proof.Machine

/-! # Arming a region, and fitting a plan -/

namespace Sys2Proof.Machine

/-! ## What overlapping and dropping leave of an entry -/

/-- An entry as fitting leaves it of what it was resolved to: its overlap set, and, where it was kept and may be dropped, dropped. -/
def Fitted (drops : Nat → Prop) (e x : RunEntry) : Prop :=
  (∃ ov, x = { e with overlap := ov }) ∨
    (e.kept = true ∧ drops e.index ∧ ∃ ov, x = { e with overlap := ov, status := .skipped .dropped, effective := none })

theorem Fitted.refl (drops : Nat → Prop) (e : RunEntry) : Fitted drops e e := .inl ⟨e.overlap, rfl⟩

theorem Fitted.trans {drops : Nat → Prop} {e x y : RunEntry} (first : Fitted drops e x) (second : Fitted drops x y) : Fitted drops e y := by
  rcases first with ⟨ov, rfl⟩ | ⟨kept, may, ov, rfl⟩
  · exact second
  · rcases second with ⟨ov', rfl⟩ | ⟨kept', -⟩
    · exact .inr ⟨kept, may, ov', rfl⟩
    · cases kept'

theorem Fitted.index {drops : Nat → Prop} {e x : RunEntry} (fitted : Fitted drops e x) : x.index = e.index := by
  rcases fitted with ⟨ov, rfl⟩ | ⟨-, -, ov, rfl⟩ <;> rfl

theorem forall₂_fitted_trans {drops : Nat → Prop} : ∀ {l m n : List RunEntry}, List.Forall₂ (Fitted drops) l m →
    List.Forall₂ (Fitted drops) m n → List.Forall₂ (Fitted drops) l n
  | _, _, _, .nil, .nil => .nil
  | _, _, _, .cons h l, .cons k m => .cons (h.trans k) (forall₂_fitted_trans l m)

theorem forall₂_mem {α β : Type} {R : α → β → Prop} {l : List α} {m : List β} (related : List.Forall₂ R l m) {y : β} (inside : y ∈ m) :
    ∃ x ∈ l, R x y := by
  induction related with
  | nil => cases inside
  | cons head _ ih =>
    rcases List.mem_cons.1 inside with rfl | inside
    · exact ⟨_, List.mem_cons_self, head⟩
    · obtain ⟨x, member, related⟩ := ih inside
      exact ⟨x, List.mem_cons_of_mem _ member, related⟩

theorem forall₂_mem_left {α β : Type} {R : α → β → Prop} {l : List α} {m : List β} (related : List.Forall₂ R l m) {x : α}
    (inside : x ∈ l) : ∃ y ∈ m, R x y := forall₂_mem (List.Forall₂.flip related) inside

theorem forall₂_get {α β : Type} {R : α → β → Prop} {l : List α} {m : List β} (related : List.Forall₂ R l m) {i : Nat} {x : α}
    (found : l[i]? = some x) : ∃ y, m[i]? = some y ∧ R x y := by
  induction related generalizing i with
  | nil => simp at found
  | cons head _ ih =>
    cases i with
    | zero =>
      cases found
      exact ⟨_, rfl, head⟩
    | succ i => exact ih found

theorem map_index_of_fitted {drops : Nat → Prop} {run run' : List RunEntry} (fitted : List.Forall₂ (Fitted drops) run run') :
    run'.map RunEntry.index = run.map RunEntry.index := by
  induction fitted with
  | nil => rfl
  | cons head _ ih => rw [List.map_cons, List.map_cons, ih, head.index]

/-! ## Overlaps -/

theorem kept_overlap (e : RunEntry) (ov : Nat) : RunEntry.kept { e with overlap := ov } = e.kept := rfl

theorem setOverlaps_fitted (drops : Nat → Prop) (prev : Option (Nat × Nat)) (run : List RunEntry) :
    List.Forall₂ (Fitted drops) run (setOverlaps prev run) := by
  induction run generalizing prev with
  | nil => exact .nil
  | cons e run ih =>
    unfold setOverlaps
    split
    · exact .cons (.inl ⟨_, rfl⟩) (ih _)
    · exact .cons (.inl ⟨_, rfl⟩) (ih _)

/-- Entries one behind the other, each with the overlap that R52 gives it. -/
def Overlapping : Option (Nat × Nat) → List RunEntry → Prop
  | _, [] => True
  | prev, e :: rest => e.overlap = overlapWith prev e ∧ Overlapping (some (e.effective.getD 0, e.overlap)) rest

theorem setOverlaps_overlapping (prev : Option (Nat × Nat)) (run : List RunEntry) :
    Overlapping prev ((setOverlaps prev run).filter RunEntry.kept) := by
  induction run generalizing prev with
  | nil => trivial
  | cons e run ih =>
    unfold setOverlaps
    by_cases kept : e.kept = true
    · rw [if_pos kept, List.filter_cons_of_pos (by exact kept)]
      exact ⟨rfl, ih _⟩
    · rw [if_neg kept, List.filter_cons_of_neg (by exact kept)]
      exact ih _

theorem setOverlaps_unkept {prev : Option (Nat × Nat)} {run : List RunEntry} {e : RunEntry} (inside : e ∈ setOverlaps prev run)
    (unkept : e.kept = false) : e.overlap = 0 := by
  induction run generalizing prev with
  | nil => cases inside
  | cons x run ih =>
    unfold setOverlaps at inside
    split at inside
    · rename_i kept
      rcases List.mem_cons.1 inside with rfl | inside
      · rw [kept_overlap, kept] at unkept
        cases unkept
      · exact ih inside
    · rcases List.mem_cons.1 inside with rfl | inside
      · rfl
      · exact ih inside

theorem Overlapping.next {run : List RunEntry} {i : Nat} {x e : RunEntry} {prev : Option (Nat × Nat)} (chain : Overlapping prev run)
    (before : run[i]? = some x) (behind : run[i + 1]? = some e) : e.overlap = overlapWith (some (x.effective.getD 0, x.overlap)) e := by
  induction run generalizing i prev with
  | nil => simp at before
  | cons y run ih =>
    obtain ⟨-, rest⟩ := chain
    cases i with
    | zero =>
      cases before
      cases run with
      | nil => simp at behind
      | cons z run =>
        cases behind
        exact rest.1
    | succ i => exact ih rest before behind

theorem overlapWith_kept (x e : RunEntry) : overlapWith (some (x.effective.getD 0, x.overlap)) e = match e.transition with
    | .cut => 0
    | .mix => min e.transitionSamples (min (x.effective.getD 0 - x.overlap) (e.effective.getD 0)) := by
  unfold overlapWith
  cases e.transition <;> rfl

/-! ## Dropping -/

/-- Whether the item of an index may be dropped. -/
def droppableAt (items : List PlanItem) (i : Nat) : Bool := match items[i]? with
  | some it => it.droppable
  | none => false

theorem lastDroppable_eq (items : List PlanItem) (run : List RunEntry) :
    lastDroppable items run = (run.filter fun e => e.kept && droppableAt items e.index).getLast? := rfl

theorem lastDroppable_some {items : List PlanItem} {run : List RunEntry} {e : RunEntry} (last : lastDroppable items run = some e) :
    e ∈ run ∧ e.kept = true ∧ droppableAt items e.index = true ∧
      ((run.map RunEntry.index).Pairwise (· < ·) → ∀ x ∈ run, x.kept = true → droppableAt items x.index = true → x.index ≤ e.index) := by
  rw [lastDroppable_eq, List.getLast?_eq_some_iff] at last
  obtain ⟨before, filtered⟩ := last
  have inside : e ∈ run.filter fun e => e.kept && droppableAt items e.index := by rw [filtered]; simp
  obtain ⟨member, test⟩ := List.mem_filter.1 inside
  obtain ⟨kept, may⟩ := Bool.and_eq_true_iff.1 test
  refine ⟨member, kept, may, fun sorted x xIn xKept xMay => ?_⟩
  have sorted' := (List.pairwise_map.1 sorted).filter fun e => e.kept && droppableAt items e.index
  have xIn' : x ∈ run.filter fun e => e.kept && droppableAt items e.index :=
    List.mem_filter.2 ⟨xIn, Bool.and_eq_true_iff.2 ⟨xKept, xMay⟩⟩
  rw [filtered] at sorted' xIn'
  rcases List.mem_append.1 xIn' with early | late
  · exact (List.pairwise_append.1 sorted').2.2 x early e (List.mem_singleton.2 rfl) |>.le
  · exact (List.mem_singleton.1 late ▸ Nat.le_refl _)

theorem lastDroppable_none {items : List PlanItem} {run : List RunEntry} (last : lastDroppable items run = none) {e : RunEntry}
    (inside : e ∈ run) (kept : e.kept = true) : droppableAt items e.index = false := by
  rw [lastDroppable_eq, List.getLast?_eq_none_iff, List.filter_eq_nil_iff] at last
  simpa [kept] using last e inside

/-- An entry marked as dropped, where it has an index. -/
def RunEntry.dropAt (e : RunEntry) (i : Nat) : RunEntry :=
  if e.index = i then { e with status := .skipped .dropped, effective := none } else e

theorem dropEntry_eq (run : List RunEntry) (i : Nat) : dropEntry run i = setOverlaps none (run.map fun e => e.dropAt i) := rfl

theorem sorted_unique {run : List RunEntry} (sorted : (run.map RunEntry.index).Pairwise (· < ·)) {x y : RunEntry} (xIn : x ∈ run)
    (yIn : y ∈ run) (same : x.index = y.index) : x = y := by
  induction run with
  | nil => cases xIn
  | cons z run ih =>
    obtain ⟨first, rest⟩ := List.pairwise_cons.1 (List.map_cons ▸ sorted)
    have later : ∀ w ∈ run, z.index < w.index := fun w inside => first _ (List.mem_map_of_mem inside)
    rcases List.mem_cons.1 xIn with xHead | xIn <;> rcases List.mem_cons.1 yIn with yHead | yIn
    · rw [xHead, yHead]
    · exact absurd (xHead ▸ same) (later y yIn).ne
    · exact absurd (yHead ▸ same) (later x xIn).ne'
    · exact ih rest xIn yIn

/-- The highest droppable kept entry is the one dropped. -/
theorem lastDroppable_highest {items : List PlanItem} {run : List RunEntry} (sorted : (run.map RunEntry.index).Pairwise (· < ·))
    {e : RunEntry} (inside : e ∈ run) (kept : e.kept = true) (may : droppableAt items e.index = true)
    (highest : ∀ x ∈ run, x.kept = true → droppableAt items x.index = true → x.index ≤ e.index) : lastDroppable items run = some e := by
  cases last : lastDroppable items run with
  | none =>
    rw [lastDroppable_none last inside kept] at may
    cases may
  | some y =>
    obtain ⟨yIn, yKept, yMay, top⟩ := lastDroppable_some last
    rw [sorted_unique sorted yIn inside (Nat.le_antisymm (highest y yIn yKept yMay) (top sorted e inside kept may))]

theorem dropEntry_fitted {drops : Nat → Prop} {run : List RunEntry} (sorted : (run.map RunEntry.index).Pairwise (· < ·)) {e : RunEntry}
    (inside : e ∈ run) (kept : e.kept = true) (may : drops e.index) : List.Forall₂ (Fitted drops) run (dropEntry run e.index) := by
  rw [dropEntry_eq]
  refine forall₂_fitted_trans ?_ (setOverlaps_fitted drops none _)
  rw [List.forall₂_map_right_iff, List.forall₂_same]
  intro x xIn
  unfold RunEntry.dropAt
  split
  · rename_i same
    rw [sorted_unique sorted xIn inside same]
    exact .inr ⟨kept, may, e.overlap, rfl⟩
  · exact .refl drops x

/-- The number of kept entries. -/
def keptCount (run : List RunEntry) : Nat := (run.filter RunEntry.kept).length

theorem keptCount_setOverlaps (prev : Option (Nat × Nat)) (run : List RunEntry) : keptCount (setOverlaps prev run) = keptCount run := by
  induction run generalizing prev with
  | nil => rfl
  | cons e run ih =>
    unfold keptCount at ih ⊢
    unfold setOverlaps
    by_cases kept : e.kept = true
    · rw [if_pos kept, List.filter_cons_of_pos (by exact kept), List.filter_cons_of_pos (by exact kept), List.length_cons, List.length_cons,
        ih]
    · rw [if_neg kept, List.filter_cons_of_neg (by exact kept), List.filter_cons_of_neg (by exact kept), ih]

theorem keptCount_dropEntry {run : List RunEntry} {e : RunEntry} (inside : e ∈ run) (kept : e.kept = true) :
    keptCount (dropEntry run e.index) < keptCount run := by
  rw [dropEntry_eq, keptCount_setOverlaps]
  have few : ∀ l : List RunEntry, keptCount (l.map fun x => x.dropAt e.index) ≤ keptCount l := by
    intro l
    unfold keptCount
    rw [← List.countP_eq_length_filter, ← List.countP_eq_length_filter, List.countP_map]
    refine List.countP_mono_left fun x _ still => ?_
    simp only [Function.comp_apply, RunEntry.dropAt] at still
    split at still
    · cases still
    · exact still
  induction run with
  | nil => cases inside
  | cons x run ih =>
    have gone : ∀ y : RunEntry, y.index = e.index → (y.dropAt e.index).kept = false := fun y same => by
      unfold RunEntry.dropAt
      rw [if_pos same]
      rfl
    rcases List.mem_cons.1 inside with rfl | inside
    · have := few run
      unfold keptCount at this ⊢
      rw [List.map_cons, List.filter_cons_of_neg (by simp [gone e rfl]), List.filter_cons_of_pos kept, List.length_cons]
      omega
    · have := ih inside
      unfold keptCount at this ⊢
      rw [List.map_cons]
      by_cases xKept : x.kept = true
      · rw [List.filter_cons_of_pos xKept, List.length_cons]
        refine lt_of_le_of_lt (?_ : _ ≤ ((run.map fun x => x.dropAt e.index).filter RunEntry.kept).length + 1) (by omega)
        rw [List.filter_cons]
        split <;> simp
      · have still : (x.dropAt e.index).kept = false := by
          unfold RunEntry.dropAt
          split
          · rfl
          · simpa using xKept
        rw [List.filter_cons_of_neg (by simp [still]), List.filter_cons_of_neg xKept]
        exact this

theorem dropAgainst_succ (items : List PlanItem) (w fuel : Nat) (run : List RunEntry) : dropAgainst items w (fuel + 1) run =
    if plannedDuration run ≤ w then run
    else match lastDroppable items run with
      | none => run
      | some e => dropAgainst items w fuel (dropEntry run e.index) := rfl

/-- Dropping drops only kept entries of droppable items, and sets overlaps. -/
theorem dropAgainst_fitted (items : List PlanItem) (w fuel : Nat) {run : List RunEntry}
    (sorted : (run.map RunEntry.index).Pairwise (· < ·)) :
    List.Forall₂ (Fitted fun i => droppableAt items i = true) run (dropAgainst items w fuel run) := by
  induction fuel generalizing run with
  | zero => exact List.forall₂_same.2 fun e _ => .refl _ e
  | succ fuel ih =>
    rw [dropAgainst_succ]
    split
    · exact List.forall₂_same.2 fun e _ => .refl _ e
    · cases last : lastDroppable items run with
      | none => exact List.forall₂_same.2 fun e _ => .refl _ e
      | some e =>
        obtain ⟨inside, kept, may, -⟩ := lastDroppable_some last
        have step := dropEntry_fitted (drops := fun i => droppableAt items i = true) sorted inside kept may
        exact forall₂_fitted_trans step (ih (by rw [map_index_of_fitted step]; exact sorted))

/-- Dropping leaves a list whose overlaps have been set. -/
theorem dropAgainst_overlaps (items : List PlanItem) (w fuel : Nat) {run : List RunEntry} (set : ∃ r, run = setOverlaps none r) :
    ∃ r, dropAgainst items w fuel run = setOverlaps none r := by
  induction fuel generalizing run with
  | zero => exact set
  | succ fuel ih =>
    rw [dropAgainst_succ]
    split
    · exact set
    · cases lastDroppable items run with
      | none => exact set
      | some e => exact ih ⟨_, rfl⟩

/-- Dropping ends in the window, or with no droppable entry left. -/
theorem dropAgainst_ends (items : List PlanItem) (w fuel : Nat) {run : List RunEntry} (enough : keptCount run ≤ fuel) :
    plannedDuration (dropAgainst items w fuel run) ≤ w ∨
      ∀ e ∈ dropAgainst items w fuel run, e.kept = true → droppableAt items e.index = false := by
  induction fuel generalizing run with
  | zero =>
    have empty : run.filter RunEntry.kept = [] := List.length_eq_zero_iff.1 (Nat.le_zero.1 enough)
    left
    show plannedDuration run ≤ w
    simp [plannedDuration, empty]
  | succ fuel ih =>
    rw [dropAgainst_succ]
    split
    · rename_i fits
      exact .inl fits
    · cases last : lastDroppable items run with
      | none => exact .inr fun e inside kept => lastDroppable_none last inside kept
      | some e =>
        obtain ⟨inside, kept, -, -⟩ := lastDroppable_some last
        exact ih (by have := keptCount_dropEntry inside kept; omega)

/-! ## Why an entry was dropped -/

/-- The droppable items above an index. -/
structure DropsAbove (items items' : List PlanItem) (j : Nat) : Prop where
  above : ∀ i, j < i → droppableAt items' i = droppableAt items i
  upTo : ∀ i, i ≤ j → droppableAt items' i = false

/-- An entry that has been dropped was dropped from a run list that was longer than the window, with every droppable entry behind it
gone: that is where dropping those alone ends. -/
theorem dropAgainst_dropped {items items' : List PlanItem} {w fuel : Nat} {run : List RunEntry} {j : Nat}
    (above : DropsAbove items items' j) (sorted : (run.map RunEntry.index).Pairwise (· < ·))
    (kept : ∃ e ∈ run, e.index = j ∧ e.kept = true)
    (gone : ∃ e ∈ dropAgainst items w fuel run, e.index = j ∧ e.kept = false) :
    w < plannedDuration (dropAgainst items' w fuel run) := by
  induction fuel generalizing run with
  | zero =>
    obtain ⟨e, inside, index, isKept⟩ := kept
    obtain ⟨x, member, same, unkept⟩ := gone
    rw [sorted_unique sorted member inside (same.trans index.symm), isKept] at unkept
    cases unkept
  | succ fuel ih =>
    obtain ⟨e, inside, index, isKept⟩ := kept
    have stays : ∀ x ∈ run, x.index = j → x.kept = true := fun x member same =>
      sorted_unique sorted member inside (same.trans index.symm) ▸ isKept
    rw [dropAgainst_succ] at gone ⊢
    by_cases fits : plannedDuration run ≤ w
    · rw [if_pos fits] at gone
      obtain ⟨x, member, same, unkept⟩ := gone
      rw [stays x member same] at unkept
      cases unkept
    · rw [if_neg fits] at gone ⊢
      cases last : lastDroppable items run with
      | none =>
        rw [last] at gone
        obtain ⟨x, member, same, unkept⟩ := gone
        rw [stays x member same] at unkept
        cases unkept
      | some d =>
        rw [last] at gone
        dsimp only at gone
        obtain ⟨dIn, dKept, dMay, highest⟩ := lastDroppable_some last
        have step := dropEntry_fitted (drops := fun i => droppableAt items i = true) sorted dIn dKept dMay
        have sorted' : ((dropEntry run d.index).map RunEntry.index).Pairwise (· < ·) := by rw [map_index_of_fitted step]; exact sorted
        by_cases own : d.index ≤ j
        · have none' : lastDroppable items' run = none := by
            rw [lastDroppable_eq, List.getLast?_eq_none_iff, List.filter_eq_nil_iff]
            intro x member both
            obtain ⟨xKept, xMay⟩ := Bool.and_eq_true_iff.1 both
            by_cases low : x.index ≤ j
            · rw [above.upTo _ low] at xMay
              cases xMay
            · have := highest sorted x member xKept (by rwa [above.above _ (by omega)] at xMay)
              omega
          rw [none']
          exact Nat.lt_of_not_le fits
        · have same : lastDroppable items' run = some d := by
            refine lastDroppable_highest sorted dIn dKept (by rw [above.above _ (by omega)]; exact dMay) fun x member xKept xMay => ?_
            by_cases low : x.index ≤ j
            · omega
            · exact highest sorted x member xKept (by rwa [above.above _ (by omega)] at xMay)
          rw [same]
          dsimp only
          obtain ⟨x, member, fitted⟩ := forall₂_mem_left (dropEntry_fitted (drops := (· = d.index)) sorted dIn dKept rfl) inside
          refine ih sorted' ⟨x, member, fitted.index.trans index, ?_⟩ gone
          rcases fitted with ⟨ov, rfl⟩ | ⟨-, same, -⟩
          · exact isKept
          · omega

/-! ## Resolving -/

/-- The window test of a usable clip, with the entry that makes it usable. -/
theorem usable_cases (d : Directory) (a : AirTime) (clip : Nat) : d.usable clip a = true ↔
    clip ≠ 0 ∧ d.state = .complete ∧ ∃ x, d.find clip = some x ∧ x.state = .ready ∧
      (∀ b, x.header.notBefore = some b → b.le a = true) ∧ ∀ b, x.header.notAfter = some b → a.le b = true := by
  by_cases named : clip = 0
  · simp [named, Directory.usable]
  · rw [usable_iff d named a]
    simp [named]

theorem effectiveLength_eq (h : ClipHeader) (c : LengthChoice) : effectiveLength h c =
    (if c = .short then h.shortEnd.getD h.length else h.length, decide (c = .short ∧ h.shortEnd = none)) := by
  cases c with
  | full => rfl
  | short => cases short : h.shortEnd <;> simp [effectiveLength, short]

/-- An item resolved to a clip of the directory. -/
def resolvedTo (i : Nat) (it : PlanItem) (clip : Nat) (h : ClipHeader) (substituted : Bool) : RunEntry :=
  { entryOf i it with
    clip := clip, effective := some (if it.length = .short then h.shortEnd.getD h.length else h.length)
    flags := { RunFlags.clear with substituted := substituted, shortAbsent := decide (it.length = .short ∧ h.shortEnd = none) } }

theorem resolveTo_found {d : Directory} {clip : Nat} {x : DirEntry} (found : d.find clip = some x) (i : Nat) (it : PlanItem)
    (substituted : Bool) : resolveTo d i it clip substituted = resolvedTo i it clip x.header substituted := by
  simp only [resolveTo, found, effectiveLength_eq, resolvedTo]

/-- What an item resolves to: its main clip, its substitute, or nothing. -/
theorem resolve_main {d : Directory} {a : AirTime} {it : PlanItem} (i : Nat) (main : d.usable it.clip a = true) :
    ∃ x, d.find it.clip = some x ∧ resolve d a i it = resolvedTo i it it.clip x.header false := by
  obtain ⟨-, -, x, found, -⟩ := (usable_cases d a it.clip).1 main
  exact ⟨x, found, by rw [resolve, if_pos main, resolveTo_found found]⟩

theorem resolve_substitute {d : Directory} {a : AirTime} {it : PlanItem} (i : Nat) (main : ¬ d.usable it.clip a = true)
    (other : d.usable it.substitute a = true) :
    ∃ x, d.find it.substitute = some x ∧ resolve d a i it = resolvedTo i it it.substitute x.header true := by
  obtain ⟨-, -, x, found, -⟩ := (usable_cases d a it.substitute).1 other
  exact ⟨x, found, by rw [resolve, if_neg main, if_pos other, resolveTo_found found]⟩

theorem resolve_skipped {d : Directory} {a : AirTime} {it : PlanItem} (i : Nat) (main : ¬ d.usable it.clip a = true)
    (other : ¬ d.usable it.substitute a = true) :
    resolve d a i it = { entryOf i it with status := .skipped (skipReason d it.clip) } := by
  rw [resolve, if_neg main, if_neg other]

/-- Every entry is resolved to a clip and PENDING, or SKIPPED without an effective length. -/
theorem resolve_cases (d : Directory) (a : AirTime) (i : Nat) (it : PlanItem) : (resolve d a i it).index = i ∧
    ((resolve d a i it).status = .pending ∨ (∃ why, why ≠ .dropped ∧ (resolve d a i it).status = .skipped why) ∧
      (resolve d a i it).effective = none) := by
  by_cases main : d.usable it.clip a = true
  · obtain ⟨x, -, form⟩ := resolve_main i main
    rw [form]
    exact ⟨rfl, .inl rfl⟩
  · by_cases other : d.usable it.substitute a = true
    · obtain ⟨x, -, form⟩ := resolve_substitute i main other
      rw [form]
      exact ⟨rfl, .inl rfl⟩
    · rw [resolve_skipped i main other]
      refine ⟨rfl, .inr ⟨⟨skipReason d it.clip, ?_, rfl⟩, rfl⟩⟩
      unfold skipReason
      repeat' split
      all_goals exact nofun

theorem resolveAll_get (d : Directory) (a : AirTime) (k : Nat) (items : List PlanItem) (i : Nat) :
    (resolveAll d a k items)[i]? = items[i]?.map (resolve d a (k + i)) := by
  induction items generalizing k i with
  | nil => rfl
  | cons it items ih =>
    cases i with
    | zero => rfl
    | succ i =>
      show (resolveAll d a (k + 1) items)[i]? = _
      rw [ih, List.getElem?_cons_succ, show k + 1 + i = k + (i + 1) by omega]

theorem resolveAll_index (d : Directory) (a : AirTime) (k : Nat) (items : List PlanItem) :
    (resolveAll d a k items).map RunEntry.index = List.range' k items.length := by
  induction items generalizing k with
  | nil => rfl
  | cons it items ih =>
    rw [resolveAll, List.map_cons, ih, (resolve_cases d a k it).1, List.length_cons, List.range'_succ]

theorem resolveAll_sorted (d : Directory) (a : AirTime) (k : Nat) (items : List PlanItem) :
    ((resolveAll d a k items).map RunEntry.index).Pairwise (· < ·) := by
  rw [resolveAll_index]
  exact List.pairwise_lt_range'

theorem mem_resolveAll {d : Directory} {a : AirTime} {k : Nat} {items : List PlanItem} {e : RunEntry} (inside : e ∈ resolveAll d a k items) :
    ∃ i it, e = resolve d a i it := by
  induction items generalizing k with
  | nil => cases inside
  | cons it items ih =>
    rcases List.mem_cons.1 inside with rfl | inside
    · exact ⟨k, it, rfl⟩
    · exact ih inside

/-! ## What fitting gives -/

/-- The run list before anything is dropped. -/
def undropped (pl : Plan) (d : Directory) (a : AirTime) : List RunEntry := setOverlaps none (resolveAll d a 0 pl.items)

theorem fit_eq (pl : Plan) (d : Directory) (a : AirTime) (w : Nat) :
    fit pl d a w = if w = 0 then undropped pl d a else dropAgainst pl.items (w * 48) pl.items.length (undropped pl d a) := rfl

theorem undropped_sorted (pl : Plan) (d : Directory) (a : AirTime) : ((undropped pl d a).map RunEntry.index).Pairwise (· < ·) := by
  rw [undropped, map_index_of_fitted (setOverlaps_fitted (fun _ => True) none _)]
  exact resolveAll_sorted d a 0 pl.items

theorem fit_fitted (pl : Plan) (d : Directory) (a : AirTime) (w : Nat) :
    List.Forall₂ (Fitted fun i => w ≠ 0 ∧ droppableAt pl.items i = true) (resolveAll d a 0 pl.items) (fit pl d a w) := by
  rw [fit_eq]
  split
  · exact setOverlaps_fitted _ none _
  · rename_i limited
    refine forall₂_fitted_trans (setOverlaps_fitted _ none _) ?_
    have dropped := dropAgainst_fitted pl.items (w * 48) pl.items.length (undropped_sorted pl d a)
    refine dropped.imp fun e x fitted => ?_
    rcases fitted with same | ⟨kept, may, form⟩
    · exact .inl same
    · exact .inr ⟨kept, ⟨limited, may⟩, form⟩

theorem fit_sorted (pl : Plan) (d : Directory) (a : AirTime) (w : Nat) : ((fit pl d a w).map RunEntry.index).Pairwise (· < ·) := by
  rw [map_index_of_fitted (fit_fitted pl d a w)]
  exact resolveAll_sorted d a 0 pl.items

theorem fit_overlaps (pl : Plan) (d : Directory) (a : AirTime) (w : Nat) : ∃ r, fit pl d a w = setOverlaps none r := by
  rw [fit_eq]
  split
  · exact ⟨_, rfl⟩
  · exact dropAgainst_overlaps _ _ _ ⟨_, rfl⟩

/-- An entry that fitting leaves is PENDING, or SKIPPED without an effective length and without an overlap. -/
theorem fit_status {pl : Plan} {d : Directory} {a : AirTime} {w : Nat} {e : RunEntry} (inside : e ∈ fit pl d a w) :
    e.status = .pending ∧ e.kept = true ∨ (∃ why, e.status = .skipped why) ∧ e.kept = false ∧ e.effective = none ∧ e.overlap = 0 := by
  obtain ⟨x, member, fitted⟩ := forall₂_mem (fit_fitted pl d a w) inside
  obtain ⟨i, it, rfl⟩ := mem_resolveAll member
  obtain ⟨r, set⟩ := fit_overlaps pl d a w
  have still : e.kept = false → e.overlap = 0 := fun unkept => setOverlaps_unkept (set ▸ inside) unkept
  rcases fitted with ⟨ov, rfl⟩ | ⟨-, -, ov, rfl⟩
  · rcases (resolve_cases d a i it).2 with pending | ⟨⟨why, -, skipped⟩, none'⟩
    · exact .inl ⟨pending, by simp [RunEntry.kept, pending]⟩
    · have unkept : RunEntry.kept { resolve d a i it with overlap := ov } = false := by simp [RunEntry.kept, skipped]
      exact .inr ⟨⟨why, skipped⟩, unkept, none', still unkept⟩
  · exact .inr ⟨⟨_, rfl⟩, rfl, rfl, still rfl⟩

/-- The kept entries of a fitted run list are the PENDING ones. -/
theorem fit_kept (pl : Plan) (d : Directory) (a : AirTime) (w : Nat) :
    (fit pl d a w).filter (fun e => e.status == .pending) = (fit pl d a w).filter RunEntry.kept := by
  refine List.filter_congr fun e inside => ?_
  rcases fit_status inside with ⟨pending, kept⟩ | ⟨⟨why, skipped⟩, unkept, -⟩
  · rw [pending, kept]
    rfl
  · rw [skipped, unkept]
    rfl

theorem keptCount_undropped (pl : Plan) (d : Directory) (a : AirTime) : keptCount (undropped pl d a) ≤ pl.items.length := by
  rw [undropped, keptCount_setOverlaps]
  refine (List.length_filter_le _ _).trans ?_
  have := congrArg List.length (resolveAll_index d a 0 pl.items)
  simpa using this.le

/-- The items of a plan of which none up to an index may be dropped. -/
def laterDroppable (items : List PlanItem) (i : Nat) : List PlanItem :=
  items.mapIdx fun j it => if j ≤ i then { it with droppable := false } else it

theorem dropsAbove_later (items : List PlanItem) (i : Nat) : DropsAbove items (laterDroppable items i) i := by
  constructor
  · intro j above
    unfold droppableAt laterDroppable
    rw [List.getElem?_mapIdx]
    cases items[j]? with
    | none => rfl
    | some it => simp [Nat.not_le.2 above]
  · intro j upTo
    unfold droppableAt laterDroppable
    rw [List.getElem?_mapIdx]
    cases items[j]? with
    | none => rfl
    | some it => simp [upTo]

/-- Whether an item may be dropped does not tell on what it is resolved to. -/
theorem resolveAll_later (d : Directory) (a : AirTime) (items : List PlanItem) (i : Nat) :
    resolveAll d a 0 (laterDroppable items i) = resolveAll d a 0 items := by
  apply List.ext_getElem?
  intro j
  rw [resolveAll_get, resolveAll_get, laterDroppable, List.getElem?_mapIdx]
  cases items[j]? with
  | none => rfl
  | some it =>
    simp only [Option.map_some, Option.some.injEq]
    split <;> rfl

/-- A dropped entry was dropped because the run list was too long without it. -/
theorem fit_dropped {pl : Plan} {d : Directory} {a : AirTime} {w : Nat} {e : RunEntry} (inside : e ∈ fit pl d a w)
    (dropped : e.status = .skipped .dropped) :
    w * 48 < plannedDuration (fit { pl with items := laterDroppable pl.items e.index } d a w) := by
  have same : undropped { pl with items := laterDroppable pl.items e.index } d a = undropped pl d a := by
    rw [undropped, resolveAll_later]
    rfl
  obtain ⟨x, member, fitted⟩ := forall₂_mem (fit_fitted pl d a w) inside
  have kept : x.kept = true ∧ w ≠ 0 := by
    rcases fitted with ⟨ov, rfl⟩ | ⟨kept, ⟨limited, -⟩, -⟩
    · obtain ⟨i, it, rfl⟩ := mem_resolveAll member
      rcases (resolve_cases d a i it).2 with pending | ⟨⟨why, other, skipped⟩, -⟩
      · exact absurd (pending.symm.trans dropped) nofun
      · exact absurd (EntryStatus.skipped.inj (skipped.symm.trans dropped)) other
    · exact ⟨kept, limited⟩
  obtain ⟨y, yIn, overlapped⟩ := forall₂_mem_left (setOverlaps_fitted (fun _ => False) none (resolveAll d a 0 pl.items)) member
  have yKept : y.index = e.index ∧ y.kept = true := by
    refine ⟨overlapped.index.trans fitted.index.symm, ?_⟩
    rcases overlapped with ⟨ov, rfl⟩ | ⟨-, never, -⟩
    · exact kept.1
    · exact never.elim
  have unkept : e.kept = false := by simp [RunEntry.kept, dropped]
  rw [fit_eq, if_neg kept.2] at inside ⊢
  rw [same, show (laterDroppable pl.items e.index).length = pl.items.length by simp [laterDroppable]]
  exact dropAgainst_dropped (dropsAbove_later pl.items e.index) (undropped_sorted pl d a) ⟨y, yIn, yKept.1, yKept.2⟩
    ⟨e, inside, rfl, unkept⟩

/-! ## The fields of a fitted entry -/

/-- The fields of a run entry that fitting copies from its item (R56). -/
structure CopiesItem (i : Nat) (it : PlanItem) (e : RunEntry) : Prop where
  index : e.index = i
  length : e.length = it.length
  transition : e.transition = it.transition
  samples : e.transitionSamples = it.transitionMs * 48
  level : e.level = it.level
  group : e.group = it.group
  link : e.link = it.link
  start : e.start = none
  startAir : e.startAir = none
  played : e.played = 0

theorem resolve_copies (d : Directory) (a : AirTime) (i : Nat) (it : PlanItem) : CopiesItem i it (resolve d a i it) := by
  by_cases main : d.usable it.clip a = true
  · obtain ⟨x, -, form⟩ := resolve_main i main
    rw [form]
    exact ⟨rfl, rfl, rfl, rfl, rfl, rfl, rfl, rfl, rfl, rfl⟩
  · by_cases other : d.usable it.substitute a = true
    · obtain ⟨x, -, form⟩ := resolve_substitute i main other
      rw [form]
      exact ⟨rfl, rfl, rfl, rfl, rfl, rfl, rfl, rfl, rfl, rfl⟩
    · rw [resolve_skipped i main other]
      exact ⟨rfl, rfl, rfl, rfl, rfl, rfl, rfl, rfl, rfl, rfl⟩

/-- What fitting keeps of an entry: its item's fields, its clip and its flags, and, unless it drops it, its status and length. -/
structure KeepsEntry (drops : Nat → Prop) (e x : RunEntry) : Prop where
  copies : ∀ i it, CopiesItem i it e → CopiesItem i it x
  clip : x.clip = e.clip
  flags : x.flags = e.flags
  status : x.status = e.status ∧ x.effective = e.effective ∨ e.kept = true ∧ drops e.index ∧ x.status = .skipped .dropped

theorem Fitted.keeps {drops : Nat → Prop} {e x : RunEntry} (fitted : Fitted drops e x) : KeepsEntry drops e x := by
  rcases fitted with ⟨ov, rfl⟩ | ⟨kept, may, ov, rfl⟩
  · exact ⟨fun i it copies => ⟨copies.1, copies.2, copies.3, copies.4, copies.5, copies.6, copies.7, copies.8, copies.9, copies.10⟩, rfl, rfl,
      .inl ⟨rfl, rfl⟩⟩
  · exact ⟨fun i it copies => ⟨copies.1, copies.2, copies.3, copies.4, copies.5, copies.6, copies.7, copies.8, copies.9, copies.10⟩, rfl, rfl,
      .inr ⟨kept, may, rfl⟩⟩

/-- An entry that was resolved to a clip of the directory. -/
theorem KeepsEntry.resolved {drops : Nat → Prop} {d : Directory} {i clip : Nat} {it : PlanItem} {x : DirEntry} {sub : Bool} {e : RunEntry}
    (keeps : KeepsEntry drops (resolvedTo i it clip x.header sub) e) (found : d.find clip = some x) :
    e.clip = clip ∧ e.flags.substituted = sub ∧ (e.status = .pending ∨ e.status = .skipped .dropped ∧ drops i) ∧
    ∀ y, d.find e.clip = some y → (e.flags.shortAbsent = true ↔ it.length = .short ∧ y.header.shortEnd = none) ∧
      (e.status = .pending →
        e.effective = some (if it.length = .short then y.header.shortEnd.getD y.header.length else y.header.length)) := by
  refine ⟨keeps.clip, by rw [keeps.flags]; rfl, ?_, fun y isY => ?_⟩
  · rcases keeps.status with ⟨same, -⟩ | ⟨-, may, gone⟩
    · exact .inl same
    · exact .inr ⟨gone, may⟩
  · rw [keeps.clip] at isY
    cases found.symm.trans isY
    refine ⟨by rw [keeps.flags]; exact decide_eq_true_iff, fun pending => ?_⟩
    rcases keeps.status with ⟨-, same⟩ | ⟨-, -, gone⟩
    · exact same
    · rw [pending] at gone
      cases gone

theorem skipReason_eq (d : Directory) (clip : Nat) : skipReason d clip =
    if d.state = .scanning then .absent
    else match d.find clip with
      | none => .absent
      | some x => match x.state with
        | .unverified => .absent
        | .retiring => .absent
        | .suspect => .faulty
        | .bad => .faulty
        | .ready => .window := by
  unfold skipReason
  simp only [beq_iff_eq] <;> rfl

/-- Where a plan is found, a PREPARE opens its break and primes the first kept entry. -/
theorem arm_found {p : Play} {r : Region} {n : Fin 16} {pl : Plan} {c : PendingCue} (t : Now) (found : p.findPlan r c.breakId = some n)
    (planned : (p.slot r n).plan = some pl) :
    p.arm t r c = ((p.setSlot r n { p.slot r n with state := .inUse }).setRegion r { p.region r with
      brk := some (newBreak c.breakId n (fit pl p.dir t.air c.nominal)), state := .primed,
      armDeadline := some (t.count + (p.region r).config.armTimeoutS * 48000) }).primeFirst t r := by
  unfold Play.arm
  rw [found]
  dsimp only
  unfold Play.openBreak
  rw [planned]
  dsimp only
  rw [Play.takeSlot, Play.modRegion_eq, Play.modRegion_eq, Play.setRegion_setRegion, Play.region_setRegion, if_pos rfl, Play.region_setSlot]
  unfold RegionRec.armFrom
  dsimp only
  rw [planned]

/-- Priming the first kept entry, or the filler, changes the home voice only. -/
theorem within_primeFirst (p : Play) (t : Now) (r : Region) : Within r (· = homeVoice r) p (p.primeFirst t r) := by
  unfold Play.primeFirst Play.withBreak
  split
  · exact .refl r _ p
  · dsimp only
    split
    · exact within_primeVoice p r _ _
    · split
      · exact within_primeVoice p r _ _
      · exact .refl r _ p

theorem region_primeFirst (p : Play) (t : Now) (r q : Region) : (p.primeFirst t r).region q = p.region q := by
  unfold Play.primeFirst Play.withBreak
  split
  · rfl
  · dsimp only
    split
    · rfl
    · split <;> rfl

theorem primeFirst_pending {p : Play} {r : Region} {b : OpenBreak} {e : RunEntry} (t : Now) (isOpen : (p.region r).brk = some b)
    (next : nextPending b.run = some e) : p.primeFirst t r = p.primeVoice (homeVoice r) (p.primeOf e e.level) := by
  unfold Play.primeFirst
  rw [withBreak_of _ isOpen, next]

/-- A cue that is due is marked and acts on its region. -/
theorem exec_cueDispatch {s : State} {r : Region} {c : PendingCue} (assembling : s.assembling = true) (due : s.dueCue r = some c) :
    exec (.cueDispatch r) s =
      .next (({ s with cues := s.cues.mark c r } : State).after (s.play.onCue s.now r c (c.lateness s.periodSeq))) := by
  show execCueDispatch r s = _
  unfold execCueDispatch
  rw [due]
  dsimp only
  rw [if_pos assembling]
  rfl

theorem onCue_prepare {p : Play} {r : Region} {c : PendingCue} (t : Now) (lateness : Nat) (kind : c.kind = .prepare)
    (state : (p.region r).state = .network) : p.onCue t r c lateness = p.arm t r c := by
  unfold Play.onCue
  rw [kind]
  dsimp only
  unfold Play.onPrepare
  rw [state]

/-- A PREPARE in NETWORK, as O16 states it. -/
theorem prepare_arms (s : State) (r : Region) (c : PendingCue) (assembling : s.assembling = true) (due : s.dueCue r = some c)
    (kind : c.kind = .prepare) (state : (s.play.region r).state = .network) :
    exec (.cueDispatch r) s = .next (({ s with cues := s.cues.mark c r } : State).after (s.play.arm s.now r c)) := by
  rw [exec_cueDispatch assembling due, onCue_prepare _ _ kind state]

/-- Settles O16: the arming by what the Plan Store finds, and fitting by its relation to what the items resolve to. -/
theorem prepareArmsRegion : Obligations.PrepareArmsRegion := by
  unfold Obligations.PrepareArmsRegion
  refine ⟨fun s r c assembling due kind state => ?_, fun pl d a w i it item => ?_, usable_cases, fun pl d a w => ?_⟩
  · refine ⟨s.play.arm s.now r c, prepare_arms s r c assembling due kind state, fun none' => by unfold Play.arm; rw [none'],
      fun n pl found planned => ?_⟩
    rw [arm_found s.now found planned]
    generalize hq : (s.play.setSlot r n { s.play.slot r n with state := .inUse }).setRegion r { s.play.region r with
      brk := some (newBreak c.breakId n (fit pl s.play.dir s.now.air c.nominal)), state := .primed,
      armDeadline := some (s.now.count + (s.play.region r).config.armTimeoutS * 48000) } = q
    have within := within_primeFirst q s.now r
    have record : (q.primeFirst s.now r).region r = q.region r := region_primeFirst q s.now r r
    have slots : ∀ x m, (q.primeFirst s.now r).slot x m = if r = x ∧ n = m then { s.play.slot r n with state := .inUse } else s.play.slot x m :=
      fun x m => by
        rw [slot_of_plans within.plans, ← hq]
        exact Play.slot_setSlot s.play r x n m _
    have own : q.region r = { s.play.region r with
        brk := some (newBreak c.breakId n (fit pl s.play.dir s.now.air c.nominal)), state := .primed,
        armDeadline := some (s.now.count + (s.play.region r).config.armTimeoutS * 48000) } := by
      rw [← hq, Play.region_setRegion, if_pos rfl]
    refine ⟨?_, fun x m other => ?_, by rw [record, own], by rw [record, own], by rw [record, own], by rw [record, own]; rfl,
      ⟨newBreak c.breakId n (fit pl s.play.dir s.now.air c.nominal), by rw [record, own], rfl, rfl, rfl, rfl, rfl, fun e next idle => ?_⟩,
      fun x other => ?_, fun v other => ?_, within.log.trans (by rw [← hq]; rfl), within.gates.trans (by rw [← hq]; rfl),
      within.dir.trans (by rw [← hq]; rfl)⟩
    · rw [slots, if_pos ⟨rfl, rfl⟩, ← planned]
    · rw [slots, if_neg]
      rintro ⟨rfl, rfl⟩
      exact other.elim (· rfl) (· rfl)
    · rw [primeFirst_pending (b := newBreak c.breakId n (fit pl s.play.dir s.now.air c.nominal)) s.now (by rw [own]) next]
      have home : q.voice (homeVoice r) = s.play.voice (homeVoice r) := by rw [← hq]; rfl
      have primed := primedAs_primeVoice (q.primeOf e e.level) (p := q) (v := homeVoice r) (by rw [home, idle]; exact nofun)
      obtain ⟨format, trim, page, fields⟩ := primeOf_fields q e e.level
      rw [fields] at primed ⊢
      exact ⟨primed.state, primed.clip, primed.pos, primed.endPos, primed.fader, primed.group, primed.loop, primed.ring⟩
    · rw [within.regions x other, ← hq, Play.region_setRegion, if_neg (Ne.symm other)]
      rfl
    · rw [within.voices v other, ← hq]
      rfl
  · have resolved : (resolveAll d a 0 pl.items)[i]? = some (resolve d a i it) := by rw [resolveAll_get, item, Option.map_some, Nat.zero_add]
    obtain ⟨e, found, fitted⟩ := forall₂_get (fit_fitted pl d a w) resolved
    have keeps := fitted.keeps
    have copies := keeps.copies i it (resolve_copies d a i it)
    have count : (fit pl d a w).length = pl.items.length := by
      have := congrArg List.length (map_index_of_fitted (fit_fitted pl d a w))
      rw [resolveAll_index] at this
      simpa using this
    refine ⟨e, found, count, copies.index, copies.length, copies.transition, copies.samples, copies.level, copies.group, copies.link,
      copies.start, copies.startAir, copies.played, ?_⟩
    have unkept : e.status ≠ .pending → e.effective = none ∧ e.overlap = 0 := fun not => by
      rcases fit_status (List.mem_of_getElem? found) with ⟨pending, -⟩ | ⟨-, -, none', zero⟩
      · exact absurd pending not
      · exact ⟨none', zero⟩
    have may : droppableAt pl.items i = true → it.droppable = true := fun may => by rwa [droppableAt, item] at may
    by_cases main : d.usable it.clip a = true
    · obtain ⟨x, isX, form⟩ := resolve_main i main
      obtain ⟨clip, substituted, status, rest⟩ := (form ▸ keeps).resolved isX
      exact ⟨by simp [substituted, main], by simp [substituted, clip], fun not => absurd main not,
        fun _ => status.imp_right fun ⟨gone, limited, drops⟩ => ⟨gone, limited, may drops⟩, unkept, fun y _ isY => rest y isY⟩
    · by_cases other : d.usable it.substitute a = true
      · obtain ⟨x, isX, form⟩ := resolve_substitute i main other
        obtain ⟨clip, substituted, status, rest⟩ := (form ▸ keeps).resolved isX
        exact ⟨by simp [substituted, main, other], by simp [substituted, clip], fun _ not => absurd other not,
          fun _ => status.imp_right fun ⟨gone, limited, drops⟩ => ⟨gone, limited, may drops⟩, unkept, fun y _ isY => rest y isY⟩
      · rw [resolve_skipped i main other] at keeps
        have substituted : e.flags.substituted = false := by rw [keeps.flags]; rfl
        refine ⟨by simp [substituted, other], by simp only [substituted, Bool.false_eq_true, if_false]; exact keeps.clip, fun _ _ => ?_,
          fun either => either.elim (absurd · main) (absurd · other), unkept, fun y either => either.elim (absurd · main) (absurd · other)⟩
        rcases keeps.status with ⟨same, -⟩ | ⟨kept, -⟩
        · rw [same]
          exact congrArg EntryStatus.skipped (skipReason_eq d it.clip)
        · cases kept
  · intro kept planned
    have keptEq : ∀ pl w, kept pl w = (fit pl d a w).filter RunEntry.kept := fun pl w => fit_kept pl d a w
    have plannedEq : ∀ pl w, planned pl w = plannedDuration (fit pl d a w) := fun pl w => by
      simp only [planned, keptEq]
      rfl
    obtain ⟨r, set⟩ := fit_overlaps pl d a w
    have chain := setOverlaps_overlapping none r
    rw [← set, ← keptEq] at chain
    refine ⟨fun e first => ?_, fun i x e before behind => ?_, fun limited => ?_, fun e inside dropped => ?_⟩
    · cases run : kept pl w with
      | nil => rw [run] at first; cases first
      | cons y rest =>
        rw [run] at first chain
        cases first
        exact chain.1
    · rw [chain.next before behind, overlapWith_kept] <;> rfl
    · rw [plannedEq, fit_eq, if_neg limited]
      refine (dropAgainst_ends pl.items (w * 48) pl.items.length (keptCount_undropped pl d a)).imp_right fun none' e it inside item => ?_
      rw [keptEq, fit_eq, if_neg limited] at inside
      obtain ⟨member, isKept⟩ := List.mem_filter.1 inside
      have := none' e member isKept
      rwa [droppableAt, item] at this
    · rw [plannedEq]
      exact fit_dropped inside dropped

end Sys2Proof.Machine

/-! # What the on-air operations are made of: the layer under the step invariants of the slots, the queues and the directory -/

namespace Sys2Proof.Machine

/-! ## The small steps -/

/-- The slot that a break holds, and the places of its run entries. -/
def OpenBreak.shape (b : OpenBreak) : Fin 16 × List Nat := (b.slot, b.run.map RunEntry.index)

/-- NETWORK and BYPASS, the states without a break. -/
def RegionState.off (st : RegionState) : Prop := st = .network ∨ st = .bypass

/-- A change of a region that opens and closes no break. -/
structure KeepsBreak (x y : RegionRec) : Prop where
  shape : y.brk.map OpenBreak.shape = x.brk.map OpenBreak.shape
  state : (y.state.off ↔ x.state.off) ∨ x.brk ≠ none ∧ ¬ y.state.off

theorem KeepsBreak.refl (x : RegionRec) : KeepsBreak x x := ⟨rfl, .inl Iff.rfl⟩

theorem KeepsBreak.isOpen {x y : RegionRec} (keeps : KeepsBreak x y) : y.brk ≠ none ↔ x.brk ≠ none := by
  have same := congrArg Option.isSome keeps.shape
  rw [Option.isSome_map, Option.isSome_map] at same
  rw [← Option.isSome_iff_ne_none, ← Option.isSome_iff_ne_none, same]

theorem KeepsBreak.trans {x y z : RegionRec} (first : KeepsBreak x y) (second : KeepsBreak y z) : KeepsBreak x z := by
  refine ⟨second.shape.trans first.shape, ?_⟩
  rcases second.state with same | ⟨isOpen, on⟩
  · rcases first.state with same' | ⟨isOpen, on⟩
    · exact .inl (same.trans same')
    · exact .inr ⟨isOpen, fun off => on (same.1 off)⟩
  · exact .inr ⟨first.isOpen.1 isOpen, on⟩

/-- Only what the step invariants do not look at has changed, and the regions within their breaks. -/
structure Steady (p q : Play) : Prop where
  regions : ∀ r, KeepsBreak (p.region r) (q.region r)
  plans : q.plans = p.plans
  agent : q.agent = p.agent
  dir : q.dir = p.dir

/-- A small step on the air: a steady change, a notice raised, or a fault reported. -/
inductive CalmStep (p : Play) : Play → Prop
  | steady {q : Play} (same : Steady p q) : CalmStep p q
  | notice (t : Now) (tag : Nat) (n : Notice) : CalmStep p (p.raise t tag n)
  | fault (t : Now) (clip : Nat) : CalmStep p (p.reportFault t clip)

/-- Some small steps. -/
def Calm : Play → Play → Prop := Relation.ReflTransGen CalmStep

theorem Calm.refl (p : Play) : Calm p p := Relation.ReflTransGen.refl

theorem Calm.trans {p q u : Play} (first : Calm p q) (second : Calm q u) : Calm p u := Relation.ReflTransGen.trans first second

theorem Calm.steady {p q u : Play} (before : Calm p q) (same : Steady q u) : Calm p u := Relation.ReflTransGen.tail before (.steady same)

theorem Calm.raise {p q : Play} (before : Calm p q) (t : Now) (tag : Nat) (n : Notice) : Calm p (q.raise t tag n) :=
  Relation.ReflTransGen.tail before (.notice t tag n)

theorem Calm.reportFault {p q : Play} (before : Calm p q) (t : Now) (clip : Nat) : Calm p (q.reportFault t clip) :=
  Relation.ReflTransGen.tail before (.fault t clip)

theorem reportFault_form (p : Play) (t : Now) (clip : Nat) : ∃ dir agent, p.reportFault t clip = { p with dir := dir, agent := agent } := by
  unfold Play.reportFault
  split
  · exact ⟨_, _, rfl⟩
  · dsimp only
    split
    · exact ⟨_, _, rfl⟩
    · exact ⟨_, _, rfl⟩

/-- Small steps open and close no break, and change no slot. -/
theorem Calm.keeps {p q : Play} (calm : Calm p q) : (∀ r, KeepsBreak (p.region r) (q.region r)) ∧ q.plans = p.plans := by
  induction calm with
  | refl => exact ⟨fun r => .refl _, rfl⟩
  | tail _ step ih =>
    obtain ⟨regions, plans⟩ := ih
    cases step with
    | steady same => exact ⟨fun r => (regions r).trans (same.regions r), same.plans.trans plans⟩
    | notice t tag n => exact ⟨regions, plans⟩
    | fault t clip =>
      obtain ⟨dir, agent, form⟩ := reportFault_form _ t clip
      rw [form]
      exact ⟨regions, plans⟩

theorem Calm.isOpen {p q : Play} (calm : Calm p q) (r : Region) : (q.region r).brk ≠ none ↔ (p.region r).brk ≠ none := (calm.keeps.1 r).isOpen

theorem Calm.foldl {α : Type} {p : Play} {f : Play → α → Play} (each : ∀ q x, Calm p q → Calm p (f q x)) :
    ∀ (l : List α) {q : Play}, Calm p q → Calm p (l.foldl f q)
  | [], _, before => before
  | x :: l, _, before => Calm.foldl each l (each _ x before)

theorem Calm.withBreak {p q : Play} (before : Calm p q) (r : Region) {f : OpenBreak → Play}
    (acts : ∀ b, (q.region r).brk = some b → Calm p (f b)) : Calm p (q.withBreak r f) := by
  unfold Play.withBreak
  split
  · exact before
  · rename_i b isOpen
    exact acts b isOpen

section
variable {p q : Play} (before : Calm p q)
include before

/-! ## The updates -/

theorem Calm.modRegion (r : Region) (f : RegionRec → RegionRec) (keeps : KeepsBreak (q.region r) (f (q.region r))) :
    Calm p (q.modRegion r f) := by
  refine before.steady ⟨fun x => ?_, rfl, rfl, rfl⟩
  rw [Play.region_modRegion]
  split
  · rename_i same
    exact same ▸ keeps
  · exact .refl _

theorem Calm.modBreak (r : Region) (f : OpenBreak → OpenBreak) (keeps : ∀ x, (f x).shape = x.shape) : Calm p (q.modBreak r f) := by
  refine before.modRegion r _ ⟨?_, .inl Iff.rfl⟩
  simp only [Option.map_map]
  congr 1
  exact funext keeps

theorem Calm.modVoice (v : VoiceNo) (f : Voice → Voice) : Calm p (q.modVoice v f) := before.steady ⟨fun _ => .refl _, rfl, rfl, rfl⟩

theorem Calm.withWaiters (l : List Waiter) : Calm p { q with waiters := l } := before.steady ⟨fun _ => .refl _, rfl, rfl, rfl⟩

theorem Calm.withLog (l : AsRunLog) : Calm p { q with log := l } := before.steady ⟨fun _ => .refl _, rfl, rfl, rfl⟩

theorem Calm.withGates (g : Vector Gate 7) : Calm p { q with gates := g } := before.steady ⟨fun _ => .refl _, rfl, rfl, rfl⟩

theorem Calm.setGate (g : LinkGroup) (x : Gate) : Calm p (q.setGate g x) := before.withGates _

theorem Calm.modGate (g : LinkGroup) (f : Gate → Gate) : Calm p (q.modGate g f) := before.withGates _

theorem Calm.leaveGates (r : Region) : Calm p (q.leaveGates r) := by
  obtain ⟨gates, form⟩ := leaveGates_form q r
  rw [form]
  exact before.withGates gates

theorem Calm.withdraw (r : Region) : Calm p (q.withdraw r) := before.withWaiters _

theorem Calm.released {u : Play} (released : Released q u) : Calm p u := by
  refine before.steady ⟨fun r => ?_, released.plans, released.agent, released.dir⟩
  obtain ⟨pool, lead, region⟩ := released.regions r
  rw [region]
  exact ⟨rfl, .inl Iff.rfl⟩

theorem Calm.releaseVoice (v : VoiceNo) : Calm p (q.releaseVoice v) := before.released (released_releaseVoice q v)

theorem Calm.giveBackPool (r : Region) : Calm p (q.giveBackPool r) := before.released (released_giveBackPool q r)

theorem Calm.primeVoice (v : VoiceNo) (u : Prime) : Calm p (q.primeVoice v u) := before.modVoice v _

theorem Calm.takeLog (t : Now) (l : AsRunLog) : Calm p (q.takeLog t l) := by
  unfold Play.takeLog
  split
  · exact (before.withLog _).raise t 0 _
  · exact before.withLog l

theorem Calm.appendRecord (t : Now) (b : AsRunBody) : Calm p (q.appendRecord t b) := before.takeLog t _

theorem Calm.appendItem (t : Now) (r : Region) (x : ItemRecord) : Calm p (q.appendItem t r x) :=
  before.withBreak r fun _ _ => (before.takeLog t _).modBreak r _ fun _ => rfl

/-! ## Run entries -/

omit before in
theorem index_modEntry (run : List RunEntry) (i : Nat) {f : RunEntry → RunEntry} (keeps : ∀ e, (f e).index = e.index) :
    (modEntry run i f).map RunEntry.index = run.map RunEntry.index := by
  unfold modEntry
  rw [List.map_map]
  refine List.map_congr_left fun e _ => ?_
  simp only [Function.comp_apply]
  split
  · exact keeps e
  · rfl

theorem Calm.modRun (r : Region) (g : OpenBreak → OpenBreak) (shape : ∀ b, ∃ i f, (g b).run = modEntry b.run i f ∧
    (∀ e, (f e).index = e.index) ∧ (g b).slot = b.slot) : Calm p (q.modBreak r g) :=
  before.modBreak r g fun b => by
    obtain ⟨i, f, run, keeps, slot⟩ := shape b
    rw [OpenBreak.shape, slot, run, index_modEntry _ _ keeps]
    rfl

theorem Calm.closeEntry (t : Now) (r : Region) (i : Nat) (st : EntryStatus) (start : AirTime) : Calm p (q.closeEntry t r i st start) := by
  refine before.withBreak r fun b _ => ?_
  split
  · exact before
  · refine Calm.appendItem (before.modRun r _ fun b => ?_) t r _
    exact ⟨_, _, rfl, fun _ => rfl, rfl⟩

theorem Calm.closeVoiceEntry (t : Now) (r : Region) (v : VoiceNo) (st : EntryStatus) : Calm p (q.closeVoiceEntry t r v st) := by
  unfold Play.closeVoiceEntry
  split
  · exact before
  · refine before.withBreak r fun b _ => ?_
    split
    · exact before
    · exact before.closeEntry t r _ st _

theorem Calm.startEntry (t : Now) (r : Region) (i : Nat) : Calm p (q.startEntry t r i) :=
  before.modRun r _ fun _ => ⟨_, _, rfl, fun _ => rfl, rfl⟩

theorem Calm.flagEntry (r : Region) (i : Nat) (f : RunFlags → RunFlags) : Calm p (q.flagEntry r i f) :=
  before.modRun r _ fun _ => ⟨_, _, rfl, fun _ => rfl, rfl⟩

theorem Calm.setBed (r : Region) (f : Fader → Fader) : Calm p (q.setBed r f) := before.modRegion r _ ⟨rfl, .inl Iff.rfl⟩

theorem Calm.setLead (r : Region) (v : Option VoiceNo) : Calm p (q.setLead r v) := before.modRegion r _ ⟨rfl, .inl Iff.rfl⟩

theorem Calm.setPrep (r : Region) (x : Prep) : Calm p (q.setPrep r x) := before.modBreak r _ fun _ => rfl

/-- A region with a break open goes to a state in which one is. -/
theorem Calm.setState (r : Region) (st : RegionState) (on : ¬ st.off) (isOpen : (q.region r).brk ≠ none) : Calm p (q.setState r st) :=
  before.modRegion r _ ⟨rfl, .inr ⟨isOpen, on⟩⟩

/-- A region goes from one state with a break to another. -/
theorem Calm.setState_on (r : Region) (st : RegionState) (on : ¬ st.off) (from' : ¬ (q.region r).state.off) : Calm p (q.setState r st) :=
  before.modRegion r _ ⟨rfl, .inl (iff_of_false on from')⟩

/-! ## Moving from entry to entry -/

theorem Calm.prepare (t : Now) (r : Region) : Calm p (q.prepare t r) := by
  obtain ⟨others, own, -, -, plans, -, -, dir, -, agent⟩ := q.prepare_form t r
  refine before.steady ⟨fun x => ?_, plans, agent, dir⟩
  by_cases same : x = r
  · subst same
    obtain ⟨prep, tested, region⟩ := own
    rw [region]
    refine ⟨?_, .inl Iff.rfl⟩
    simp only [Option.map_map]
    rfl
  · rw [others x same]
    exact .refl _

theorem Calm.arrive (r : Region) (g : LinkGroup) : Calm p (q.arrive r g) :=
  before.withBreak r fun b isOpen =>
    (before.modRegion r _ ⟨rfl, .inr ⟨by rw [isOpen]; exact Option.some_ne_none b, by rintro (h | h) <;> cases h⟩⟩).setPrep r .none

theorem Calm.noteStart (t : Now) (r : Region) (out : Option VoiceNo) : Calm p (q.noteStart t r out) :=
  before.modBreak r _ fun b => by split <;> rfl

theorem Calm.startHeld (t : Now) (r : Region) (skip : Nat) : Calm p (q.startHeld t r skip) := by
  refine before.withBreak r fun b isOpen => ?_
  split
  · rename_i lead e _ _
    have noted := (before.noteStart t r none).modVoice lead fun x => x.start t.count skip
    have stillOpen : (((q.noteStart t r none).modVoice lead fun x => x.start t.count skip).region r).brk ≠ none :=
      (((Calm.refl q).noteStart t r none).isOpen r).2 (by rw [isOpen]; exact Option.some_ne_none b)
    exact (((noted.modRegion r _ ⟨rfl, .inr ⟨stillOpen, by rintro (h | h) <;> cases h⟩⟩).setPrep r .none).startEntry t r
      e.index).prepare t r
  · exact before

theorem Calm.crossfade (t : Now) (r : Region) (out v : VoiceNo) (e : RunEntry) (ms : Nat) : Calm p (q.crossfade t r out v e ms) := by
  unfold Play.crossfade
  refine Calm.prepare (Calm.startEntry (Calm.modBreak ?_ r _ ?_) t r _) t r
  · exact Calm.setLead (Calm.modVoice (Calm.modVoice (before.noteStart t r _) out _) v _) r _
  · exact fun _ => rfl

theorem Calm.plainStart (t : Now) (r : Region) (v : VoiceNo) (e : RunEntry) : Calm p (q.plainStart t r v e) := by
  unfold Play.plainStart
  refine Calm.prepare (Calm.startEntry (Calm.modBreak ?_ r _ ?_) t r _) t r
  · exact Calm.setLead (Calm.modVoice (before.noteStart t r _) v _) r _
  · exact fun _ => rfl

theorem Calm.lateMixStart (t : Now) (r : Region) : Calm p (q.lateMixStart t r) := by
  by_cases ready : ∃ b v e, (q.region r).brk = some b ∧ b.incoming = some v ∧ nextPending b.run = some e
  · obtain ⟨b, v, e, isOpen, incoming, next⟩ := ready
    rw [lateMixStart_eq t isOpen incoming next]
    dsimp only
    have marked : Calm p (q.setRegion r { q.region r with brk := some (b.mixedLate e.index (q.outgoingLeft r)) }) := by
      refine before.modRegion r (fun x => { x with brk := some (b.mixedLate e.index (q.outgoingLeft r)) }) ⟨?_, .inl Iff.rfl⟩
      have same : (b.mixedLate e.index (q.outgoingLeft r)).shape = b.shape :=
        congrArg (Prod.mk b.slot) (index_modEntry b.run e.index fun _ => rfl)
      rw [isOpen, Option.map_some, Option.map_some, same]
    split
    · split
      · exact marked.crossfade t r _ v e _
      · exact marked.plainStart t r v e
    · exact marked.plainStart t r v e
  · have stays : q.lateMixStart t r = q := by
      unfold Play.lateMixStart Play.withBreak
      split
      · rfl
      · rename_i b isOpen
        dsimp only
        split
        · rename_i v e incoming next
          exact absurd ⟨b, v, e, isOpen, incoming, next⟩ ready
        · rfl
    rw [stays]
    exact before

theorem Calm.mixStart (t : Now) (r : Region) : Calm p (q.mixStart t r) := by
  unfold Play.mixStart
  split
  · split
    · split
      · exact before.crossfade t r _ _ _ _
      · exact before.modBreak r _ fun _ => rfl
    · exact before
  · exact before

theorem Calm.fillerStart (t : Now) (r : Region) : Calm p (q.fillerStart t r) := by
  unfold Play.fillerStart
  split
  · exact (before.modVoice _ _).setPrep r .none
  · exact before

/-! ## The Pool Arbiter -/

theorem Calm.useOther (r : Region) (v : VoiceNo) (e : RunEntry) : Calm p (q.useOther r v e) := by
  unfold Play.useOther
  split
  · exact before.setPrep r _
  · exact (before.primeVoice v _).setPrep r _

theorem Calm.request (t : Now) (r : Region) : Calm p (q.request t r) := by
  unfold Play.request
  split
  · exact before
  · split
    · split
      · exact before.useOther r _ _
      · exact (before.withWaiters _).setPrep r .waiting
    · exact before.useOther r _ _

theorem Calm.requests (t : Now) : Calm p (q.requests t) :=
  Calm.foldl (fun _ r h => by split; exacts [h.request t r, h]) allRegions before

theorem Calm.grantOne : Calm p q.grantOne := by
  unfold Play.grantOne
  split
  · rename_i v _ w rest _ _
    have given := ((before.withWaiters rest).modVoice v fun x => { x with holder := some w.region }).modRegion w.region
      (fun x => { x with pool := some v }) ⟨rfl, .inl Iff.rfl⟩
    refine given.withBreak w.region fun b _ => ?_
    split
    · exact (given.primeVoice v _).setPrep w.region _
    · exact given
  · exact before

theorem Calm.grants : Calm p q.grants := Calm.foldl (fun _ _ h => h.grantOne) _ before

theorem Calm.poolRound (t : Now) : Calm p (q.poolRound t) := (before.requests t).grants

theorem Calm.degrade (r : Region) : Calm p (q.degrade r) := by
  unfold Play.degrade
  split
  · exact before.withdraw r
  · exact (((before.withdraw r).modVoice _ _).flagEntry r _ _).setPrep r .staged

theorem Calm.decideWaiting (t : Now) (r : Region) : Calm p (q.decideWaiting t r) := by
  unfold Play.decideWaiting
  split
  · exact before
  · exact before.degrade r

/-! ## Winding down -/

theorem Calm.finishAtEnd (t : Now) (r : Region) (v : VoiceNo) : Calm p (q.finishAtEnd t r v) := by
  unfold Play.finishAtEnd
  split
  · exact (before.closeVoiceEntry t r v .done).releaseVoice v
  · exact before

theorem Calm.undoStart (t : Now) (r : Region) (v : VoiceNo) : Calm p (q.undoStart t r v) := by
  unfold Play.undoStart
  split
  · refine Calm.releaseVoice ?_ v
    split
    · exact before
    · rename_i i _
      exact before.modRun r _ fun _ => ⟨_, _, rfl, fun _ => rfl, rfl⟩
  · exact before

theorem Calm.restoreStart (t : Now) (r : Region) : Calm p (q.restoreStart t r) := by
  refine before.withBreak r fun b _ => ?_
  split
  · rename_i k _
    split
    · have restored := before.modRegion r (fun x => { x with bed := k.bed, lead := k.lead }) ⟨rfl, .inl Iff.rfl⟩
      dsimp only
      split
      · split
        · exact restored.modVoice _ _
        · exact restored
      · exact restored
    · exact before
  · exact before

theorem Calm.undoStarts (t : Now) (r : Region) : Calm p (q.undoStarts t r) :=
  Calm.restoreStart (Calm.foldl (fun _ v h => h.undoStart t r v) _ before) t r

theorem Calm.rampOut (t : Now) (r : Region) (ms : Nat) (v : VoiceNo) : Calm p (q.rampOut t r ms v) := by
  unfold Play.rampOut
  split
  · have ramped := before.modVoice v fun x => { x.unstage with fader := x.fader.begin 0 ms, releaseAtRampEnd := true }
    dsimp only
    split
    · exact (ramped.closeVoiceEntry t r v .trimmed).releaseVoice v
    · exact ramped
  · exact before.releaseVoice v

theorem Calm.trimPending (t : Now) (r : Region) : Calm p (q.trimPending t r) :=
  before.withBreak r fun _ _ => Calm.foldl (fun _ e h => h.closeEntry t r e.index .trimmed t.air) _ before

theorem Calm.windDown (t : Now) (r : Region) (ms : Nat) (undo : Bool) : Calm p (q.windDown t r ms undo) := by
  have finished := Calm.foldl (fun _ v h => h.finishAtEnd t r v) (q.voicesInRunOrder r) before
  unfold Play.windDown
  dsimp only
  generalize (q.voicesInRunOrder r).foldl (fun q v => q.finishAtEnd t r v) q = p1 at finished
  have undone : Calm p (if undo then p1.undoStarts t r else p1) := by
    split
    · exact finished.undoStarts t r
    · exact finished
  generalize (if undo then p1.undoStarts t r else p1) = p2 at undone
  exact ((Calm.foldl (fun _ v h => h.rampOut t r ms v) (p2.voicesInRunOrder r) undone).trimPending t r).withdraw r

/-! ## Splitting -/

theorem Calm.appendSkipped (t : Now) (r : Region) (air : AirTime) : Calm p (q.appendSkipped t r air) :=
  before.withBreak r fun _ _ => Calm.foldl (fun _ _ h => h.appendItem t r _) _ before

theorem Calm.primeFirst (t : Now) (r : Region) : Calm p (q.primeFirst t r) := by
  refine before.withBreak r fun b _ => ?_
  split
  · exact before.primeVoice _ _
  · split
    · exact before.primeVoice _ _
    · exact before

theorem Calm.localIfDown (r : Region) : Calm p (q.localIfDown r) := by
  unfold Play.localIfDown
  split
  · rename_i down
    simp only [Bool.and_eq_true, beq_iff_eq] at down
    exact before.setState_on r .localPlay (by rintro (h | h) <;> cases h) (by rw [down.1]; rintro (h | h) <;> cases h)
  · exact before

theorem Calm.leadInStart (t : Now) (r : Region) : Calm p (q.leadInStart t r) := by
  refine before.withBreak r fun b isOpen => ?_
  have isOpen' : (q.region r).brk ≠ none := by rw [isOpen]; exact Option.some_ne_none b
  have entered := before.modBreak r (fun b => { b with
    leadInStart := some t.pos, lateStart := match b.split with | some x => t.count - x.count | none => 0 }) fun _ => rfl
  have still := ((Calm.refl q).modBreak r (fun b => { b with
    leadInStart := some t.pos, lateStart := match b.split with | some x => t.count - x.count | none => 0 }) fun _ => rfl)
  dsimp only
  split
  · rename_i e _
    split
    · rename_i g _
      exact (entered.setLead r _).arrive r g
    · exact (((((entered.setLead r _).modVoice _ _).startEntry t r e.index).setBed r _).localIfDown r).prepare t r
  · split
    · refine (((entered.setLead r _).modVoice _ _).setBed r _).setState r .fill (by rintro (h | h) <;> cases h) ?_
      exact ((((still.setLead r _).modVoice _ _).setBed r _).isOpen r).2 isOpen'
    · exact entered.setState r .returned (by rintro (h | h) <;> cases h) ((still.isOpen r).2 isOpen')

theorem Calm.cueSequence (t : Now) (r : Region) (c : PendingCue) : Calm p (q.cueSequence t r c) := before.raise t 0 _

theorem Calm.handOver (t : Now) (r : Region) (v : VoiceNo) (u : Successor) (b : OpenBreak) (isOpen : (q.region r).brk = some b) :
    Calm p (q.handOver t r v u b) := by
  unfold Play.handOver
  split
  · exact (before.modVoice v _).setState r .fill (by rintro (h | h) <;> cases h) (by
      show (q.region r).brk ≠ none
      rw [isOpen]
      exact Option.some_ne_none b)
  · split
    · exact (before.modVoice v _).arrive r _
    · exact (((before.modVoice v _).setPrep r .none).startEntry t r _).prepare t r

/-! ## Playing -/

theorem Calm.playVoice (t : Now) (r : Region) (v : VoiceNo) : Calm p (q.playVoice t r v) := by
  unfold Play.playVoice
  dsimp only
  split
  · have played := before.modVoice v Voice.played
    have counted : Calm p (match (q.voice v).run with
        | some i => (q.modVoice v Voice.played).modBreak r fun b =>
          { b with run := modEntry b.run i fun e => e.countSample (q.voice v).hands.2.2 (q.voice v).hands.2.1 }
        | none => q.modVoice v Voice.played) := by
      split
      · rename_i i _
        exact played.modRun r _ fun _ => ⟨_, _, rfl, fun _ => rfl, rfl⟩
      · exact played
    split
    · split
      · exact counted.reportFault t _
      · exact counted
    · exact counted
  · exact before

theorem Calm.mixRegion (t : Now) (gs : Vector GroupRec 8) (bed : Int × Int) (r : Region) : Calm p (q.mixRegion t gs bed r) := by
  refine Calm.foldl (fun _ v h => h.playVoice t r v) _ (before.modRegion r _ ⟨?_, .inl Iff.rfl⟩)
  simp only [RegionRec.output, Option.map_map]
  congr 1
  funext b
  simp only [Function.comp_apply]
  split <;> rfl

theorem Calm.wraps (r : Region) : Calm p (q.wraps r) :=
  Calm.foldl (fun _ _ h => by split; exacts [h.modVoice _ _, h]) _ before

theorem Calm.rampsDone (r : Region) : Calm p (q.rampsDone r) :=
  Calm.foldl (fun _ _ h => by split; exacts [h.modVoice _ _, h]) _ before

end

end Sys2Proof.Machine

/-! # The operations that open and close breaks, as steps -/

namespace Sys2Proof.Machine

/-! ## Opening and closing -/

/-- A break closed: its slot given back, and its region in NETWORK or BYPASS. -/
structure Closes (r : Region) (p q : Play) : Prop where
  slot : ∃ b wasSplit, (p.region r).brk = some b ∧ q.plans = (p.setSlot r b.slot (p.slotBack r b.slot wasSplit)).plans
  closed : (q.region r).brk = none
  off : (q.region r).state.off
  others : ∀ x, x ≠ r → KeepsBreak (p.region x) (q.region x)
  agent : q.agent = p.agent
  dir : q.dir = p.dir

/-- A break opened in a region that has none: a READY slot taken, the run entries in item order. -/
structure Opens (r : Region) (n : Fin 16) (p q : Play) : Prop where
  free : (p.region r).brk = none ∨ (p.region r).state.off
  ready : (p.slot r n).state = .ready
  plans : q.plans = (p.setSlot r n { p.slot r n with state := .inUse }).plans
  opened : ∃ b, (q.region r).brk = some b ∧ b.slot = n ∧ (b.run.map RunEntry.index).Pairwise (· < ·)
  others : ∀ x, x ≠ r → KeepsBreak (p.region x) (q.region x)
  agent : q.agent = p.agent
  dir : q.dir = p.dir

/-- A region with a break that leaves NETWORK or BYPASS. -/
structure Enters (r : Region) (p q : Play) : Prop where
  brk : (q.region r).brk = (p.region r).brk
  on : ¬ (q.region r).state.off
  others : ∀ x, x ≠ r → q.region x = p.region x
  plans : q.plans = p.plans
  agent : q.agent = p.agent
  dir : q.dir = p.dir

/-- A step on the air: a small one, or a break closed or opened. -/
inductive MoveStep (p : Play) : Play → Prop
  | calm {q : Play} (steps : Calm p q) : MoveStep p q
  | closed {q : Play} (r : Region) (closes : Closes r p q) : MoveStep p q
  | opened {p1 p2 q : Play} (r : Region) (n : Fin 16) (opens : Opens r n p p1) (steps : Calm p1 p2) (enters : Enters r p2 q) : MoveStep p q

/-- Some steps on the air. -/
def Moved : Play → Play → Prop := Relation.ReflTransGen MoveStep

theorem Moved.refl (p : Play) : Moved p p := Relation.ReflTransGen.refl

theorem Moved.trans {p q u : Play} (first : Moved p q) (second : Moved q u) : Moved p u := Relation.ReflTransGen.trans first second

theorem Moved.step {p q u : Play} (before : Moved p q) (step : MoveStep q u) : Moved p u := Relation.ReflTransGen.tail before step

theorem Moved.calm {p q u : Play} (before : Moved p q) (steps : Calm q u) : Moved p u := before.step (.calm steps)

theorem Moved.foldl {α : Type} {p : Play} {f : Play → α → Play} (each : ∀ q x, Moved p q → Moved p (f q x)) :
    ∀ (l : List α) {q : Play}, Moved p q → Moved p (l.foldl f q)
  | [], _, before => before
  | x :: l, _, before => Moved.foldl each l (each _ x before)

theorem Moved.withBreak {p q : Play} (before : Moved p q) (r : Region) {f : OpenBreak → Play}
    (acts : ∀ b, (q.region r).brk = some b → Moved p (f b)) : Moved p (q.withBreak r f) := by
  unfold Play.withBreak
  split
  · exact before
  · rename_i b isOpen
    exact acts b isOpen

theorem Moved.whenDue {p q : Play} (before : Moved p q) (due : Bool) {f : Play → Play} (acts : ∀ u, Moved p u → Moved p (f u)) :
    Moved p (q.whenDue due f) := by
  unfold Play.whenDue
  split
  · exact acts q before
  · exact before

/-- A state with a break stays one through small steps. -/
theorem Calm.on {p q : Play} (calm : Calm p q) {r : Region} (on : ¬ (p.region r).state.off) : ¬ (q.region r).state.off := by
  rcases (calm.keeps.1 r).state with same | ⟨-, on'⟩
  · exact fun off => on (same.1 off)
  · exact on'

theorem on_of_running {st : RegionState} (h : st ≠ .network) (k : st ≠ .bypass) : ¬ st.off := fun off => off.elim h k

section
variable {p q : Play} (before : Moved p q)
include before

/-! ## Closing a break -/

theorem Moved.closeBreak (t : Now) (r : Region) (st : RegionState) (off : st.off) : Moved p (q.closeBreak t r st) := by
  refine before.withBreak r fun b isOpen => ?_
  have recorded := ((Calm.refl q).appendRecord t (.brk (breakRecord t r b))).giveBackPool r
  generalize (q.appendRecord t (.brk (breakRecord t r b))).giveBackPool r = u at recorded
  obtain ⟨c, isOpen'⟩ := Option.ne_none_iff_exists'.1 ((recorded.isOpen r).2 (by rw [isOpen]; exact Option.some_ne_none b))
  have slot : c.slot = b.slot := by
    have same := (recorded.keeps.1 r).shape
    rw [isOpen, isOpen'] at same
    exact congrArg Prod.fst (Option.some.inj same)
  refine (before.calm recorded).step (.closed r ?_)
  rw [giveBack_eq]
  obtain ⟨gates, form⟩ := leaveGates_form (u.setSlot r b.slot (u.slotBack r b.slot b.split.isSome)) r
  rw [form]
  refine ⟨⟨c, b.split.isSome, isOpen', by rw [slot]; rfl⟩, ?_, ?_, fun x other => ?_, rfl, rfl⟩
  · rw [Play.region_modRegion, if_pos rfl]
    rfl
  · rw [Play.region_modRegion, if_pos rfl]
    exact off
  · rw [Play.region_modRegion, if_neg (Ne.symm other)]
    exact .refl _

theorem Moved.completeLeadOut (t : Now) (r : Region) : Moved p (q.completeLeadOut t r) := by
  unfold Play.completeLeadOut
  split
  · refine before.withBreak r fun b isOpen => ?_
    split
    · exact before.closeBreak t r .network (.inl rfl)
    · exact before.calm ((Calm.refl q).setState r .returned (on_of_running nofun nofun) (by rw [isOpen]; exact Option.some_ne_none b))
  · exact before

theorem Moved.closingLeadOut (t : Now) (r : Region) (cause : EndCause) (rejoins : Bool) : Moved p (q.closingLeadOut t r cause rejoins) := by
  refine before.withBreak r fun b isOpen => ?_
  dsimp only
  have ended := ((Calm.refl q).windDown t r (q.heldPlan r b).leadOutMs true).modBreak r (fun b => b.ended t cause) fun _ => rfl
  have isOpen' := (ended.isOpen r).2 (by rw [isOpen]; exact Option.some_ne_none b)
  generalize (q.windDown t r (q.heldPlan r b).leadOutMs true).modBreak r (fun b => b.ended t cause) = u at ended isOpen' ⊢
  have leadOut := before.calm ((ended.modRegion r (fun x => { x with
    state := .leadout, bed := x.bed.begin 231 (q.heldPlan r b).leadOutMs, arriving := none, opening := none })
    ⟨rfl, .inr ⟨isOpen', on_of_running nofun nofun⟩⟩).leaveGates r)
  split
  · exact leadOut
  · exact leadOut.completeLeadOut t r

theorem Moved.earlyLeadOut (t : Now) (r : Region) : Moved p (q.earlyLeadOut t r) := by
  refine before.withBreak r fun b isOpen => ?_
  dsimp only
  have ended := ((Calm.refl q).windDown t r (q.heldPlan r b).leadOutMs false).modBreak r
    (fun b => { b with closing := false, prep := .none, mixLate := false }) fun _ => rfl
  have isOpen' := (ended.isOpen r).2 (by rw [isOpen]; exact Option.some_ne_none b)
  exact (before.calm (ended.modRegion r (fun x => { x with
    state := .leadout, bed := x.bed.begin 231 (q.heldPlan r b).leadOutMs, arriving := none, opening := none })
    ⟨rfl, .inr ⟨isOpen', on_of_running nofun nofun⟩⟩)).completeLeadOut t r

theorem Moved.breakEnd (t : Now) (r : Region) (cause : EndCause) (rejoins : Bool) : Moved p (q.breakEnd t r cause rejoins) := by
  refine before.withBreak r fun b _ => ?_
  split
  · exact before.closingLeadOut t r cause rejoins
  · exact before.closingLeadOut t r cause rejoins
  · exact before.closingLeadOut t r cause rejoins
  · exact before.closingLeadOut t r cause rejoins
  · split
    · exact before.calm ((Calm.refl q).modBreak r _ fun _ => rfl)
    · split
      · refine Moved.completeLeadOut (before.calm (Calm.modBreak (.refl q) r _ ?_)) t r
        exact fun _ => rfl
      · exact before
  · refine Moved.closeBreak (before.calm (Calm.modBreak (.refl q) r _ ?_)) t r .network (.inl rfl)
    exact fun _ => rfl
  · exact before
  · exact before
  · exact before

theorem Moved.disarm (r : Region) (st : RegionState) (off : st.off) : Moved p (q.disarm r st) := by
  unfold Play.disarm
  refine before.withBreak r fun b isOpen => ?_
  have released := (((Calm.refl q).withdraw r).releaseVoice (homeVoice r)).giveBackPool r
  generalize ((q.withdraw r).releaseVoice (homeVoice r)).giveBackPool r = u at released
  obtain ⟨c, isOpen'⟩ := Option.ne_none_iff_exists'.1 ((released.isOpen r).2 (by rw [isOpen]; exact Option.some_ne_none b))
  have slot : c.slot = b.slot := by
    have same := (released.keeps.1 r).shape
    rw [isOpen, isOpen'] at same
    exact congrArg Prod.fst (Option.some.inj same)
  refine (before.calm released).step (.closed r ?_)
  rw [giveBack_eq]
  obtain ⟨gates, form⟩ := leaveGates_form (u.setSlot r b.slot (u.slotBack r b.slot false)) r
  rw [form]
  refine ⟨⟨c, false, isOpen', by rw [slot]; rfl⟩, ?_, ?_, fun x other => ?_, rfl, rfl⟩
  · rw [Play.region_modRegion, if_pos rfl]
    rfl
  · rw [Play.region_modRegion, if_pos rfl]
    exact off
  · rw [Play.region_modRegion, if_neg (Ne.symm other)]
    exact .refl _

theorem Moved.bypassBreak (t : Now) (r : Region) : Moved p (q.bypassBreak t r) := by
  unfold Play.bypassBreak
  refine Moved.closeBreak (before.calm (Calm.setBed (Calm.modBreak ?_ r _ ?_) r _)) t r .bypass (.inr rfl)
  · exact (Calm.refl q).windDown t r 0 true
  · exact fun _ => rfl

theorem Moved.forceNetwork (t : Now) (r : Region) : Moved p (q.forceNetwork t r) := by
  unfold Play.forceNetwork
  split
  · rename_i network
    exact before.calm ((Calm.refl q).modRegion r _ ⟨rfl, .inl (iff_of_true (.inr rfl) (.inl network))⟩)
  · exact before
  · exact before.disarm r .bypass (.inr rfl)
  all_goals exact before.bypassBreak t r

/-! ## Opening a break -/

omit before in
theorem findPlan_ready {r : Region} {breakId : Nat} {n : Fin 16} (found : q.findPlan r breakId = some n) : (q.slot r n).state = .ready := by
  unfold Play.findPlan at found
  split at found
  · rename_i m own
    cases found
    exact ((readyWith_iff _ _).1 (List.find?_some (p := fun n => (q.slot r n).readyWith breakId) own)).1
  · exact ((readyWith_iff _ _).1 (List.find?_some (p := fun n => (q.slot r n).readyWith 0) found)).1

omit before in
theorem openBreak_opens {r : Region} {n : Fin 16} (t : Now) (breakId nominal : Nat) (ready : (q.slot r n).state = .ready)
    (free : (q.region r).brk = none ∨ (q.region r).state.off) : Opens r n q (q.openBreak t r breakId n nominal) := by
  unfold Play.openBreak
  refine ⟨free, ready, rfl, ?_, fun x other => ?_, rfl, rfl⟩
  · rw [Play.region_modRegion, if_pos rfl]
    refine ⟨_, rfl, rfl, ?_⟩
    dsimp only [newBreak]
    split
    · exact fit_sorted ..
    · exact .nil
  · rw [Play.region_modRegion, if_neg (Ne.symm other)]
    exact .refl _

omit before in
theorem modRegion_enters (r : Region) {f : RegionRec → RegionRec} (brk : ∀ x, (f x).brk = x.brk) (on : ∀ x, ¬ (f x).state.off) :
    Enters r q (q.modRegion r f) := by
  refine ⟨?_, ?_, fun x other => ?_, rfl, rfl, rfl⟩
  · rw [Play.region_modRegion, if_pos rfl, brk]
  · rw [Play.region_modRegion, if_pos rfl]
    exact on _
  · rw [Play.region_modRegion, if_neg (Ne.symm other)]

theorem Moved.arm (t : Now) (r : Region) (c : PendingCue) (free : (q.region r).brk = none ∨ (q.region r).state.off) :
    Moved p (q.arm t r c) := by
  unfold Play.arm
  split
  · exact before
  · rename_i n found
    have opened := before.step (.opened r n (openBreak_opens t c.breakId c.nominal (findPlan_ready found) free) (.refl _)
      (modRegion_enters r (f := fun x => { x.armFrom t with state := .primed }) (fun _ => rfl) fun _ => on_of_running nofun nofun))
    exact opened.calm ((Calm.refl _).primeFirst t r)

theorem Moved.coldSplit (t : Now) (r : Region) (c : PendingCue) (lateness : Nat)
    (free : (q.region r).brk = none ∨ (q.region r).state.off) : Moved p (q.coldSplit t r c lateness) := by
  unfold Play.coldSplit
  split
  · exact before
  · rename_i n found
    have opens := openBreak_opens t c.breakId c.nominal (findPlan_ready found) free
    dsimp only
    unfold Play.enterLeadIn
    generalize q.openBreak t r c.breakId n c.nominal = u at opens
    have steps := ((Calm.refl u).modBreak r (fun b => b.splitAt t (u.region r).config c lateness) fun _ => rfl).appendSkipped t r
      (t.airAt lateness)
    have opened := (before.step (.opened r n opens steps (modRegion_enters r (f := fun x => { x with armDeadline := none, state := .leadin })
      (fun _ => rfl) fun _ => on_of_running nofun nofun))).calm ((Calm.refl _).primeFirst t r)
    split
    · exact opened.calm ((Calm.refl _).leadInStart t r)
    · exact opened

theorem Moved.warmSplit (t : Now) (r : Region) (c : PendingCue) (lateness : Nat) (on : ¬ (q.region r).state.off) :
    Moved p (q.warmSplit t r c lateness) := by
  have split' := ((Calm.refl q).modBreak r (fun b => b.splitAt t (q.region r).config c lateness) fun _ => rfl).appendSkipped t r
    (t.airAt lateness)
  have entered : Calm q (q.enterLeadIn t r c lateness) :=
    split'.modRegion r _ ⟨rfl, .inl (iff_of_false (on_of_running nofun nofun) (split'.on on))⟩
  unfold Play.warmSplit
  dsimp only
  split
  · exact before.calm (entered.leadInStart t r)
  · exact before.calm entered

/-! ## A cue -/

omit before in
/-- A disarm leaves no break open. -/
theorem disarm_free (r : Region) : ((q.disarm r .network).region r).brk = none := by
  cases isOpen : (q.region r).brk with
  | none =>
    have stays : q.disarm r .network = q := by
      unfold Play.disarm Play.withBreak
      rw [isOpen]
    rw [stays, isOpen]
  | some b =>
    obtain ⟨pool, lead, own⟩ := (disarm_spec .network isOpen).own
    rw [own]
    rfl

theorem Moved.onPrepare (t : Now) (r : Region) (c : PendingCue) : Moved p (q.onPrepare t r c) := by
  unfold Play.onPrepare
  split
  · rename_i network
    exact before.arm t r c (.inr (.inl network))
  · split
    · exact before.calm ((Calm.refl q).modRegion r _ ⟨rfl, .inl Iff.rfl⟩)
    · exact (before.disarm r .network (.inl rfl)).arm t r c (.inl (disarm_free r))
  · exact before
  all_goals exact before.calm ((Calm.refl q).cueSequence t r c)

theorem Moved.splitRunning (t : Now) (r : Region) (c : PendingCue) : Moved p (q.splitRunning t r c) := by
  unfold Play.splitRunning
  split
  · exact before
  · exact before.calm ((Calm.refl q).cueSequence t r c)

theorem Moved.onSplit (t : Now) (r : Region) (c : PendingCue) (lateness : Nat) : Moved p (q.onSplit t r c lateness) := by
  unfold Play.onSplit
  split
  · rename_i network
    exact before.coldSplit t r c lateness (.inr (.inl network))
  · rename_i primed
    split
    · exact before.warmSplit t r c lateness (by rw [primed]; exact on_of_running nofun nofun)
    · exact (before.disarm r .network (.inl rfl)).coldSplit t r c lateness (.inl (disarm_free r))
  · exact before
  all_goals exact before.splitRunning t r c

theorem Moved.onEnd (t : Now) (r : Region) (c : PendingCue) (cause : EndCause) : Moved p (q.onEnd t r c cause) := by
  refine before.withBreak r fun b _ => ?_
  split
  · split
    · split
      · exact (before.calm ((Calm.refl q).cueSequence t r c)).disarm r .network (.inl rfl)
      · exact before.disarm r .network (.inl rfl)
    · exact before.breakEnd t r cause false
  · exact before

theorem Moved.onCue (t : Now) (r : Region) (c : PendingCue) (lateness : Nat) : Moved p (q.onCue t r c lateness) := by
  unfold Play.onCue
  split
  · exact before.onPrepare t r c
  · exact before.onSplit t r c lateness
  · exact before.onEnd t r c _
  · exact before.onEnd t r c _

theorem Moved.armExpire (t : Now) (r : Region) : Moved p (q.armExpire t r) :=
  before.withBreak r fun _ _ => (before.disarm r .network (.inl rfl)).calm ((Calm.refl _).raise t 0 _)

/-! ## Ends of voices and ramps -/

theorem Moved.leadEnds (t : Now) (r : Region) (v : VoiceNo) (b : OpenBreak) : Moved p (q.leadEnds t r v b) := by
  have released := before.calm ((Calm.refl q).releaseVoice v)
  unfold Play.leadEnds
  dsimp only
  split
  · exact released.completeLeadOut t r
  · split
    · exact released.earlyLeadOut t r
    · exact released.calm ((Calm.refl _).setLead r none)

theorem Moved.outgoingEnds (t : Now) (r : Region) (v : VoiceNo) (b : OpenBreak) : Moved p (q.outgoingEnds t r v b) := by
  unfold Play.outgoingEnds
  split
  · split
    · exact before.calm ((((Calm.refl q).modVoice v _).primeVoice v _).setPrep r _)
    · exact before.calm ((Calm.refl q).releaseVoice v)
  · exact ((before.calm ((Calm.refl q).releaseVoice v)).completeLeadOut t r).calm ((Calm.refl _).prepare t r)

theorem Moved.itemEnd (t : Now) (r : Region) (v : VoiceNo) : Moved p (q.itemEnd t r v) := by
  have closed := before.calm ((Calm.refl q).closeVoiceEntry t r v .done)
  unfold Play.itemEnd
  dsimp only
  refine closed.withBreak r fun b isOpen => ?_
  split
  · split
    · exact closed.calm ((Calm.refl _).handOver t r v _ b isOpen)
    · exact closed.leadEnds t r v b
  · exact closed.outgoingEnds t r v b

theorem Moved.releaseEnd (t : Now) (r : Region) (v : VoiceNo) : Moved p (q.releaseEnd t r v) :=
  (before.calm (((Calm.refl q).closeVoiceEntry t r v .trimmed).releaseVoice v)).completeLeadOut t r

theorem Moved.finishVoice (t : Now) (r : Region) (v : VoiceNo) : Moved p (q.finishVoice t r v) := by
  unfold Play.finishVoice
  split
  · exact before.itemEnd t r v
  · split
    · exact before.releaseEnd t r v
    · exact before

theorem Moved.finishBefore (t : Now) (r : Region) (v : VoiceNo) : Moved p (q.finishBefore t r v) :=
  Moved.foldl (fun _ u h => h.finishVoice t r u) _ before

theorem Moved.finishes (t : Now) (r : Region) : Moved p (q.finishes t r) := Moved.foldl (fun _ v h => h.finishVoice t r v) _ before

theorem Moved.bedRampEnd (t : Now) (r : Region) : Moved p (q.bedRampEnd t r) := by
  have ended := before.calm ((Calm.refl q).setBed r Fader.finish)
  unfold Play.bedRampEnd
  dsimp only
  split
  · rename_i leadin
    exact ended.calm ((Calm.refl _).setState_on r .localPlay (on_of_running nofun nofun) (by rw [leadin]; exact on_of_running nofun nofun))
  · exact ended.completeLeadOut t r
  · exact ended

theorem Moved.voiceRampEnd (t : Now) (r : Region) (v : VoiceNo) : Moved p (q.voiceRampEnd t r v) := by
  unfold Play.voiceRampEnd
  split
  · exact (before.finishBefore t r v).finishVoice t r v
  · exact before.calm ((Calm.refl q).modVoice v _)

/-! ## Gates -/

theorem Moved.skipGate (t : Now) (r : Region) : Moved p (q.skipGate t r) := by
  refine before.withBreak r fun b _ => ?_
  split
  · rename_i lead e _ _
    have closed := (Calm.refl q).closeEntry t r e.index (.skipped .gate) t.air
    generalize q.closeEntry t r e.index (.skipped .gate) t.air = u at closed
    refine (before.calm closed).withBreak r fun c isOpen => ?_
    split
    · rename_i next _
      have primed := closed.primeVoice lead (u.primeOf next next.level)
      dsimp only
      split
      · exact before.calm (primed.arrive r _)
      · exact before.calm (primed.setPrep r .afterSkip)
    · split
      · refine before.calm (Calm.setPrep (Calm.modRegion (closed.primeVoice lead _) r _ ?_) r _)
        refine ⟨rfl, .inr ⟨?_, on_of_running nofun nofun⟩⟩
        show (u.region r).brk ≠ none
        rw [isOpen]
        exact Option.some_ne_none c
      · exact (before.calm (closed.releaseVoice lead)).earlyLeadOut t r
  · exact before

theorem Moved.lateJoin (t : Now) (r : Region) (g : LinkGroup) (e : RunEntry) : Moved p (q.lateJoin t r g e) := by
  have joined := (Calm.refl q).modGate g fun x => { x with arrived := x.arrived ++ [(r, t.count - (q.gate g).openPoint.getD t.count)] }
  unfold Play.lateJoin
  dsimp only
  split
  · exact before.calm ((joined.flagEntry r e.index _).startHeld t r _)
  · exact (before.calm joined).skipGate t r

theorem Moved.unexpected (t : Now) (r : Region) (g : LinkGroup) (breakId : Nat) : Moved p (q.unexpected t r g breakId) :=
  before.calm (((Calm.refl q).startHeld t r 0).raise t 0 _)

theorem Moved.resolveArrival (t : Now) (r : Region) (g : LinkGroup) : Moved p (q.resolveArrival t r g) := by
  have arrived := before.calm ((Calm.refl q).modRegion r (fun x => { x with arriving := none }) ⟨rfl, .inl Iff.rfl⟩)
  unfold Play.resolveArrival
  dsimp only
  refine arrived.withBreak r fun b _ => ?_
  split
  · exact arrived
  · have left := arrived.calm ((Calm.refl _).modGate g fun x => { x with missed := x.missed.filter fun m => m.1 != r })
    split
    · exact left.skipGate t r
    · split
      · exact left.calm ((Calm.refl _).modGate g _)
      · split
        · exact left.calm ((Calm.refl _).modGate g _)
        · exact left.unexpected t r g _
      · split
        · exact left.lateJoin t r g _
        · exact left.unexpected t r g _

omit before in
theorem Moved.resolveRegion (t : Now) (r : Region) (n : Nat) {q : Play} (before : Moved p q) : Moved p (Play.resolveRegion t r n q) := by
  induction n generalizing q with
  | zero => exact before
  | succ n ih =>
    unfold Play.resolveRegion
    split
    · exact before
    · exact ih (before.resolveArrival t r _)

theorem Moved.settleArrivals (t : Now) : Moved p (q.settleArrivals t) := Moved.foldl (fun _ r h => h.resolveRegion t r 13) _ before

theorem Moved.openRegions (t : Now) (g : LinkGroup) : Moved p (q.openRegions t g) :=
  Moved.foldl (fun _ r h => by split; exacts [h.calm ((Calm.refl _).startHeld t r 0), h]) _ before

/-! ## All the events of a sample -/

theorem Moved.endings (t : Now) (r : Region) : Moved p (q.endings t r) := by
  have armed := before.whenDue (q.armDue t r) fun u h => h.armExpire t r
  unfold Play.endings
  dsimp only
  generalize q.whenDue (q.armDue t r) (fun q => q.armExpire t r) = p1 at armed
  have ended := armed.whenDue (p1.breakDue t r) fun u h => h.breakEnd t r .timeout false
  generalize p1.whenDue (p1.breakDue t r) (fun q => q.breakEnd t r .timeout false) = p2 at ended
  have opened := Moved.foldl (f := fun q g => q.whenDue (q.openingDue t r g) fun u => u.startHeld t r 0)
    (fun u g h => h.whenDue (u.openingDue t r g) fun w k => k.calm ((Calm.refl w).startHeld t r 0)) allLinkGroups ended
  generalize allLinkGroups.foldl (fun q g => q.whenDue (q.openingDue t r g) fun u => u.startHeld t r 0) p2 = p3 at opened
  have finished := (opened.finishes t r).calm ((Calm.refl _).wraps r)
  generalize (p3.finishes t r).wraps r = p4 at finished
  exact (finished.whenDue (p4.region r).bed.complete fun u h => h.bedRampEnd t r).calm ((Calm.refl _).rampsDone r)

theorem Moved.starts (t : Now) (r : Region) : Moved p (q.starts t r) := by
  have led := before.whenDue (q.leadInDue t r) fun u h => h.calm ((Calm.refl u).leadInStart t r)
  unfold Play.starts
  dsimp only
  generalize q.whenDue (q.leadInDue t r) (fun q => q.leadInStart t r) = p1 at led
  have primed := led.whenDue (p1.primedDue t r) fun u h => h.calm ((Calm.refl u).startHeld t r 0)
  generalize p1.whenDue (p1.primedDue t r) (fun q => q.startHeld t r 0) = p2 at primed
  have filled := primed.whenDue (p2.fillerDue t r) fun u h => h.calm ((Calm.refl u).fillerStart t r)
  generalize p2.whenDue (p2.fillerDue t r) (fun q => q.fillerStart t r) = p3 at filled
  have late := filled.whenDue (p3.lateMixDue t r) fun u h => h.calm ((Calm.refl u).lateMixStart t r)
  generalize p3.whenDue (p3.lateMixDue t r) (fun q => q.lateMixStart t r) = p4 at late
  exact (late.whenDue (p4.mixDue r) fun u h => h.calm ((Calm.refl u).mixStart t r)).calm ((Calm.refl _).prepare t r)

theorem Moved.settleSample (t : Now) : Moved p (q.settleSample t) := by
  have settled := (before.settleArrivals t).calm ((Calm.refl _).poolRound t)
  unfold Play.settleSample
  generalize (q.settleArrivals t).poolRound t = u at settled
  have decided := Moved.foldl (f := fun q r => q.whenDue (q.decisionDue t r) fun u => u.decideWaiting t r)
    (fun u r h => h.whenDue (u.decisionDue t r) fun w k => k.calm ((Calm.refl w).decideWaiting t r)) allRegions settled
  have mixed := Moved.foldl (f := fun q r => q.whenDue (q.mixDue r) fun u => u.mixStart t r)
    (fun u r h => h.whenDue (u.mixDue r) fun w k => k.calm ((Calm.refl w).mixStart t r)) allRegions decided
  exact mixed.calm ((Calm.refl _).poolRound t)

end

end Sys2Proof.Machine

/-! # The plan that a break takes, and the slots of a region under every operation (O15) -/

namespace Sys2Proof.Machine

/-! ## The slots of a region but for the break that holds one -/

theorem held_iff_state (st : SlotState) : st.held ↔ st = .inUse ∨ st = .retiring := by
  cases st <;> simp [SlotState.held]

/-- The part of the slot invariant that looks at the slots alone. -/
structure SlotsApart (p : Play) (r : Region) : Prop where
  ready : ∀ n m pl pl', n ≠ m → p.slot r n = ⟨.ready, some pl⟩ → p.slot r m = ⟨.ready, some pl'⟩ → pl.breakId ≠ pl'.breakId
  plan : ∀ n, (p.slot r n).plan = none ↔ (p.slot r n).state = .empty

theorem SlotInv.apart {p : Play} {r : Region} (inv : SlotInv p r) : SlotsApart p r := ⟨inv.ready, inv.plan⟩

theorem SlotsApart.of_slots {p q : Play} {r : Region} (good : SlotsApart p r) (same : ∀ n, q.slot r n = p.slot r n) : SlotsApart q r := by
  refine ⟨fun n m pl pl' other hn hm => good.ready n m pl pl' other ?_ ?_, fun n => ?_⟩
  · rw [← same, hn]
  · rw [← same, hm]
  · rw [same]
    exact good.plan n

/-- No other slot of the region is READY with the break ID. -/
theorem alone_of_not_duplicate {p : Play} {r : Region} {n m : Fin 16} {pl pl' : Plan} (alone : p.duplicateReady r n pl.breakId = false)
    (other : m ≠ n) (ready : p.slot r m = ⟨.ready, some pl'⟩) : pl.breakId ≠ pl'.breakId := by
  intro same
  have twin := (duplicateReady_iff p r n pl.breakId).2 ⟨m, other, by rw [ready], by rw [ready, same]; rfl⟩
  rw [alone] at twin
  cases twin

/-- A slot written that is not a second READY one with its break ID. -/
theorem SlotsApart.write {p q : Play} {r : Region} {n : Fin 16} {x : Slot} (good : SlotsApart p r)
    (written : ∀ m, q.slot r m = if n = m then x else p.slot r m) (plan : x.plan = none ↔ x.state = .empty)
    (alone : ∀ pl, x = ⟨.ready, some pl⟩ → p.duplicateReady r n pl.breakId = false) : SlotsApart q r := by
  refine ⟨fun a b pl pl' other ha hb => ?_, fun m => ?_⟩
  · rw [written] at ha hb
    split at ha <;> split at hb
    · rename_i isA isB
      exact absurd (isA.symm.trans isB) other
    · rename_i isA notB
      exact alone_of_not_duplicate (alone pl ha) (Ne.symm notB) hb
    · rename_i notA isB
      exact (alone_of_not_duplicate (alone pl' hb) (Ne.symm notA) ha).symm
    · exact good.ready a b pl pl' other ha hb
  · rw [written]
    split
    · exact plan
    · exact good.plan m

/-! ## The slot that a break gives back -/

theorem slotBack_plan (p : Play) (r : Region) (n : Fin 16) (wasSplit : Bool) :
    (p.slotBack r n wasSplit).plan = none ↔ (p.slotBack r n wasSplit).state = .empty := by
  unfold Play.slotBack
  cases plan : (p.slot r n).plan with
  | none => exact ⟨fun _ => rfl, fun _ => rfl⟩
  | some pl =>
    dsimp only
    split
    · exact ⟨fun _ => rfl, fun _ => rfl⟩
    · exact ⟨fun absent => absurd (plan.symm.trans absent) (Option.some_ne_none pl), fun empty => by cases empty⟩

theorem slotBack_state (p : Play) (r : Region) (n : Fin 16) (wasSplit : Bool) : ¬ (p.slotBack r n wasSplit).state.held := by
  unfold Play.slotBack
  split
  · exact id
  · split
    · exact id
    · exact id

theorem slotBack_alone {p : Play} {r : Region} {n : Fin 16} {wasSplit : Bool} {pl : Plan}
    (back : p.slotBack r n wasSplit = ⟨.ready, some pl⟩) : p.duplicateReady r n pl.breakId = false := by
  unfold Play.slotBack at back
  cases plan : (p.slot r n).plan with
  | none =>
    rw [plan] at back
    cases back
  | some own =>
    rw [plan] at back
    dsimp only at back
    split at back
    · cases back
    · rename_i keeps
      have same : own = pl := Option.some.inj (plan.symm.trans (congrArg Slot.plan back))
      rw [← same]
      simp only [Bool.or_eq_true, not_or, Bool.not_eq_true] at keeps
      exact keeps.2

/-! ## The invariant under the steps on the air -/

/-- The place of the slot that an open break holds. -/
theorem holds_iff (x : RegionRec) (n : Fin 16) :
    (∃ b, x.brk = some b ∧ b.slot = n) ↔ (x.brk.map OpenBreak.shape).map Prod.fst = some n := by
  cases x.brk with
  | none => simp
  | some b => simp [OpenBreak.shape]

theorem slotInv_keeps {p q : Play} {r : Region} (inv : SlotInv p r) (keeps : KeepsBreak (p.region r) (q.region r))
    (same : ∀ n, q.slot r n = p.slot r n) : SlotInv q r := by
  obtain ⟨ready, plan⟩ := inv.apart.of_slots same
  refine ⟨ready, ?_, fun n => ?_, plan, fun b isOpen => ?_⟩
  · have closed : (q.region r).brk = none ↔ (p.region r).brk = none := not_iff_not.1 keeps.isOpen
    rw [closed]
    rcases keeps.state with off | ⟨isOpen, on⟩
    · exact inv.states.trans off.symm
    · exact ⟨fun absent => absurd absent isOpen, fun off => absurd off on⟩
  · rw [same, inv.held n, holds_iff, holds_iff, keeps.shape]
  · have shape := keeps.shape
    rw [isOpen] at shape
    obtain ⟨c, isOpen', same'⟩ := Option.map_eq_some_iff.1 shape.symm
    have places : c.run.map RunEntry.index = b.run.map RunEntry.index := congrArg Prod.snd same'
    rw [← places]
    exact inv.run c isOpen'

theorem slotInv_closes {p q : Play} {r : Region} (inv : SlotInv p r) (closes : Closes r p q) : SlotInv q r := by
  obtain ⟨b, wasSplit, isOpen, plans⟩ := closes.slot
  have written : ∀ m, q.slot r m = if b.slot = m then p.slotBack r b.slot wasSplit else p.slot r m := fun m => by
    rw [slot_setSlot_of_plans plans]
    simp only [true_and]
  obtain ⟨ready, plan⟩ := inv.apart.write written (slotBack_plan p r b.slot wasSplit) fun pl => slotBack_alone
  refine ⟨ready, ⟨fun _ => closes.off, fun _ => closes.closed⟩, fun m => ?_, plan, fun c isOpen' => ?_⟩
  · rw [closes.closed, written]
    refine ⟨fun held => absurd held ?_, fun ⟨c, absent, _⟩ => by cases absent⟩
    split
    · exact slotBack_state p r b.slot wasSplit
    · rename_i other
      intro held
      obtain ⟨c, isOpen', slot⟩ := (inv.held m).1 held
      rw [isOpen] at isOpen'
      cases isOpen'
      exact other slot
  · rw [closes.closed] at isOpen'
    cases isOpen'

theorem slotInv_opened {p p1 p2 q : Play} {r : Region} {n : Fin 16} (inv : SlotInv p r) (opens : Opens r n p p1) (steps : Calm p1 p2)
    (enters : Enters r p2 q) : SlotInv q r := by
  have closed : (p.region r).brk = none := opens.free.elim id inv.states.2
  obtain ⟨b, isOpen, slot, sorted⟩ := opens.opened
  have shape := (steps.keeps.1 r).shape
  rw [isOpen] at shape
  obtain ⟨c, isOpen2, same⟩ := Option.map_eq_some_iff.1 shape
  have isOpen' : (q.region r).brk = some c := enters.brk.trans isOpen2
  have slot' : c.slot = n := (congrArg Prod.fst same).trans slot
  have written : ∀ m, q.slot r m = if n = m then { p.slot r n with state := .inUse } else p.slot r m := fun m => by
    rw [slot_setSlot_of_plans (enters.plans.trans (steps.keeps.2.trans opens.plans))]
    simp only [true_and]
  have full : (p.slot r n).plan ≠ none := fun absent => by
    rw [inv.plan, opens.ready] at absent
    cases absent
  obtain ⟨ready, plan⟩ := inv.apart.write written ⟨fun absent => absurd absent full, fun empty => by cases empty⟩
    fun pl ready => by cases congrArg Slot.state ready
  refine ⟨ready, ?_, fun m => ?_, plan, fun d isOpen3 => ?_⟩
  · rw [isOpen']
    exact ⟨nofun, fun off => absurd off enters.on⟩
  · rw [written]
    split
    · rename_i isN
      exact ⟨fun _ => ⟨c, isOpen', slot'.trans isN⟩, fun _ => trivial⟩
    · rename_i notN
      refine ⟨fun held => ?_, fun ⟨d, isOpen3, slot3⟩ => ?_⟩
      · obtain ⟨d, isOpen3, -⟩ := (inv.held m).1 held
        rw [closed] at isOpen3
        cases isOpen3
      · rw [isOpen'] at isOpen3
        cases isOpen3
        exact absurd (slot'.symm.trans slot3) notN
  · rw [isOpen'] at isOpen3
    cases isOpen3
    have places : c.run.map RunEntry.index = b.run.map RunEntry.index := congrArg Prod.snd same
    rw [places]
    exact sorted

/-- The slots of every region are in order. -/
def SlotsInv (p : Play) : Prop := ∀ r, SlotInv p r

theorem slotsInv_moveStep {p q : Play} (inv : SlotsInv p) (step : MoveStep p q) : SlotsInv q := by
  intro x
  cases step with
  | calm steps => exact slotInv_keeps (inv x) (steps.keeps.1 x) fun n => slot_of_plans steps.keeps.2 x n
  | closed r closes =>
    by_cases own : x = r
    · rw [own]
      exact slotInv_closes (inv r) closes
    · obtain ⟨b, wasSplit, -, plans⟩ := closes.slot
      refine slotInv_keeps (inv x) (closes.others x own) fun n => ?_
      rw [slot_setSlot_of_plans plans, if_neg fun both => own both.1.symm]
  | opened r n opens steps enters =>
    by_cases own : x = r
    · rw [own]
      exact slotInv_opened (inv r) opens steps enters
    · refine slotInv_keeps (inv x) ?_ fun m => ?_
      · rw [enters.others x own]
        exact (opens.others x own).trans (steps.keeps.1 x)
      · rw [slot_setSlot_of_plans (enters.plans.trans (steps.keeps.2.trans opens.plans)), if_neg fun both => own both.1.symm]

theorem slotsInv_moved {p q : Play} (inv : SlotsInv p) (moved : Moved p q) : SlotsInv q := by
  induction moved with
  | refl => exact inv
  | tail _ step ih => exact slotsInv_moveStep ih step

/-- Blocks whose slots are the same and whose regions keep their breaks. -/
theorem slotsInv_same {p q : Play} (inv : SlotsInv p) (regions : ∀ r, KeepsBreak (p.region r) (q.region r)) (plans : q.plans = p.plans) :
    SlotsInv q := fun r => slotInv_keeps (inv r) (regions r) fun n => slot_of_plans plans r n

/-! ## The invariant under the requests of spec/02 and spec/03 -/

/-- A slot that no break holds written. -/
theorem slotsInv_setSlot {p : Play} {r : Region} {n : Fin 16} {x : Slot} (inv : SlotsInv p)
    (held : x.state.held ↔ (p.slot r n).state.held) (plan : x.plan = none ↔ x.state = .empty)
    (alone : ∀ pl, x = ⟨.ready, some pl⟩ → p.duplicateReady r n pl.breakId = false) : SlotsInv (p.setSlot r n x) := by
  intro q
  by_cases own : q = r
  · subst own
    have written : ∀ m, (p.setSlot q n x).slot q m = if n = m then x else p.slot q m := fun m => by
      rw [Play.slot_setSlot]
      simp only [true_and]
    obtain ⟨ready, plan⟩ := (inv q).apart.write written plan alone
    refine ⟨ready, (inv q).states, fun m => ?_, plan, (inv q).run⟩
    rw [written]
    split
    · rename_i isN
      rw [held, isN]
      exact (inv q).held m
    · exact (inv q).held m
  · refine slotInv_keeps (inv q) (.refl _) fun m => ?_
    rw [Play.slot_setSlot, if_neg fun both => own both.1.symm]

theorem slotsInv_cleared {p : Play} (inv : SlotsInv p) (r : Region) (n : Fin 16) : SlotsInv (p.setSlot r n (p.slot r n).cleared) := by
  have plan := (inv r).plan n
  refine slotsInv_setSlot inv ?_ ?_ fun pl ready => ?_
  all_goals
    cases state : (p.slot r n).state
    all_goals simp_all [Slot.cleared, Slot.reset, SlotState.held]

theorem slotsInv_closePlan {s : State} (inv : SlotsInv s.play) {r : Region} {n : Fin 16} {pl : Plan}
    (loading : (s.play.slot r n).state = .loading) : SlotsInv (s.closePlan r n pl).state.play := by
  unfold State.closePlan
  split
  · exact inv
  · split
    · exact inv
    · rename_i alone
      refine slotsInv_setSlot inv (by rw [loading]; exact Iff.rfl) ⟨nofun, nofun⟩
        fun pl' same => ?_
      cases same
      exact Bool.not_eq_true _ ▸ alone

/-- A region that is, and stays, without a break. -/
theorem slotsInv_setRegion {p : Play} (inv : SlotsInv p) {r : Region} {x : RegionRec} (brk : x.brk = (p.region r).brk)
    (state : x.state.off ↔ (p.region r).state.off) : SlotsInv (p.setRegion r x) := by
  refine slotsInv_same inv (fun q => ?_) rfl
  rw [Play.region_setRegion]
  split
  · rename_i same
    subst same
    exact ⟨by rw [brk], .inl state⟩
  · exact .refl _

theorem slotsInv_configure {s : State} (inv : SlotsInv s.play) (r : Region) (f : ConfigureRegionFields) :
    SlotsInv (s.configure r f).state.play := by
  unfold State.configure
  dsimp only
  split
  · exact inv
  · rename_i idle
    split
    · exact inv
    · have off : (s.play.region r).state.off := by
        simp only [Bool.and_eq_true, bne_iff_ne, ne_eq, not_and_or, not_not] at idle
        exact idle
      refine slotsInv_setRegion inv rfl ⟨fun _ => off, fun _ => ?_⟩
      dsimp only
      split
      · exact off
      · exact .inr rfl

end Sys2Proof.Machine

/-! # The Cue Unit: intake, the ordered table, the re-test and the dispatch mark (O14) -/

namespace Sys2Proof.Machine

/-! ## The cue record (R1) -/

theorem cueKindOf_iff (n : Nat) : (cueKindOf n = none ↔ n = 0 ∨ 4 < n) ∧
    ∀ k, cueKindOf n = some k → k.code = n ∧ ∀ nominal, k.clampNominal nominal = if n ≤ 2 then min 600000 nominal else 0 := by
  unfold cueKindOf
  split
  case h_5 none prepare split rejoin cancel =>
    refine ⟨⟨fun _ => ?_, fun _ => rfl⟩, nofun⟩
    by_cases zero : n = 0
    · exact .inl zero
    · have h1 : n ≠ 1 := prepare
      have h2 : n ≠ 2 := split
      have h3 : n ≠ 3 := rejoin
      have h4 : n ≠ 4 := cancel
      omega
  all_goals exact ⟨by simp, fun k is => by cases is; exact ⟨rfl, fun _ => rfl⟩⟩

theorem cue_iff (x : CueRecord) :
    (x.cue = none ↔ x.kind = 0 ∨ 4 < x.kind ∨ x.breakId = 0 ∨ 47 < x.target.sample ∨ x.mask = 0) ∧
    ∀ c, x.cue = some c → c.kind.code = x.kind ∧ c.breakId = x.breakId ∧ c.target = x.target ∧ c.mask = x.mask ∧ c.dispatched = 0 ∧
      c.nominal = if x.kind ≤ 2 then min 600000 x.nominal else 0 := by
  obtain ⟨absent, known⟩ := cueKindOf_iff x.kind
  unfold CueRecord.cue
  split
  · rename_i unknown
    refine ⟨⟨fun _ => ?_, fun _ => rfl⟩, nofun⟩
    rcases absent.1 unknown with zero | above
    · exact .inl zero
    · exact .inr (.inl above)
  · rename_i k is
    obtain ⟨code, nominal⟩ := known k is
    have defined : ¬ (x.kind = 0 ∨ 4 < x.kind) := fun bad => by
      rw [absent.2 bad] at is
      cases is
    split
    · rename_i bad
      exact ⟨⟨fun _ => .inr (.inr bad), fun _ => rfl⟩, nofun⟩
    · rename_i good
      refine ⟨⟨nofun, fun bad => ?_⟩, fun c is' => ?_⟩
      · rcases bad with zero | above | bad
        · exact absurd (.inl zero) defined
        · exact absurd (.inr above) defined
        · exact absurd bad good
      · cases is'
        exact ⟨code, rfl, rfl, rfl, rfl, nominal x.nominal⟩

theorem record_of_cue {x : CueRecord} {c : PendingCue} (is : x.cue = some c) :
    c.record = ⟨x.kind, c.breakId, c.target, c.mask, c.nominal⟩ := by
  unfold PendingCue.record
  rw [((cue_iff x).2 c is).1]

/-! ## Distances, keys and repeats (R3, R4, R5) -/

theorem cueDistance_eq {target n : Nat} (small : n < 65536) : cueDistance target n = (target + 65536 - n) % 65536 := by
  unfold cueDistance
  rw [Nat.mod_eq_of_lt small]

theorem staleBand_iff (d : Nat) : staleBand d = true ↔ 256 ≤ d ∧ d ≤ 65532 := by
  unfold staleBand
  rw [Bool.and_eq_true, decide_eq_true_iff, decide_eq_true_iff]

theorem lateBand_iff (d : Nat) : lateBand d = true ↔ 65533 ≤ d := decide_eq_true_iff

theorem key_eq (c : PendingCue) {n : Nat} (small : n < 65536) (kept : (c.target.seq + 65536 - n) % 65536 < 256 ∨
    65532 < (c.target.seq + 65536 - n) % 65536) :
    c.key n = (if (c.target.seq + 65536 - n) % 65536 < 256 then (((c.target.seq + 65536 - n) % 65536 : Nat) : Int)
      else (((c.target.seq + 65536 - n) % 65536 : Nat) : Int) - 65536) * 48 + c.target.sample := by
  unfold PendingCue.key
  rw [cueDistance_eq small]
  dsimp only
  generalize (c.target.seq + 65536 - n) % 65536 = d at kept ⊢
  congr 2
  by_cases late : lateBand d = true
  · rw [if_pos late, if_neg (by have := (lateBand_iff d).1 late; omega)]
  · rw [if_neg late, if_pos (by rw [lateBand_iff] at late; omega)]

theorem same_iff (x c : PendingCue) : x.same c.kind c.breakId c.target = true ↔ SameCue x c := by
  simp [PendingCue.same, SameCue, and_assoc]

theorem isRepeat_iff (u : CueUnit) (c : PendingCue) :
    u.isRepeat c = true ↔ (∃ y ∈ u.table, SameCue y c) ∨ ⟨c.kind, c.breakId, c.target⟩ ∈ u.history := by
  unfold CueUnit.isRepeat
  rw [Bool.or_eq_true, List.any_eq_true, List.any_eq_true]
  refine or_congr (exists_congr fun y => and_congr_right fun _ => same_iff y c) ⟨?_, fun inside => ⟨_, inside, by simp [PendingCue.same]⟩⟩
  rintro ⟨x, inside, same⟩
  obtain ⟨kind, breakId, target⟩ := x
  simp only [PendingCue.same, Bool.and_eq_true, beq_iff_eq] at same
  obtain ⟨⟨rfl, rfl⟩, rfl⟩ := same
  exact inside

/-! ## The table (R5, R6) -/

theorem insertCue_spec (n : Nat) (c : PendingCue) (l : List PendingCue) : ∃ a b, l = a ++ b ∧ insertCue n c l = a ++ c :: b ∧
    (∀ y ∈ a, y.key n ≤ c.key n) ∧ ∀ y, b.head? = some y → c.key n < y.key n := by
  induction l with
  | nil => exact ⟨[], [], rfl, rfl, nofun, nofun⟩
  | cons x l ih =>
    unfold insertCue
    split
    · rename_i before
      refine ⟨[], x :: l, rfl, rfl, nofun, fun y first => ?_⟩
      cases first
      exact before
    · rename_i behind
      obtain ⟨a, b, whole, inserted, le, lt⟩ := ih
      refine ⟨x :: a, b, by rw [whole]; rfl, by rw [inserted]; rfl, fun y inside => ?_, lt⟩
      rcases List.mem_cons.1 inside with rfl | inside
      · exact Int.not_lt.1 behind
      · exact le y inside

theorem insertCue_perm (n : Nat) (c : PendingCue) (l : List PendingCue) : (insertCue n c l).Perm (c :: l) := by
  obtain ⟨a, b, whole, inserted, -, -⟩ := insertCue_spec n c l
  rw [inserted, whole]
  exact List.perm_middle

/-! ## The intake of one record -/

theorem takeCue_malformed {t : Now} {n : Nat} {y : CueUnit × Play} {x : CueRecord} (bad : x.cue = none) :
    takeCue t n y x = dropCue t n .malformed x y := by
  unfold takeCue
  rw [bad]

section
variable {t : Now} {n : Nat} {u : CueUnit} {p : Play} {x : CueRecord} {c : PendingCue} (is : x.cue = some c)
include is

theorem takeCue_stale (stale : staleBand (cueDistance c.target.seq n) = true) : takeCue t n (u, p) x = dropCue t n .stale c.record (u, p) := by
  unfold takeCue
  rw [is]
  exact if_pos stale

theorem takeCue_repeat (kept : staleBand (cueDistance c.target.seq n) = false) (repeats : u.isRepeat c = true) :
    takeCue t n (u, p) x = (u, p) := by
  unfold takeCue
  rw [is]
  dsimp only
  rw [kept, repeats]
  rfl

theorem takeCue_enters (kept : staleBand (cueDistance c.target.seq n) = false) (new : u.isRepeat c = false) :
    takeCue t n (u, p) x = enterCue t n c (u, p) := by
  unfold takeCue
  rw [is]
  dsimp only
  rw [kept, new]
  rfl

end

theorem enterCue_room {t : Now} {n : Nat} {c : PendingCue} {u : CueUnit} {p : Play} (room : u.table.length < 8) :
    enterCue t n c (u, p) = ({ u with table := insertCue n c u.table }, p) := by
  unfold enterCue
  exact if_pos room

theorem enterCue_full {t : Now} {n : Nat} {c last : PendingCue} {u : CueUnit} {p : Play} {init : List PendingCue}
    (table : u.table = init ++ [last]) (full : u.table.length = 8) : enterCue t n c (u, p) =
      if c.key n < last.key n then dropCue t n .full last.record ({ u with table := insertCue n c init }, p)
      else dropCue t n .full c.record (u, p) := by
  unfold enterCue
  dsimp only
  rw [if_neg (by omega), table, List.getLast?_concat, List.dropLast_concat]

/-! ## The re-test at a relock (R11) -/

theorem retest_fold (t : Now) (n : Nat) (l : List PendingCue) (v : CueUnit) (p : Play) (bound : v.dropped ≤ 65535) :
    (l.foldl (retestCue t n) (v, p)).1 = { v with
      table := v.table ++ l.filter fun c => !staleBand (cueDistance c.target.seq n)
      dropped := min 65535 (v.dropped + (l.length - (l.filter fun c => !staleBand (cueDistance c.target.seq n)).length)) } := by
  induction l generalizing v p with
  | nil => simp [Nat.min_eq_right bound]
  | cons c l ih =>
    have within := List.length_filter_le (fun c : PendingCue => !staleBand (cueDistance c.target.seq n)) l
    have first : retestCue t n (v, p) c = if staleBand (cueDistance c.target.seq n) then dropCue t n .stale c.record (v, p)
      else ({ v with table := v.table ++ [c] }, p) := rfl
    rw [List.foldl_cons, first]
    by_cases stale : staleBand (cueDistance c.target.seq n) = true
    · rw [if_pos stale, List.filter_cons_of_neg (by rw [stale]; nofun)]
      refine (ih _ _ (Nat.min_le_left ..)).trans ?_
      unfold CueUnit.countDrop
      simp only [List.length_cons]
      congr 1
      omega
    · rw [if_neg stale, List.filter_cons_of_pos (by rw [Bool.not_eq_true] at stale; rw [stale]; rfl)]
      refine (ih { v with table := v.table ++ [c] } p bound).trans ?_
      simp only [List.append_assoc, List.singleton_append, List.length_cons]
      congr 1
      omega

theorem retest_eq (t : Now) (n : Nat) (u : CueUnit) (p : Play) (bound : u.dropped ≤ 65535) : (retest t n (u, p)).1 = { u with
    table := u.table.filter fun c => !staleBand (cueDistance c.target.seq n)
    dropped := min 65535 (u.dropped + (u.table.length - (u.table.filter fun c => !staleBand (cueDistance c.target.seq n)).length)) } :=
  retest_fold t n u.table { u with table := [] } p bound

/-! ## The bounds of the Cue Unit (R5, R9, R10) -/

theorem SameCue.symm {a b : PendingCue} (same : SameCue a b) : SameCue b a := by
  obtain ⟨kind, breakId, target⟩ := same
  exact ⟨kind.symm, breakId.symm, target.symm⟩

theorem cueInv_intake {u : CueUnit} (inv : CueInv u) (l : List CueRecord) : CueInv { u with intake := l } :=
  ⟨inv.table, inv.distinct, inv.history, inv.dropped⟩

theorem cueInv_drop {u : CueUnit} (inv : CueInv u) : CueInv u.countDrop := ⟨inv.table, inv.distinct, inv.history, Nat.min_le_left ..⟩

/-- A cue entered that is no repeat, where a table shortened to make room has it. -/
theorem cueInv_insert {u : CueUnit} (inv : CueInv u) {l : List PendingCue} (sub : l.Sublist u.table) (room : l.length < 8) (n : Nat)
    {c : PendingCue} (new : ∀ y ∈ u.table, ¬ SameCue y c) : CueInv { u with table := insertCue n c l } := by
  have perm := insertCue_perm n c l
  refine ⟨by rw [perm.length_eq]; exact room, ?_, inv.history, inv.dropped⟩
  refine (perm.pairwise_iff fun different same => different same.symm).2 (List.pairwise_cons.2 ⟨fun y inside same => ?_, inv.distinct.sublist sub⟩)
  exact new y (sub.subset inside) same.symm

theorem cueInv_takeCue {u : CueUnit} (inv : CueInv u) (t : Now) (n : Nat) (p : Play) (x : CueRecord) : CueInv (takeCue t n (u, p) x).1 := by
  cases is : x.cue with
  | none =>
    rw [takeCue_malformed is]
    exact cueInv_drop inv
  | some c =>
    cases stale : staleBand (cueDistance c.target.seq n) with
    | true =>
      rw [takeCue_stale is stale]
      exact cueInv_drop inv
    | false =>
      cases repeats : u.isRepeat c with
      | true =>
        rw [takeCue_repeat is stale repeats]
        exact inv
      | false =>
        have new : ∀ y ∈ u.table, ¬ SameCue y c := fun y inside same => by
          rw [(isRepeat_iff u c).2 (.inl ⟨y, inside, same⟩)] at repeats
          cases repeats
        rw [takeCue_enters is stale repeats]
        by_cases room : u.table.length < 8
        · rw [enterCue_room room]
          exact cueInv_insert inv (.refl _) room n new
        · have full : u.table.length = 8 := by
            have := inv.table
            omega
          obtain ⟨init, last, table⟩ : ∃ init last, u.table = init ++ [last] :=
            ⟨_, _, (List.dropLast_concat_getLast (by intro none; rw [none] at full; cases full)).symm⟩
          rw [enterCue_full table full]
          split
          · refine cueInv_drop (cueInv_insert inv (by rw [table]; exact List.sublist_append_left ..) ?_ n new)
            rw [table, List.length_append, List.length_singleton] at full
            omega
          · exact cueInv_drop inv

theorem cueInv_foldl {α : Type} {f : CueUnit × Play → α → CueUnit × Play} (each : ∀ u p x, CueInv u → CueInv (f (u, p) x).1) (l : List α)
    {y : CueUnit × Play} (inv : CueInv y.1) : CueInv (l.foldl f y).1 := by
  induction l generalizing y with
  | nil => exact inv
  | cons x l ih => exact ih (each y.1 y.2 x inv)

theorem cueInv_retest {u : CueUnit} (inv : CueInv u) (t : Now) (n : Nat) (p : Play) : CueInv (retest t n (u, p)).1 := by
  rw [retest_eq t n u p inv.dropped]
  exact ⟨(List.length_filter_le ..).trans inv.table, inv.distinct.sublist List.filter_sublist, inv.history, Nat.min_le_left ..⟩

theorem cueInv_takeCues {s : State} (inv : CueInv s.cues) (f : ProgFrame) : CueInv (s.takeCues f).cues := by
  have tested : CueInv (if s.link.retest then retest s.now f.seq ({ s.cues with intake := f.cues }, s.play)
      else ({ s.cues with intake := f.cues }, s.play)).1 := by
    split
    · exact cueInv_retest (cueInv_intake inv _) _ _ _
    · exact cueInv_intake inv _
  exact cueInv_intake (cueInv_foldl (fun u p x inv => cueInv_takeCue inv _ _ p x) _ tested) []

/-- The entry that a dispatch leaves of an entry. -/
def PendingCue.markedAs (x c d : PendingCue) : PendingCue := if x.same c.kind c.breakId c.target then d else x

theorem sameCue_markedAs {c d : PendingCue} (same : SameCue c d) (x : PendingCue) : SameCue (x.markedAs c d) x := by
  unfold PendingCue.markedAs
  split
  · rename_i isC
    obtain ⟨kind, breakId, target⟩ := (same_iff x c).1 isC
    obtain ⟨kind', breakId', target'⟩ := same
    exact ⟨kind'.symm.trans kind.symm, breakId'.symm.trans breakId.symm, target'.symm.trans target.symm⟩
  · exact ⟨rfl, rfl, rfl⟩

theorem SameCue.trans {a b c : PendingCue} (first : SameCue a b) (second : SameCue b c) : SameCue a c := by
  obtain ⟨kind, breakId, target⟩ := first
  obtain ⟨kind', breakId', target'⟩ := second
  exact ⟨kind.trans kind', breakId.trans breakId', target.trans target'⟩

theorem length_pushHistory (h : List ExecutedCue) (c : PendingCue) (bound : h.length ≤ 16) : (pushHistory h c).length ≤ 16 := by
  unfold pushHistory
  rw [List.length_append, List.length_singleton]
  split
  · omega
  · rw [List.length_drop]
    omega

theorem cueInv_mark {u : CueUnit} (inv : CueInv u) (c : PendingCue) (r : Region) : CueInv (u.mark c r) := by
  unfold CueUnit.mark
  dsimp only
  split
  · exact ⟨(List.length_filter_le ..).trans inv.table, inv.distinct.sublist List.filter_sublist, length_pushHistory _ _ inv.history,
      inv.dropped⟩
  · refine ⟨by rw [List.length_map]; exact inv.table, List.pairwise_map.2 (inv.distinct.imp fun different same => different ?_), inv.history,
      inv.dropped⟩
    have marked := sameCue_markedAs (c := c) (d := { c with dispatched := c.dispatched ||| oneRegion r }) ⟨rfl, rfl, rfl⟩
    exact (marked _).symm.trans (same.trans (marked _))

end Sys2Proof.Machine

/-! # Every event on the air goes by steps: the commands, the sample, the frame boundary -/

namespace Sys2Proof.Machine

/-! ## The gates and the intake at a boundary -/

section
variable {p q : Play} (before : Calm p q)
include before

theorem Calm.closeTest (t : Now) (g : LinkGroup) : Calm p (q.closeTest t g) := by
  unfold Play.closeTest
  dsimp only
  split
  · exact before.setGate g _
  · exact before

theorem Calm.openGate (t : Now) (g : LinkGroup) : Calm p (q.openGate t g) := by
  unfold Play.openGate
  dsimp only
  have opened := Calm.foldl (f := fun q (a : Region × Nat) => q.modRegion a.1 fun y => { y with opening := some g })
    (fun q a (before : Calm p q) => before.modRegion a.1 _ ⟨rfl, .inl Iff.rfl⟩) (q.gate g).arrived
    (before.setGate g { q.gate g with state := .opened, openPoint := some t.count, joinDeadline := some (t.count + (q.gate g).waitMs * 48) })
  split
  · exact opened
  · exact opened.raise t 0 _

theorem Calm.gateTest (t : Now) (g : LinkGroup) : Calm p (q.gateTest t g) := by
  unfold Play.gateTest
  dsimp only
  split
  · exact before
  · split
    · exact before.setGate g _
    · split
      · exact (before.openGate t g).closeTest t g
      · exact before
  · exact before.closeTest t g

theorem Calm.gateTests (t : Now) : Calm p (q.gateTests t) := Calm.foldl (fun _ g h => h.gateTest t g) _ before

theorem Calm.dropCue (t : Now) (n : Nat) (why : DropReason) (x : CueRecord) (u : CueUnit) : Calm p (dropCue t n why x (u, q)).2 :=
  before.raise t 0 _

theorem Calm.enterCue (t : Now) (n : Nat) (c : PendingCue) (u : CueUnit) : Calm p (enterCue t n c (u, q)).2 := by
  unfold Machine.enterCue
  split
  · exact before
  · split
    · exact before
    · split
      · exact before.raise t 0 _
      · exact before.raise t 0 _

theorem Calm.takeCue (t : Now) (n : Nat) (u : CueUnit) (x : CueRecord) : Calm p (takeCue t n (u, q) x).2 := by
  unfold Machine.takeCue
  split
  · exact before.dropCue t n _ x u
  · split
    · exact before.raise t 0 _
    · split
      · exact before
      · exact before.enterCue t n _ u

end

theorem Calm.foldl_intake {α : Type} {p : Play} {f : CueUnit × Play → α → CueUnit × Play}
    (each : ∀ u q x, Calm p q → Calm p (f (u, q) x).2) (l : List α) {y : CueUnit × Play} (before : Calm p y.2) :
    Calm p (l.foldl f y).2 := by
  induction l generalizing y with
  | nil => exact before
  | cons x l ih => exact ih (each y.1 y.2 x before)

theorem calm_takeCues (s : State) (f : ProgFrame) : Calm s.play (s.takeCues f).play := by
  have tested : Calm s.play (if s.link.retest then retest s.now f.seq ({ s.cues with intake := f.cues }, s.play)
      else ({ s.cues with intake := f.cues }, s.play)).2 := by
    split
    · refine Calm.foldl_intake (fun u q c before => ?_) _ (.refl s.play)
      unfold retestCue
      split
      · exact before.raise _ 0 _
      · exact before
    · exact .refl s.play
  exact Calm.foldl_intake (fun u q x before => before.takeCue _ _ u x) _ tested

/-! ## An event on the air -/

/-- What the events on the air do: steps of the on-air blocks, with the Cue Unit kept in its bounds, the operations and the staging buffer
of the store as they were, and the read in flight. -/
structure Aired (s t : State) : Prop where
  moved : Moved s.play t.play
  cues : CueInv s.cues → CueInv t.cues
  queue : t.store.queue = s.store.queue
  current : t.store.current.map (fun c => (c.op, c.stage)) = s.store.current.map fun c => (c.op, c.stage)
  holds : t.store.holds = s.store.holds
  staging : t.store.staging = s.store.staging
  inFlight : t.inFlight = s.inFlight

theorem Aired.refl (s : State) : Aired s s := ⟨.refl _, id, rfl, rfl, rfl, rfl, rfl⟩

theorem Aired.trans {s t u : State} (first : Aired s t) (second : Aired t u) : Aired s u :=
  ⟨first.moved.trans second.moved, second.cues ∘ first.cues, second.queue.trans first.queue, second.current.trans first.current,
    second.holds.trans first.holds, second.staging.trans first.staging, second.inFlight.trans first.inFlight⟩

theorem Aired.play {s : State} {p : Play} (moved : Moved s.play p) : Aired s { s with play := p } :=
  ⟨moved, id, rfl, rfl, rfl, rfl, rfl⟩

theorem aired_settleArray (s : State) : Aired s s.settleArray := by
  obtain ⟨cur, form, same⟩ := settleArray_form s
  rw [form]
  exact ⟨.refl _, id, rfl, same, rfl, rfl, rfl⟩

theorem Moved.taken {p : Play} (s : State) (q : Play) (before : Moved p q) : Moved p (s.taken q).play := by
  have after : s.taken q = s.after q := rfl
  rw [after, after_play]
  split
  · exact (before.settleArrivals s.now).calm ((Calm.refl _).poolRound s.now)
  · exact before

theorem Aired.taken {s : State} {p : Play} (moved : Moved s.play p) : Aired s (s.taken p) := by
  have play := moved.taken s p
  obtain ⟨q, cur, done, form, same⟩ := taken_form s p
  rw [form] at play ⊢
  exact ⟨play, id, rfl, same, rfl, rfl, rfl⟩

theorem Aired.event {s : State} {due : Bool} {f : Play → Now → Play} (moved : Moved s.play (f s.play s.now)) : Aired s (s.event due f) := by
  unfold State.event
  split
  · exact .taken moved
  · exact .refl s

theorem aired_grantReturned (s : State) : Aired s s.grantReturned := by
  rcases grantReturned_cases s with same | granted
  · rw [same]
    exact .refl s
  · rw [granted]
    exact .play ((Moved.refl s.play).calm (Calm.refl s.play).grants)

theorem aired_dispatch (s : State) (r : Region) (c : PendingCue) : Aired s (s.dispatch r c) :=
  ⟨(Moved.refl s.play).onCue _ r c _, fun inv => cueInv_mark inv c r, rfl, rfl, rfl, rfl, rfl⟩

/-! ## The commands on the air -/

/-- The commands that take one event on the air. -/
def onAirCommand : Instr → Bool
  | .gateDeadline _ | .joinDeadline _ | .gateOpening _ | .cueDispatch _ | .leadInStart _ | .armTimerExpiry _ | .breakTimerExpiry _
  | .rampCompletion _ | .itemEnd _ | .loopWrap _ | .primedEntryStart _ | .fillerStartAfterSkip _ | .poolRequest _ | .decisionPoint _
  | .mixStart _ | .lateCrossfadeStart _ => true
  | _ => false

theorem aired_rampCompletion (h : RampHolder) (s : State) : ∃ t, exec (.rampCompletion h) s = .next t ∧ Aired s t := by
  refine ⟨_, rfl, ?_⟩
  cases h with
  | bed r => exact .event ((Moved.refl s.play).bedRampEnd _ r)
  | voice v =>
    dsimp only
    split
    · rename_i r _
      exact .event ((Moved.refl s.play).voiceRampEnd _ r v)
    · exact .refl s
  | group g =>
    dsimp only
    split
    · exact .refl s
    · exact ⟨.refl _, id, rfl, rfl, rfl, rfl, rfl⟩

theorem exec_onAir (c : Instr) (s : State) (onAir : onAirCommand c = true) : ∃ t, exec c s = .next t ∧ Aired s t := by
  have still := Calm.refl s.play
  have start := Moved.refl s.play
  cases c with
  | gateDeadline g =>
    refine ⟨_, rfl, ?_⟩
    split
    · exact .play (start.calm (still.gateTest _ g))
    · exact .refl s
  | joinDeadline g =>
    refine ⟨_, rfl, ?_⟩
    split
    · exact .play (start.calm (still.closeTest _ g))
    · exact .refl s
  | gateOpening g => exact ⟨_, rfl, .event (start.openRegions _ g)⟩
  | cueDispatch r =>
    show ∃ t, execCueDispatch r s = .next t ∧ Aired s t
    unfold execCueDispatch
    split
    · rename_i c _
      refine ⟨_, rfl, ?_⟩
      split
      · exact (aired_dispatch s r c).trans (.taken (.refl _))
      · exact .refl s
    · exact ⟨_, rfl, .refl s⟩
  | leadInStart r => exact ⟨_, rfl, .event (start.calm (still.leadInStart _ r))⟩
  | armTimerExpiry r => exact ⟨_, rfl, .event (start.armExpire _ r)⟩
  | breakTimerExpiry r => exact ⟨_, rfl, .event (start.breakEnd _ r _ _)⟩
  | rampCompletion h => exact aired_rampCompletion h s
  | itemEnd v =>
    refine ⟨_, rfl, ?_⟩
    split
    · rename_i r _
      exact .event ((start.finishBefore _ r v).finishVoice _ r v)
    · exact .refl s
  | loopWrap v => exact ⟨_, rfl, .event (start.calm (still.modVoice v _))⟩
  | primedEntryStart r => exact ⟨_, rfl, .event (start.calm (still.startHeld _ r 0))⟩
  | fillerStartAfterSkip r => exact ⟨_, rfl, .event (start.calm (still.fillerStart _ r))⟩
  | poolRequest r => exact ⟨_, rfl, .event (start.calm (still.request _ r))⟩
  | decisionPoint r => exact ⟨_, rfl, .event (start.calm (still.decideWaiting _ r))⟩
  | mixStart r => exact ⟨_, rfl, .event (start.calm (still.mixStart _ r))⟩
  | lateCrossfadeStart r => exact ⟨_, rfl, .event (start.calm (still.lateMixStart _ r))⟩
  | _ => cases onAir

/-! ## A sample -/

theorem aired_dispatchAll (r : Region) (n : Nat) (s : State) : Aired s (State.dispatchAll r n s) := by
  induction n generalizing s with
  | zero => exact .refl s
  | succ n ih =>
    unfold State.dispatchAll
    split
    · exact .refl s
    · rename_i c _
      exact (aired_dispatch s r c).trans (ih _)

theorem aired_regionEvents (s : State) (r : Region) : Aired s (s.regionEvents r) :=
  (aired_dispatchAll r _ s).trans (.play (((Moved.refl _).endings _ r).starts _ r))

theorem aired_takeEvents (s : State) : Aired s s.takeEvents := by
  have regions (l : List Region) (u : State) : Aired u (l.foldl State.regionEvents u) := by
    induction l generalizing u with
    | nil => exact .refl u
    | cons r l ih => exact (aired_regionEvents u r).trans (ih _)
  have levels : Aired s s.groupCompletions := ⟨.refl _, id, rfl, rfl, rfl, rfl, rfl⟩
  exact (levels.trans (regions allRegions _)).trans (.play ((Moved.refl _).settleSample _))

theorem aired_mixSample (s : State) (p : Period) : Aired s (s.mixSample p) := by
  have moved := (Moved.refl s.play).calm
    (Calm.foldl (fun _ r h => h.mixRegion s.now s.levels (p.bed.getD s.sample (0, 0)) r) allRegions (.refl s.play))
  unfold State.mixSample
  dsimp only
  generalize allRegions.foldl (fun q r => q.mixRegion s.now s.levels (p.bed.getD s.sample (0, 0)) r) s.play = q at moved ⊢
  exact ⟨moved, id, rfl, rfl, rfl, rfl, rfl⟩

theorem aired_closeFrame (s : State) (p : Period) : Aired s (s.closeFrame p) := by
  unfold State.closeFrame
  split
  · exact ⟨.refl _, id, rfl, rfl, rfl, rfl, rfl⟩
  · exact .refl s

theorem aired_formSample (s : State) : Aired s s.formSample := by
  unfold State.formSample
  split
  · split
    · exact (((aired_takeEvents s).trans (aired_mixSample _ _)).trans (aired_closeFrame _ _)).trans (aired_settleArray _)
    · exact .refl s
  · exact .refl s

theorem aired_formSamples (n : Nat) (s : State) : Aired s (State.formSamples n s) := by
  induction n generalizing s with
  | zero => exact .refl s
  | succ n ih => exact (aired_formSample s).trans (ih _)

theorem aired_boundaryTests (s : State) : Aired s s.boundaryTests := by
  have moved := (Moved.refl s.play).calm ((Calm.refl s.play).gateTests s.now)
  unfold State.boundaryTests
  generalize s.play.gateTests s.now = q at moved ⊢
  exact ⟨moved, id, rfl, rfl, rfl, rfl, rfl⟩

end Sys2Proof.Machine

/-! # The queues of the Management Agent under every operation (O31) -/

namespace Sys2Proof.Machine

/-! ## The bounds of the agent's queues -/

/-- The entry of the return queue that is held for a Read Page in hand (R141). -/
def Agent.hand (a : Agent) : Nat := match a.inHand with
  | some j => if j.broadcast then 0 else 1
  | none => 0

/-- The agent's queues in their bounds. -/
structure AgentInv (a : Agent) : Prop where
  input : a.input.length ≤ 16
  returns : a.returns.length + a.hand ≤ 32
  notices : (a.returns.filter QueueEntry.isNotice).length ≤ 24

theorem queueInv_iff (s : State) : QueueInv s ↔ AgentInv s.play.agent ∧ s.store.queue.length ≤ 8 :=
  ⟨fun inv => ⟨⟨inv.input, inv.returns, inv.notices⟩, inv.store⟩, fun ⟨agent, store⟩ => ⟨agent.input, agent.returns, agent.notices, store⟩⟩

/-- Queues that have only become shorter. -/
theorem AgentInv.shorter {a b : Agent} (inv : AgentInv a) (input : b.input.length ≤ a.input.length) (hand : b.hand = a.hand)
    (returns : b.returns.Sublist a.returns) : AgentInv b := by
  refine ⟨input.trans inv.input, ?_, (returns.filter _).length_le.trans inv.notices⟩
  have := returns.length_le
  have := inv.returns
  omega

theorem noticeRoom_iff (a : Agent) :
    a.noticeRoom = true ↔ (a.returns.filter QueueEntry.isNotice).length < 24 ∧ a.returns.length + a.hand < 32 := by
  unfold Agent.noticeRoom
  rw [Bool.and_eq_true, decide_eq_true_iff, decide_eq_true_iff]
  exact Iff.rfl

/-! ## A notice placed (R172) -/

/-- Placing a notice: a queue with room takes it, and of a full one the last entry may give way. -/
theorem place_cases (a : Agent) (e : QueueEntry) (n : Notice) :
    (a.noticeRoom = true ∧ a.place e n = { a with returns := (insertNotice e n a.returns.reverse).reverse }) ∨
    (a.noticeRoom = false ∧ a.place e n = { a with noticesDropped := true }) ∨
    ∃ init x m, a.noticeRoom = false ∧ a.returns = init ++ [x] ∧ x.payload = .notice m ∧
      a.place e n = { a with returns := (insertNotice e n init.reverse).reverse, noticesDropped := true } := by
  unfold Agent.place
  cases room : a.noticeRoom with
  | true => exact .inl ⟨rfl, rfl⟩
  | false =>
    refine .inr ?_
    rw [if_neg nofun]
    split
    · rename_i x last
      split
      · rename_i m payload
        split
        · refine .inr ⟨a.returns.dropLast, x, m, rfl, ?_, payload, rfl⟩
          exact (List.dropLast_append_getLast? x last).symm
        · exact .inl ⟨rfl, rfl⟩
      · exact .inl ⟨rfl, rfl⟩
    · exact .inl ⟨rfl, rfl⟩

theorem insertNotice_length (e : QueueEntry) (n : Notice) (l : List QueueEntry) :
    (insertNotice e n l.reverse).reverse.length = l.length + 1 := by
  rw [List.length_reverse, (insertNotice_perm e n _).length_eq, List.length_cons, List.length_reverse]

theorem insertNotice_notices (e : QueueEntry) (n : Notice) (l : List QueueEntry) :
    ((insertNotice e n l.reverse).reverse.filter QueueEntry.isNotice).length ≤ (l.filter QueueEntry.isNotice).length + 1 := by
  have perm := (List.reverse_perm _).trans ((insertNotice_perm e n l.reverse).trans ((List.reverse_perm l).cons e))
  rw [(perm.filter _).length_eq, List.filter_cons]
  split
  · exact Nat.le_refl _
  · exact Nat.le_succ _

theorem agentInv_place {a : Agent} (inv : AgentInv a) (e : QueueEntry) (n : Notice) : AgentInv (a.place e n) := by
  rcases place_cases a e n with ⟨room, placed⟩ | ⟨-, dropped⟩ | ⟨init, x, m, -, returns, payload, placed⟩
  · obtain ⟨notices, entries⟩ := (noticeRoom_iff a).1 room
    rw [placed]
    refine ⟨inv.input, ?_, (insertNotice_notices e n a.returns).trans notices⟩
    dsimp only
    rw [insertNotice_length]
    have : ({ a with returns := (insertNotice e n a.returns.reverse).reverse } : Agent).hand = a.hand := rfl
    omega
  · rw [dropped]
    exact ⟨inv.input, inv.returns, inv.notices⟩
  · rw [placed]
    obtain ⟨input, entries, notices⟩ := inv
    rw [returns] at entries notices
    have isNotice : x.isNotice = true := by
      unfold QueueEntry.isNotice
      rw [payload]
    rw [List.filter_append, List.length_append, List.filter_cons_of_pos isNotice] at notices
    rw [List.length_append] at entries
    refine ⟨input, ?_, (insertNotice_notices e n init).trans notices⟩
    dsimp only
    rw [insertNotice_length]
    exact entries

theorem agentInv_raise {p : Play} (inv : AgentInv p.agent) (t : Now) (tag : Nat) (n : Notice) : AgentInv (p.raise t tag n).agent :=
  agentInv_place inv _ n

/-! ## The queues under the steps on the air -/

theorem agentInv_reportFault {p : Play} (inv : AgentInv p.agent) (t : Now) (clip : Nat) : AgentInv (p.reportFault t clip).agent := by
  unfold Play.reportFault
  split
  · exact inv
  · dsimp only
    split
    · exact agentInv_place inv _ _
    · exact inv

theorem agentInv_calm {p q : Play} (inv : AgentInv p.agent) (calm : Calm p q) : AgentInv q.agent := by
  induction calm with
  | refl => exact inv
  | tail _ step ih =>
    cases step with
    | steady same =>
      rw [same.agent]
      exact ih
    | notice t tag n => exact agentInv_raise ih t tag n
    | fault t clip => exact agentInv_reportFault ih t clip

theorem agentInv_moved {p q : Play} (inv : AgentInv p.agent) (moved : Moved p q) : AgentInv q.agent := by
  induction moved with
  | refl => exact inv
  | tail _ step ih =>
    cases step with
    | calm steps => exact agentInv_calm ih steps
    | closed r closes =>
      rw [closes.agent]
      exact ih
    | opened r n opens steps enters =>
      rw [enters.agent]
      refine agentInv_calm ?_ steps
      rw [opens.agent]
      exact ih

/-! ## The queues under a request -/

/-- What a request other than a Read Page leaves to its reply: the queues of the agent as they were. -/
structure SameQueues (a b : Agent) : Prop where
  input : b.input = a.input
  returns : b.returns = a.returns
  inHand : b.inHand = a.inHand

theorem SameQueues.refl (a : Agent) : SameQueues a a := ⟨rfl, rfl, rfl⟩

theorem SameQueues.hand {a b : Agent} (same : SameQueues a b) : b.hand = a.hand := by
  unfold Agent.hand
  rw [same.inHand]

/-- A message that may be taken: there is room for its reply, and no request in hand. -/
theorem mayTake_room {a : Agent} {m : Message} (may : a.mayTake m = true) :
    a.inHand = none ∧ (m.broadcast = false → a.returns.length < 32) := by
  unfold Agent.mayTake at may
  rw [Bool.and_eq_true, Bool.and_eq_true, Bool.or_eq_true, decide_eq_true_iff] at may
  obtain ⟨⟨free, -⟩, room⟩ := may
  refine ⟨Option.isNone_iff_eq_none.1 free, fun addressed => room.resolve_left ?_⟩
  rw [addressed]
  nofun

theorem taken_of_headOf {s : State} {kind : Nat → Bool} {m : Message} {rest : List Message} (head : s.headOf kind = some (m, rest)) :
    s.play.agent.input = m :: rest ∧ s.play.agent.mayTake m = true := by
  obtain ⟨-, head⟩ := (headOf_eq s kind m rest).1 head
  obtain ⟨input, -, may⟩ := (head_eq _ kind m rest).1 head
  exact ⟨input, may⟩

/-- A message taken leaves room for its reply. -/
theorem agentInv_taking {a : Agent} (inv : AgentInv a) {m : Message} {rest : List Message} (input : a.input = m :: rest) :
    AgentInv (a.taking m rest) :=
  inv.shorter (by rw [input]; exact Nat.le_succ _) rfl (.refl _)

/-- A reply placed where there is room for it. -/
theorem agentInv_answer {s : State} (inv : AgentInv s.play.agent) {m : Message} (room : m.broadcast = false → s.play.agent.returns.length < 32)
    (free : s.play.agent.inHand = none) (code : Code) (body : Body) : AgentInv (s.answer m code body).play.agent := by
  unfold State.answer
  split
  · exact inv
  · rename_i addressed
    have short := room (Bool.not_eq_true _ ▸ addressed)
    have hand : s.play.agent.hand = 0 := by
      unfold Agent.hand
      rw [free]
    refine ⟨inv.input, ?_, ?_⟩
    · show (s.play.agent.returns ++ [_]).length + s.play.agent.hand ≤ 32
      rw [List.length_append, List.length_singleton, hand]
      exact short
    · show ((s.play.agent.returns ++ [_]).filter QueueEntry.isNotice).length ≤ 24
      rw [List.filter_append, List.length_append]
      exact inv.notices

theorem agentInv_serve {s : State} (inv : AgentInv s.play.agent) {kind : Nat → Bool} {act : Message → State → Answer}
    (acts : ∀ m t, SameQueues t.play.agent (act m t).state.play.agent) : AgentInv (s.serve kind act).play.agent := by
  rcases serve_cases s kind act with idle | ⟨m, rest, head, taken⟩
  · rw [idle]
    exact inv
  · obtain ⟨input, may⟩ := taken_of_headOf head
    obtain ⟨free, room⟩ := mayTake_room may
    have same := acts m (s.modAgent fun a => a.taking m rest)
    rw [taken]
    refine agentInv_answer ?_ (fun addressed => ?_) (same.inHand.trans free) _ _
    · refine (agentInv_taking inv input).shorter ?_ same.hand ?_
      · rw [same.input]
        exact Nat.le_refl _
      · rw [same.returns]
        exact .refl _
    · rw [same.returns]
      exact room addressed

/-! ## The queues at the frame boundary, and with a Read Page in hand -/

theorem agentInv_formReturn {s : State} (inv : AgentInv s.play.agent) : AgentInv s.formReturn.play.agent := by
  obtain ⟨whole, -, -⟩ := takeEntries_spec 496 s.play.agent.returns
  refine inv.shorter (Nat.le_refl _) rfl ?_
  show (takeEntries 496 s.play.agent.returns).2.Sublist s.play.agent.returns
  conv_rhs => rw [whole]
  exact List.sublist_append_right ..

theorem agentInv_receive {a : Agent} (inv : AgentInv a) (address : Nat) (m : Message) : AgentInv (a.receive address m) := by
  unfold Agent.receive
  split
  · split
    · rename_i room
      refine ⟨?_, inv.returns, inv.notices⟩
      rw [List.length_append, List.length_singleton]
      exact room
    · exact ⟨inv.input, inv.returns, inv.notices⟩
  · exact inv

theorem agentInv_receiveField {a : Agent} (inv : AgentInv a) (address : Nat) (field : List Byte) : AgentInv (a.receiveField address field) := by
  unfold Agent.receiveField
  generalize readMessages field.length field = ms
  induction ms generalizing a with
  | nil => exact inv
  | cons m ms ih => exact ih (agentInv_receive inv address m)

theorem agentInv_holdRead {s : State} (inv : AgentInv s.play.agent) {m : Message} (room : m.broadcast = false → s.play.agent.returns.length < 32)
    (f : ReadPageFields) : AgentInv (s.holdRead m f).play.agent := by
  refine ⟨inv.input, ?_, inv.notices⟩
  show s.play.agent.returns.length + (if m.broadcast then 0 else 1) ≤ 32
  have := inv.returns
  split
  · omega
  · rename_i addressed
    exact room (Bool.not_eq_true _ ▸ addressed)

theorem agentInv_deliverPage {s : State} (inv : AgentInv s.play.agent) (image : PageImage) (e : ReadEnd) (block : Nat) :
    AgentInv (s.deliverPage image e block).play.agent := by
  unfold State.deliverPage
  split
  · rename_i j inHand
    dsimp only
    obtain ⟨input, returns, notices⟩ := inv
    have hand : s.play.agent.hand = if j.broadcast then 0 else 1 := by
      unfold Agent.hand
      rw [inHand]
    rw [hand] at returns
    split at returns
    · rename_i broadcast
      rw [if_pos broadcast]
      exact ⟨input, returns, notices⟩
    · rename_i addressed
      rw [if_neg addressed]
      refine ⟨input, ?_, ?_⟩
      · show (s.play.agent.returns ++ [_]).length + 0 ≤ 32
        rw [List.length_append, List.length_singleton]
        exact returns
      · show ((s.play.agent.returns ++ [_]).filter QueueEntry.isNotice).length ≤ 24
        rw [List.filter_append, List.length_append]
        exact notices
  · exact inv

end Sys2Proof.Machine

/-! # The directory under every operation (O55) -/

namespace Sys2Proof.Machine

/-! ## The places of the clips -/

/-- Where the directory has a clip: its number, its first block and its extent. -/
def DirEntry.place (e : DirEntry) : Nat × Nat × Nat := (e.clip, e.firstBlock, e.extent)

/-- The places of all the clips of the directory, in its order. -/
def Directory.places (d : Directory) : List (Nat × Nat × Nat) := d.entries.map DirEntry.place

theorem sorted_places (d : Directory) :
    (d.places.Pairwise fun a b => a.1 < b.1) ↔ d.entries.Pairwise fun a b => a.clip < b.clip := by
  unfold Directory.places
  exact List.pairwise_map

theorem fresh_places (d : Directory) (clip : Nat) : (∀ y ∈ d.places, y.1 ≠ clip) ↔ ∀ e ∈ d.entries, e.clip ≠ clip := by
  unfold Directory.places
  rw [List.forall_mem_map]
  exact Iff.rfl

/-- The directory invariant over the places of the clips, the state and the next block of the scan, the store operations, the page that
holds the staging buffer, the header in it, and whether a read of the scan is in flight. -/
structure DirForm (places : List (Nat × Nat × Nat)) (state : DirState) (next : Nat) (ops : List StoreOp) (holds : Option Nat)
    (header : HeaderRead) (reads : Prop) : Prop where
  sorted : places.Pairwise fun a b => a.1 < b.1
  disjoint : places.Pairwise fun a b => apart a.2.1 a.2.2 b.2.1 b.2.2
  ahead : state = .scanning → (∀ x ∈ places, x.2.1 + x.2.2 ≤ next) ∧ ∀ op ∈ ops, op.commits = false
  read : reads → state = .scanning
  one : (ops.filter StoreOp.commits).length ≤ 1
  holder : ∀ page tag head, StoreOp.commit page tag head ∈ ops → holds = some page
  claim : ∀ page tag x clip h, StoreOp.commit page tag (some x) ∈ ops → header = .header clip h →
    ∀ y ∈ places, y.1 ≠ clip ∧ apart y.2.1 y.2.2 (page / 64) h.extent

/-- A read of the scan is in flight. -/
def State.scanReads (s : State) : Prop := ∃ f, s.inFlight = some f ∧ f.who = .scan

/-- The directory invariant of a state, with the operations given. -/
def State.DirHolds (s : State) (ops : List StoreOp) : Prop :=
  DirForm s.play.dir.places s.play.dir.state s.play.dir.scan.next ops s.store.holds s.store.stagedHeader s.scanReads

theorem find_none_iff (d : Directory) (clip : Nat) : d.find clip = none ↔ ∀ e ∈ d.entries, e.clip ≠ clip := by
  unfold Directory.find
  rw [List.find?_eq_none]
  exact forall₂_congr fun e _ => not_congr beq_iff_eq

theorem dirInv_iff (s : State) : DirInv s ↔ s.DirHolds s.store.operations := by
  constructor
  · intro inv
    refine ⟨(sorted_places _).2 inv.sorted, List.pairwise_map.2 inv.disjoint, fun scanning => ?_, fun ⟨f, reads, who⟩ => inv.read f reads who,
      inv.one, inv.holds, fun page tag x clip h op header y inside => ?_⟩
    · obtain ⟨ahead, commits⟩ := inv.scan scanning
      exact ⟨List.forall_mem_map.2 ahead, commits⟩
    · obtain ⟨free, clear⟩ := inv.claim page tag x clip h op header
      obtain ⟨e, mem, rfl⟩ := List.mem_map.1 inside
      exact ⟨(find_none_iff _ _).1 free e mem, clear e mem⟩
  · intro form
    refine ⟨(sorted_places _).1 form.sorted, List.pairwise_map.1 form.disjoint, fun scanning => ?_, fun f reads who => form.read ⟨f, reads, who⟩,
      form.one, form.holder, fun page tag x clip h op header => ?_⟩
    · obtain ⟨ahead, commits⟩ := form.ahead scanning
      exact ⟨List.forall_mem_map.1 ahead, commits⟩
    · have clear := List.forall_mem_map.1 (form.claim page tag x clip h op header)
      exact ⟨(find_none_iff _ _).2 fun e inside => (clear e inside).1, fun e inside => (clear e inside).2⟩

/-! ## Changes of the form -/

section
variable {places : List (Nat × Nat × Nat)} {state : DirState} {next : Nat} {ops : List StoreOp} {holds : Option Nat}
  {header : HeaderRead} {reads : Prop} (form : DirForm places state next ops holds header reads)
include form

theorem DirForm.fewerOps {ops' : List StoreOp} (sub : ops'.Sublist ops) : DirForm places state next ops' holds header reads where
  sorted := form.sorted
  disjoint := form.disjoint
  ahead scanning := ⟨(form.ahead scanning).1, fun op inside => (form.ahead scanning).2 op (sub.subset inside)⟩
  read := form.read
  one := (sub.filter _).length_le.trans form.one
  holder page tag head inside := form.holder page tag head (sub.subset inside)
  claim page tag x clip h inside := form.claim page tag x clip h (sub.subset inside)

theorem DirForm.fewerPlaces {places' : List (Nat × Nat × Nat)} (sub : places'.Sublist places) :
    DirForm places' state next ops holds header reads where
  sorted := form.sorted.sublist sub
  disjoint := form.disjoint.sublist sub
  ahead scanning := ⟨fun x inside => (form.ahead scanning).1 x (sub.subset inside), (form.ahead scanning).2⟩
  read := form.read
  one := form.one
  holder := form.holder
  claim page tag x clip h op is y inside := form.claim page tag x clip h op is y (sub.subset inside)

/-- Without a commit the staging buffer is of no concern. -/
theorem DirForm.uncommitted {ops' : List StoreOp} (clear : ∀ op ∈ ops', op.commits = false) (holds' : Option Nat) (header' : HeaderRead) :
    DirForm places state next ops' holds' header' reads where
  sorted := form.sorted
  disjoint := form.disjoint
  ahead scanning := ⟨(form.ahead scanning).1, clear⟩
  read := form.read
  one := by rw [List.filter_eq_nil_iff.2 fun op inside => by rw [clear op inside]; nofun]; exact Nat.zero_le _
  holder page tag head inside := by cases clear _ inside
  claim page tag x clip h inside := by cases clear _ inside

/-- An operation that is no commit joins. -/
theorem DirForm.joins {op : StoreOp} (other : op.commits = false) : DirForm places state next (ops ++ [op]) holds header reads := by
  have inside {op' : StoreOp} (commits : op'.commits = true) (inside : op' ∈ ops ++ [op]) : op' ∈ ops := by
    rcases List.mem_append.1 inside with inside | last
    · exact inside
    · rw [List.mem_singleton.1 last, other] at commits
      cases commits
  refine ⟨form.sorted, form.disjoint, fun scanning => ⟨(form.ahead scanning).1, fun op' mem => ?_⟩, form.read, ?_,
    fun page tag head mem => form.holder page tag head (inside rfl mem),
    fun page tag x clip h mem => form.claim page tag x clip h (inside rfl mem)⟩
  · rcases List.mem_append.1 mem with mem | last
    · exact (form.ahead scanning).2 op' mem
    · rw [List.mem_singleton.1 last, other]
  · rw [List.filter_append, List.filter_cons_of_neg (by rw [other]; nofun), List.filter_nil, List.append_nil]
    exact form.one

/-- A read of the scan ends, or one of another requester goes on. -/
theorem DirForm.reading {reads' : Prop} (scanning : reads' → state = .scanning) : DirForm places state next ops holds header reads' :=
  ⟨form.sorted, form.disjoint, form.ahead, scanning, form.one, form.holder, form.claim⟩

/-- The scan goes on, or ends. -/
theorem DirForm.scans {next' : Nat} (on : next ≤ next') (state' : DirState) (begun : state' = .scanning → state = .scanning)
    (idle : ¬ reads) : DirForm places state' next' ops holds header reads where
  sorted := form.sorted
  disjoint := form.disjoint
  ahead scanning := ⟨fun x inside => ((form.ahead (begun scanning)).1 x inside).trans on, (form.ahead (begun scanning)).2⟩
  read isReading := absurd isReading idle
  one := form.one
  holder := form.holder
  claim := form.claim

/-- A clip whose number is free joins where its extent is apart from the others. -/
theorem DirForm.registers {x : Nat × Nat × Nat} {places' : List (Nat × Nat × Nat)} (perm : places'.Perm (x :: places))
    (sorted : places'.Pairwise fun a b => a.1 < b.1) (clear : ∀ y ∈ places, apart y.2.1 y.2.2 x.2.1 x.2.2)
    (scan : state = .scanning → x.2.1 + x.2.2 ≤ next) (free : ∀ op ∈ ops, op.commits = false) :
    DirForm places' state next ops holds header reads where
  sorted := sorted
  disjoint := by
    refine (perm.pairwise_iff fun different => Or.comm.1 different).2 (List.pairwise_cons.2 ⟨fun y inside => ?_, form.disjoint⟩)
    exact Or.comm.1 (clear y inside)
  ahead scanning := by
    refine ⟨fun y inside => ?_, (form.ahead scanning).2⟩
    rcases List.mem_cons.1 (perm.mem_iff.1 inside) with rfl | inside
    · exact scan scanning
    · exact (form.ahead scanning).1 y inside
  read := form.read
  one := form.one
  holder := form.holder
  claim page tag z clip h op := by cases free _ op

end

/-! ## The operations of the directory -/

theorem places_modify (d : Directory) (clip : Nat) {f : DirEntry → DirEntry} (keeps : ∀ e, (f e).place = e.place) :
    (d.modify clip f).places = d.places := by
  unfold Directory.modify Directory.places
  rw [List.map_map]
  refine List.map_congr_left fun e _ => ?_
  rw [Function.comp_apply]
  split
  · exact keeps e
  · rfl

theorem places_reportWeak (d : Directory) (clip : Nat) : (d.reportWeak clip).places = d.places := places_modify d clip fun _ => rfl

theorem places_verdict (d : Directory) (clip : Nat) (good : Bool) (res : VerifyResult) : (d.verdict clip good res).places = d.places :=
  places_modify d clip fun _ => rfl

theorem insertByKey_perm_fresh {α : Type} (key : α → Nat) {x : α} {l : List α} (fresh : ∀ z ∈ l, key z ≠ key x) :
    (insertByKey key x l).Perm (x :: l) := by
  induction l with
  | nil => exact .refl _
  | cons z l ih =>
    unfold insertByKey
    split
    · exact .refl _
    · rw [if_neg (fresh z List.mem_cons_self).symm]
      exact ((ih fun y inside => fresh y (List.mem_cons_of_mem _ inside)).cons z).trans (.swap ..)

theorem places_register {d : Directory} {clip : Nat} (free : ∀ y ∈ d.places, y.1 ≠ clip) (block : Nat) (h : ClipHeader) :
    (d.register clip block h).places.Perm ((clip, block, h.extent) :: d.places) :=
  (insertByKey_perm_fresh DirEntry.clip ((fresh_places d clip).1 free)).map DirEntry.place

theorem sorted_register {d : Directory} (sorted : d.places.Pairwise fun a b => a.1 < b.1) (clip block : Nat) (h : ClipHeader) :
    (d.register clip block h).places.Pairwise fun a b => a.1 < b.1 :=
  (sorted_places _).2 (sorted_insertByKey DirEntry.clip ((sorted_places d).1 sorted))

/-! ## The end of a store operation -/

theorem commits_iff (op : StoreOp) : op.commits = true ↔ ∃ page tag head, op = .commit page tag head := by
  cases op <;> simp [StoreOp.commits]

/-- With a commit at the head no other operation is one. -/
theorem DirForm.behindCommit {places : List (Nat × Nat × Nat)} {state : DirState} {next : Nat} {op : StoreOp} {rest : List StoreOp}
    {holds : Option Nat} {header : HeaderRead} {reads : Prop} (form : DirForm places state next (op :: rest) holds header reads)
    (commits : op.commits = true) : (∀ op' ∈ rest, op'.commits = false) ∧ state ≠ .scanning := by
  have one := form.one
  rw [List.filter_cons_of_pos commits, List.length_cons] at one
  refine ⟨fun op' inside => ?_, fun scanning => ?_⟩
  · have none : rest.filter StoreOp.commits = [] := List.eq_nil_of_length_eq_zero (by omega)
    exact Bool.not_eq_true _ ▸ List.filter_eq_nil_iff.1 none op' inside
  · rw [(form.ahead scanning).2 op List.mem_cons_self] at commits
    cases commits

theorem DirForm.ended {d : Directory} {op : StoreOp} {rest : List StoreOp} {st : Store} {reads : Prop}
    (form : DirForm d.places d.state d.scan.next (op :: rest) st.holds st.stagedHeader reads) (good : Bool) :
    DirForm (d.behind st.stagedHeader op good).places (d.behind st.stagedHeader op good).state (d.behind st.stagedHeader op good).scan.next
      rest (st.behind op).holds (st.behind op).stagedHeader reads := by
  have fewer := form.fewerOps (List.sublist_cons_self op rest)
  cases op with
  | erase block tag => exact fewer.fewerPlaces (List.filter_sublist.map _)
  | boundary v tag => exact fewer
  | floor f b tag => exact fewer
  | commit page tag head =>
    obtain ⟨clear, done⟩ := form.behindCommit rfl
    have free := fewer.uncommitted clear (st.behind (.commit page tag head)).holds (st.behind (.commit page tag head)).stagedHeader
    unfold Directory.behind
    cases head with
    | none => exact free
    | some x =>
      dsimp only
      split
      · rename_i clip h header
        split
        · have claim := form.claim page tag x clip h List.mem_cons_self header
          exact free.registers (places_register (fun y inside => (claim y inside).1) _ h) (sorted_register form.sorted clip _ h)
            (fun y inside => (claim y inside).2) (fun scanning => absurd scanning done) clear
        · exact free
      · exact free

/-! ## The states in which an operation of the store leaves the directory -/

theorem operations_current {s : State} {c : Current} (current : s.store.current = some c) :
    s.store.operations = c.op :: s.store.queue := by
  unfold Store.operations
  rw [current]
  rfl

theorem operations_idle {s : State} (idle : s.store.current = none) : s.store.operations = s.store.queue := by
  unfold Store.operations
  rw [idle]
  rfl

theorem dirInv_endStore {s : State} {op : StoreOp} (form : s.DirHolds (op :: s.store.queue)) (r : StoreResult) : DirInv (s.endStore op r) := by
  rw [dirInv_iff, endStore_eq]
  have ops : ({ s.store.behind op with current := none } : Store).operations = s.store.queue := queue_behind s.store op
  show DirForm _ _ _ ({ s.store.behind op with current := none } : Store).operations _ _ _
  rw [ops]
  exact form.ended r.good

theorem dirInv_endRemapped {s : State} {op : StoreOp} (form : s.DirHolds (op :: s.store.queue)) (m : Spares) (cause : RemapCause) :
    DirInv (s.endRemapped op m cause) := by
  rw [dirInv_iff, endRemapped_eq]
  have ops : ({ s.store.behind op with current := none } : Store).operations = s.store.queue := queue_behind s.store op
  show DirForm _ _ _ ({ s.store.behind op with current := none } : Store).operations _ _ _
  rw [ops]
  exact form.ended true

theorem operations_modCurrent (s : State) {f : Current → Current} (keeps : ∀ c, (f c).op = c.op) :
    (s.modCurrent f).store.operations = s.store.operations := by
  unfold State.modCurrent Store.operations
  dsimp only
  rw [Option.map_map]
  have same : Current.op ∘ f = Current.op := funext keeps
  rw [same]

theorem dirInv_modCurrent {s : State} (inv : DirInv s) {f : Current → Current} (keeps : ∀ c, (f c).op = c.op) : DirInv (s.modCurrent f) := by
  rw [dirInv_iff, operations_modCurrent s keeps]
  exact (dirInv_iff s).1 inv

theorem dirInv_goStage {s : State} (inv : DirInv s) (st : Stage) : DirInv (s.goStage st) := dirInv_modCurrent inv fun _ => rfl

/-- The operations of a state with the current operation at its head. -/
theorem DirInv.headed {s : State} (inv : DirInv s) {c : Current} (current : s.store.current = some c) :
    s.DirHolds (c.op :: s.store.queue) := by
  rw [← operations_current current]
  exact (dirInv_iff s).1 inv

/-! ## The scan and the Verify Unit -/

/-- A change of the directory that keeps every place. -/
theorem DirForm.same {d d' : Directory} {ops : List StoreOp} {holds : Option Nat} {header : HeaderRead} {reads : Prop}
    (form : DirForm d.places d.state d.scan.next ops holds header reads) (places : d'.places = d.places) (state : d'.state = d.state)
    (next : d'.scan.next = d.scan.next) : DirForm d'.places d'.state d'.scan.next ops holds header reads := by
  rw [places, state, next]
  exact form

theorem dirInv_modDir {s : State} (inv : DirInv s) {f : Directory → Directory} (places : (f s.play.dir).places = s.play.dir.places)
    (state : (f s.play.dir).state = s.play.dir.state) (next : (f s.play.dir).scan.next = s.play.dir.scan.next) : DirInv (s.modDir f) :=
  (dirInv_iff _).2 (((dirInv_iff s).1 inv).same places state next)

/-- A change of neither the directory nor the store, with no new read of the scan. -/
theorem dirInv_of_same {s t : State} (inv : DirInv s) (dir : t.play.dir = s.play.dir) (store : t.store = s.store)
    (reads : t.scanReads → s.scanReads) : DirInv t := by
  have form := (dirInv_iff s).1 inv
  unfold State.DirHolds at form
  rw [dirInv_iff]
  unfold State.DirHolds
  rw [dir, store]
  exact form.reading fun scan => form.read (reads scan)

theorem dirInv_raise {s : State} (inv : DirInv s) (tag : Nat) (n : Notice) : DirInv (s.raise tag n) :=
  (dirInv_iff _).2 ((dirInv_iff s).1 inv)

theorem le_skipWorn (worn : List Nat) (fuel n : Nat) : n ≤ skipWorn worn fuel n := by
  induction fuel generalizing n with
  | zero => exact Nat.le_refl n
  | succ fuel ih =>
    unfold skipWorn
    split
    · exact (Nat.le_succ n).trans (ih (n + 1))
    · exact Nat.le_refl n

theorem dirInv_scanOn {s : State} (inv : DirInv s) (idle : s.inFlight = none) {block : Nat} (on : s.play.dir.scan.next ≤ block) :
    DirInv (s.scanOn block) := by
  have form := (dirInv_iff s).1 inv
  have notReading : ¬ s.scanReads := fun ⟨f, reads, _⟩ => by
    rw [idle] at reads
    cases reads
  have further := on.trans (le_skipWorn s.settings.worn s.settings.worn.length block)
  unfold State.scanOn
  dsimp only
  split
  · exact (dirInv_iff _).2 (form.scans further s.play.dir.state id notReading)
  · exact (dirInv_iff _).2 (form.scans further .complete nofun notReading)

/-- The scan, at a block ahead of all it has registered, goes on behind a clip that it registers there. -/
theorem dirInv_scanHead {s : State} (inv : DirInv s) (idle : s.inFlight = none) (scanning : s.play.dir.state = .scanning) (clip : Nat)
    (h : ClipHeader) : DirInv (s.scanHead s.play.dir.scan.next clip h) := by
  have form := (dirInv_iff s).1 inv
  have notReading : ¬ s.scanReads := fun ⟨f, reads, _⟩ => by
    rw [idle] at reads
    cases reads
  unfold State.scanHead
  split
  · exact dirInv_scanOn (dirInv_raise (dirInv_modDir inv rfl rfl rfl) _ _) idle (Nat.le_add_right ..)
  · rename_i free
    obtain ⟨ahead, commits⟩ := form.ahead scanning
    have fresh : ∀ y ∈ s.play.dir.places, y.1 ≠ clip := (fresh_places _ clip).2 ((find_none_iff _ _).1 free)
    have moved := form.scans (Nat.le_add_right s.play.dir.scan.next h.extent) .scanning (fun _ => scanning) notReading
    have registered := moved.registers (places_register fresh s.play.dir.scan.next h) (sorted_register form.sorted clip _ h)
      (fun y inside => .inl (ahead y inside)) (fun _ => Nat.le_refl _) commits
    have further := le_skipWorn s.settings.worn s.settings.worn.length (s.play.dir.scan.next + h.extent)
    unfold State.scanOn
    dsimp only
    split
    · exact (dirInv_iff _).2 (registered.scans further _ (fun _ => rfl) notReading)
    · exact (dirInv_iff _).2 (registered.scans further .complete nofun notReading)

theorem dirInv_deliverScan {s : State} (inv : DirInv s) (idle : s.inFlight = none) (scanning : s.play.dir.state = .scanning)
    (image : PageImage) (e : ReadEnd) : DirInv (s.deliverScan image e) := by
  have on := dirInv_scanOn inv idle (Nat.le_succ s.play.dir.scan.next)
  unfold State.deliverScan
  dsimp only
  split
  · exact dirInv_scanOn (dirInv_modDir inv rfl rfl rfl) idle (Nat.le_succ _)
  · split
    · split
      · exact dirInv_scanHead inv idle scanning _ _
      · exact on
    · exact on
    · exact on

theorem dirInv_withVerify {s : State} (inv : DirInv s) (j : Option VerifyJob) : DirInv { s with verify := j } :=
  (dirInv_iff _).2 ((dirInv_iff s).1 inv)

theorem dirInv_deliverVerify {s : State} (inv : DirInv s) (image : PageImage) (r : ReadEnd) : DirInv (s.deliverVerify image r) := by
  unfold State.deliverVerify
  split
  · rename_i j _
    split
    · rename_i e _
      have counted : DirInv (if r.weak then s.modDir fun d => d.reportWeak j.clip else s) := by
        split
        · exact dirInv_modDir inv (places_reportWeak _ _) rfl rfl
        · exact inv
      dsimp only
      split
      · unfold State.endVerify
        exact dirInv_raise (dirInv_modDir (dirInv_withVerify counted none) (places_verdict _ _ _ _) rfl rfl) _ _
      · exact dirInv_withVerify counted _
    · exact dirInv_withVerify inv none
  · exact inv

/-! ## The directory on the air -/

theorem dir_reportFault (p : Play) (t : Now) (clip : Nat) : (p.reportFault t clip).dir.places = p.dir.places ∧
    (p.reportFault t clip).dir.state = p.dir.state ∧ (p.reportFault t clip).dir.scan = p.dir.scan := by
  unfold Play.reportFault
  split
  · exact ⟨rfl, rfl, rfl⟩
  · dsimp only
    split
    · exact ⟨places_modify _ _ fun _ => rfl, rfl, rfl⟩
    · exact ⟨places_modify _ _ fun _ => rfl, rfl, rfl⟩

/-- Two directories with the same clips at the same places, at one point of the scan. -/
def Directory.Alike (d d' : Directory) : Prop := d'.places = d.places ∧ d'.state = d.state ∧ d'.scan = d.scan

theorem Directory.Alike.refl (d : Directory) : d.Alike d := ⟨rfl, rfl, rfl⟩

theorem Directory.Alike.trans {d e f : Directory} (first : d.Alike e) (second : e.Alike f) : d.Alike f := by
  obtain ⟨places, state, scan⟩ := first
  obtain ⟨places', state', scan'⟩ := second
  exact ⟨places'.trans places, state'.trans state, scan'.trans scan⟩

theorem dir_calm {p q : Play} (calm : Calm p q) : p.dir.Alike q.dir := by
  induction calm with
  | refl => exact .refl _
  | tail _ step ih =>
    cases step with
    | steady same =>
      rw [same.dir]
      exact ih
    | notice t tag n => exact ih
    | fault t clip => exact ih.trans (dir_reportFault _ t clip)

theorem dir_moved {p q : Play} (moved : Moved p q) : p.dir.Alike q.dir := by
  induction moved with
  | refl => exact .refl _
  | tail _ step ih =>
    cases step with
    | calm steps => exact ih.trans (dir_calm steps)
    | closed r closes =>
      rw [closes.dir]
      exact ih
    | opened r n opens steps enters =>
      rw [enters.dir]
      have steps := dir_calm steps
      rw [opens.dir] at steps
      exact ih.trans steps

theorem operations_aired {s t : State} (aired : Aired s t) : t.store.operations = s.store.operations := by
  have op : Current.op = Prod.fst ∘ fun c : Current => (c.op, c.stage) := rfl
  unfold Store.operations
  rw [aired.queue, op, ← Option.map_map, ← Option.map_map, aired.current]

theorem dirInv_aired {s t : State} (inv : DirInv s) (aired : Aired s t) : DirInv t := by
  have form := (dirInv_iff s).1 inv
  obtain ⟨places, state, scan⟩ := dir_moved aired.moved
  have reads : t.scanReads → t.play.dir.state = .scanning := fun ⟨f, reads, who⟩ => by
    rw [state]
    exact inv.read f (aired.inFlight ▸ reads) who
  have header : t.store.stagedHeader = s.store.stagedHeader := by
    unfold Store.stagedHeader
    rw [aired.staging]
  rw [dirInv_iff, operations_aired aired]
  refine DirForm.reading (reads := s.scanReads) ?_ reads
  rw [aired.holds, header]
  exact form.same places state (congrArg ScanState.next scan)

/-! ## The requests of spec/08 -/

theorem dirInv_lock {s : State} (inv : DirInv s) : DirInv s.lock := (dirInv_iff _).2 ((dirInv_iff s).1 inv)

/-- An operation that is no commit queued. -/
theorem dirInv_enqueue {s : State} (inv : DirInv s) {op : StoreOp} (other : op.commits = false) : DirInv (s.enqueue op) := by
  have ops : (s.enqueue op).store.operations = s.store.operations ++ [op] := (List.append_assoc ..).symm
  rw [dirInv_iff, ops]
  exact ((dirInv_iff s).1 inv).joins other

theorem dirInv_cancelVerify {s : State} (inv : DirInv s) (clip : Nat) : DirInv (s.cancelVerify clip) := by
  have removed := dirInv_modDir (f := fun d => { d with queue := d.queue.filter fun q => q.1 != clip }) inv rfl rfl rfl
  unfold State.cancelVerify
  dsimp only
  split
  · split
    · refine dirInv_of_same removed rfl rfl ?_
      rintro ⟨f, reads, who⟩
      obtain ⟨g, reads', rfl⟩ := Option.map_eq_some_iff.1 reads
      refine ⟨g, reads', ?_⟩
      by_cases verify : g.who = .verify
      · rw [if_pos verify] at who
        cases who
      · rw [if_neg verify] at who
        exact who
    · exact removed
  · exact removed

theorem dirInv_retire {s : State} (inv : DirInv s) (block : Nat) : DirInv (s.retire block) := by
  unfold State.retire
  split
  · refine dirInv_cancelVerify (dirInv_modDir inv ?_ rfl rfl) _
    exact places_modify _ _ fun _ => rfl
  · exact inv

/-- Bytes loaded into a staging buffer that no commit holds. -/
theorem dirInv_load {s : State} (inv : DirInv s) (free : s.store.holds = none) (staging : List Host.Cell) :
    DirInv (s.modStore fun st => { st with staging := staging }) := by
  refine (dirInv_iff _).2 (((dirInv_iff s).1 inv).uncommitted (fun op inside => ?_) _ _)
  by_contra commits
  obtain ⟨page, tag, head, rfl⟩ := (commits_iff op).1 (Bool.not_eq_false _ ▸ commits)
  have holder := inv.holds page tag head inside
  rw [free] at holder
  cases holder

theorem firstRefusal_cons {fails : Bool} {code : Code} {l : List (Bool × Code)} (passed : firstRefusal ((fails, code) :: l) = none) :
    fails = false ∧ firstRefusal l = none := by
  unfold firstRefusal at passed
  cases fails with
  | true => cases passed
  | false => exact ⟨rfl, passed⟩

theorem firstRefusal_append {l l' : List (Bool × Code)} (passed : firstRefusal (l ++ l') = none) :
    firstRefusal l = none ∧ firstRefusal l' = none := by
  induction l with
  | nil => exact ⟨rfl, passed⟩
  | cons x l ih =>
    obtain ⟨fails, code⟩ := x
    obtain ⟨rfl, passed⟩ := firstRefusal_cons passed
    exact ih passed

theorem meets_false {d : Directory} {first extent : Nat} (clear : d.meets first extent = false) :
    ∀ y ∈ d.places, apart y.2.1 y.2.2 first extent := by
  refine List.forall_mem_map.2 fun e inside => ?_
  have here := List.any_eq_false.1 clear e inside
  simp only [Bool.and_eq_true, decide_eq_true_eq] at here
  show e.firstBlock + e.extent ≤ first ∨ first + extent ≤ e.firstBlock
  omega

/-- A commit whose tests pass queued: it is the only one, it holds the buffer, and the clip of a head page is free. -/
theorem dirInv_commit {s : State} (inv : DirInv s) (complete : s.scanning = false) {page : Nat} (passed : firstRefusal (s.commitTests page) = none)
    (tag : Nat) : DirInv ((s.enqueue (.commit page tag (s.headNote page))).modStore fun st => { st with holds := some page }) := by
  have form := (dirInv_iff s).1 inv
  obtain ⟨passed, -⟩ := firstRefusal_append passed
  obtain ⟨tests, headTests⟩ := firstRefusal_append passed
  obtain ⟨free, -⟩ := firstRefusal_cons tests
  have unheld : s.store.holds = none := Option.isSome_eq_false_iff.1 free |> Option.isNone_iff_eq_none.1
  have alone : ∀ op ∈ s.store.operations, op.commits = false := fun op inside => by
    by_contra commits
    obtain ⟨page, tag, head, rfl⟩ := (commits_iff op).1 (Bool.not_eq_false _ ▸ commits)
    have holder := inv.holds page tag head inside
    rw [unheld] at holder
    cases holder
  have only {page' tag' : Nat} {head : Option (Nat × Nat)}
      (inside : StoreOp.commit page' tag' head ∈ s.store.operations ++ [.commit page tag (s.headNote page)]) :
      page' = page ∧ head = s.headNote page := by
    rcases List.mem_append.1 inside with inside | last
    · cases alone _ inside
    · cases List.mem_singleton.1 last
      exact ⟨rfl, rfl⟩
  have notScanning : s.play.dir.state ≠ .scanning := fun scanning => by
    unfold State.scanning at complete
    rw [scanning] at complete
    cases complete
  have ops : ((s.enqueue (.commit page tag (s.headNote page))).modStore fun st => { st with holds := some page }).store.operations =
    s.store.operations ++ [.commit page tag (s.headNote page)] := (List.append_assoc ..).symm
  rw [dirInv_iff, ops]
  refine ⟨form.sorted, form.disjoint, fun scanning => absurd scanning notScanning, form.read, ?_, fun page' tag' head inside => ?_,
    fun page' tag' x clip h inside header => ?_⟩
  · rw [List.filter_append, List.filter_eq_nil_iff.2 fun op inside => by rw [alone op inside]; nofun]
    exact List.length_filter_le ..
  · rw [(only inside).1]
    rfl
  · obtain ⟨rfl, noted⟩ := only inside
    have staged : s.store.stagedHeader = .header clip h := header
    unfold State.headNote at noted
    split at noted
    · rename_i isHead
      unfold State.headTests at headTests
      rw [if_pos isHead, staged] at headTests
      obtain ⟨unknown, rest⟩ := firstRefusal_cons headTests
      obtain ⟨overlaps, -⟩ := firstRefusal_cons rest
      obtain ⟨-, clear⟩ := Bool.or_eq_false_iff.1 overlaps
      have fresh := (find_none_iff _ _).1 (Option.isNone_iff_eq_none.1 (Option.isSome_eq_false_iff.1 unknown))
      exact fun y inside' => ⟨(fresh_places _ clip).2 fresh y inside', meets_false clear y inside'⟩
    · cases noted

end Sys2Proof.Machine

/-! # Every step keeps the Cue Unit, the slots, the queues and the directory in order -/

namespace Sys2Proof.Machine

/-! ## The four invariants together -/

/-- What was in order stays in order. -/
structure Keeps (s t : State) : Prop where
  cues : CueInv s.cues → CueInv t.cues
  slots : SlotsInv s.play → SlotsInv t.play
  queues : QueueInv s → QueueInv t
  dir : DirInv s → DirInv t

theorem Keeps.refl (s : State) : Keeps s s := ⟨id, id, id, id⟩

theorem Keeps.trans {s t u : State} (first : Keeps s t) (second : Keeps t u) : Keeps s u :=
  ⟨second.cues ∘ first.cues, second.slots ∘ first.slots, second.queues ∘ first.queues, second.dir ∘ first.dir⟩

theorem queueInv_of {s t : State} (inv : QueueInv s) (agent : AgentInv s.play.agent → AgentInv t.play.agent)
    (queue : t.store.queue.length ≤ s.store.queue.length) : QueueInv t := by
  obtain ⟨bounds, store⟩ := (queueInv_iff s).1 inv
  exact (queueInv_iff t).2 ⟨agent bounds, queue.trans store⟩

theorem slotsInv_rest {p q : Play} (inv : SlotsInv p) (regions : q.regions = p.regions) (plans : q.plans = p.plans) : SlotsInv q := by
  refine slotsInv_same inv (fun r => ?_) plans
  unfold Play.region
  rw [regions]
  exact .refl _

/-- Only what no invariant looks at has changed. -/
theorem Keeps.of_eq {s t : State} (cues : t.cues = s.cues) (regions : t.play.regions = s.play.regions) (plans : t.play.plans = s.play.plans)
    (agent : t.play.agent = s.play.agent) (store : t.store = s.store) (dir : t.play.dir = s.play.dir) (inFlight : t.inFlight = s.inFlight) :
    Keeps s t := by
  refine ⟨fun inv => by rw [cues]; exact inv, fun inv => slotsInv_rest inv regions plans, fun inv => ?_, fun inv => ?_⟩
  · exact queueInv_of inv (fun inv => by rw [agent]; exact inv) (by rw [store])
  · refine dirInv_of_same inv dir store ?_
    unfold State.scanReads
    rw [inFlight]
    exact id

theorem Aired.keeps {s t : State} (aired : Aired s t) : Keeps s t :=
  ⟨aired.cues, fun inv => slotsInv_moved inv aired.moved,
    fun inv => queueInv_of inv (fun inv => agentInv_moved inv aired.moved) (by rw [aired.queue]), fun inv => dirInv_aired inv aired⟩

/-- The work of the array reaches neither the Cue Unit nor a slot. -/
theorem ArrayWork.keeps {s t : State} (work : ArrayWork s t) (queues : QueueInv s → QueueInv t) (dir : DirInv s → DirInv t) : Keeps s t := by
  exact ⟨fun inv => by rw [work.cues]; exact inv, fun inv => slotsInv_rest inv work.regions work.plans, queues, dir⟩

/-! ## Requests -/

/-- What a request does besides its reply. -/
structure Tends (t u : State) : Prop where
  cues : u.cues = t.cues
  agent : SameQueues t.play.agent u.play.agent
  queue : t.store.queue.length ≤ 8 → u.store.queue.length ≤ 8
  slots : SlotsInv t.play → SlotsInv u.play
  dir : DirInv t → DirInv u

theorem Tends.refl (t : State) : Tends t t := ⟨rfl, .refl _, id, id, id⟩

/-- A request that reaches of what the invariants look at the slots at most. -/
theorem Tends.on {t u : State} (cues : u.cues = t.cues) (agent : SameQueues t.play.agent u.play.agent) (store : u.store = t.store)
    (dir : u.play.dir = t.play.dir) (inFlight : u.inFlight = t.inFlight) (slots : SlotsInv t.play → SlotsInv u.play) : Tends t u := by
  refine ⟨cues, agent, fun bound => by rw [store]; exact bound, slots, fun inv => dirInv_of_same inv dir store ?_⟩
  unfold State.scanReads
  rw [inFlight]
  exact id

theorem keeps_modAgent (s : State) (f : Agent → Agent) (bounds : AgentInv s.play.agent → AgentInv (f s.play.agent)) : Keeps s (s.modAgent f) :=
  ⟨id, fun inv => slotsInv_rest inv rfl rfl, fun inv => queueInv_of inv bounds (Nat.le_refl _), fun inv => dirInv_of_same inv rfl rfl id⟩

theorem keeps_answer {s : State} {m : Message} (room : m.broadcast = false → s.play.agent.returns.length < 32)
    (free : s.play.agent.inHand = none) (code : Code) (body : Body) : Keeps s (s.answer m code body) := by
  have bounds : AgentInv s.play.agent → AgentInv (s.answer m code body).play.agent := fun inv => agentInv_answer inv room free code body
  unfold State.answer at bounds ⊢
  split
  · exact .refl s
  · rename_i addressed
    rw [if_neg addressed] at bounds
    exact keeps_modAgent s _ bounds

theorem keeps_serve {s : State} {kind : Nat → Bool} {act : Message → State → Answer} (acts : ∀ m t, Tends t (act m t).state) :
    Keeps s (s.serve kind act) := by
  rcases serve_cases s kind act with idle | ⟨m, rest, head, taken⟩
  · rw [idle]
    exact .refl s
  · obtain ⟨input, may⟩ := taken_of_headOf head
    obtain ⟨free, room⟩ := mayTake_room may
    have tends := acts m (s.modAgent fun a => a.taking m rest)
    have bounds : AgentInv s.play.agent → AgentInv (act m (s.modAgent fun a => a.taking m rest)).state.play.agent := fun inv => by
      refine (agentInv_taking inv input).shorter ?_ tends.agent.hand ?_
      · rw [tends.agent.input]
        exact Nat.le_refl _
      · rw [tends.agent.returns]
        exact .refl _
    have took := keeps_modAgent s (fun a => a.taking m rest) fun inv => agentInv_taking inv input
    rw [taken]
    refine Keeps.trans (t := (act m (s.modAgent fun a => a.taking m rest)).state) ?_ (keeps_answer (fun addressed => ?_) ?_ _ _)
    · exact ⟨fun inv => by rw [tends.cues]; exact inv, fun inv => tends.slots (took.slots inv),
        fun inv => (queueInv_iff _).2 ⟨bounds ((queueInv_iff s).1 inv).1, tends.queue inv.store⟩, fun inv => tends.dir (took.dir inv)⟩
    · rw [tends.agent.returns]
      exact room addressed
    · exact tends.agent.inHand.trans free

theorem keeps_servePlain {s : State} {kind : Nat} {act : Message → State → Answer} (acts : ∀ m t, Tends t (act m t).state) :
    Keeps s (s.servePlain kind act) :=
  keeps_serve fun m t => by
    split
    · exact acts m t
    · exact .refl t

theorem keeps_serveWith {α : Type} {s : State} {kind : Nat} {f : Option α} {act : α → Message → State → Answer}
    (acts : ∀ x m t, Tends t (act x m t).state) : Keeps s (s.serveWith kind f act) :=
  keeps_serve fun m t => by
    cases f with
    | some x => exact acts x m t
    | none => exact .refl t

theorem tends_onSlot {s : State} {region slot : Nat} {act : Region → Fin 16 → Slot → Answer}
    (acts : ∀ r n, Tends s (act r n (s.play.slot r n)).state) : Tends s (s.onSlot region slot act).state := by
  unfold State.onSlot
  split
  · exact acts _ _
  · exact .refl s

theorem tends_lock (t : State) : Tends t t.lock :=
  ⟨rfl, .refl _, id, id, dirInv_lock⟩

theorem keeps_storeRequest {α : Type} {s : State} {kind : Nat} {f : Option α} {tests : α → State → List (Bool × Code)}
    {act : α → Message → State → Answer}
    (acts : ∀ x m t, t.scanning = false → firstRefusal (tests x t) = none → Tends t (act x m t.lock).state) :
    Keeps s (s.storeRequest kind f tests act) :=
  keeps_serve fun m t => by
    cases f with
    | none => exact tends_lock t
    | some x =>
      dsimp only
      split
      · exact tends_lock t
      · rename_i passed
        obtain ⟨complete, passed⟩ := firstRefusal_cons passed
        exact acts x m t complete (firstRefusal_cons passed).2

/-- A queue that is not full takes one more. -/
theorem queue_of_not_full {st : Store} (room : st.full = false) (op : StoreOp) : (st.queue ++ [op]).length ≤ 8 := by
  have short : st.queue.length < 8 := by
    have above := decide_eq_false_iff_not.1 room
    exact Nat.lt_of_not_le above
  rw [List.length_append, List.length_singleton]
  exact short

theorem tends_commit {t : State} (complete : t.scanning = false) {page : Nat} (passed : firstRefusal (t.commitTests page) = none) (tag : Nat) :
    Tends t ((t.lock.enqueue (.commit page tag (t.lock.headNote page))).modStore fun st => { st with holds := some page }) := by
  obtain ⟨room, -⟩ := firstRefusal_cons (firstRefusal_append passed).2
  exact ⟨rfl, .refl _, fun _ => queue_of_not_full room _, id, fun inv => dirInv_commit (dirInv_lock inv) complete passed tag⟩

theorem tends_erase {t : State} {block : Nat} (passed : firstRefusal (t.eraseTests block) = none) (tag : Nat) :
    Tends t ((t.lock.enqueue (.erase block tag)).retire block) := by
  have work : ArrayWork t ((t.lock.enqueue (.erase block tag)).retire block) := 
    ((ArrayWork.modStore t _).trans (.modStore t.lock _)).trans (.retire _ block)
  have retired (u : State) : (u.retire block).play.agent = u.play.agent ∧ (u.retire block).store = u.store := by
    unfold State.retire
    split
    · unfold State.cancelVerify
      dsimp only
      repeat' split
      all_goals exact ⟨rfl, rfl⟩
    · exact ⟨rfl, rfl⟩
  obtain ⟨agent, store⟩ := retired (t.lock.enqueue (.erase block tag))
  have room : t.store.full = false := by
    obtain ⟨-, p⟩ := firstRefusal_cons passed
    obtain ⟨-, p⟩ := firstRefusal_cons p
    obtain ⟨-, p⟩ := firstRefusal_cons p
    obtain ⟨-, p⟩ := firstRefusal_cons p
    obtain ⟨-, p⟩ := firstRefusal_cons p
    obtain ⟨-, p⟩ := firstRefusal_cons p
    exact (firstRefusal_cons p).1
  refine ⟨work.cues, by rw [agent]; exact .refl _, fun _ => ?_, fun inv => ?_, fun inv => dirInv_retire (dirInv_enqueue (dirInv_lock inv) rfl) block⟩
  · rw [store]
    exact queue_of_not_full room _
  · exact slotsInv_rest inv work.regions work.plans

/-- A settings write queued. -/
theorem tends_setting {t : State} (room : t.store.full = false) {op : StoreOp} (other : op.commits = false) {f : Store → Store}
    (queue : ∀ st, (f st).queue = st.queue) (current : ∀ st, (f st).current = st.current) (holds : ∀ st, (f st).holds = st.holds)
    (staging : ∀ st, (f st).staging = st.staging) : Tends t ((t.lock.enqueue op).modStore f) := by
  refine ⟨rfl, .refl _, fun _ => ?_, id, fun inv => ?_⟩
  · show (f _).queue.length ≤ 8
    rw [queue]
    exact queue_of_not_full room _
  · have queued := (dirInv_iff _).1 (dirInv_enqueue (dirInv_lock inv) other)
    rw [dirInv_iff]
    have ops : ((t.lock.enqueue op).modStore f).store.operations = (t.lock.enqueue op).store.operations := by
      show Store.operations (f _) = _
      unfold Store.operations
      rw [queue, current]
    have header : ((t.lock.enqueue op).modStore f).store.stagedHeader = (t.lock.enqueue op).store.stagedHeader := by
      show Store.stagedHeader (f _) = _
      unfold Store.stagedHeader
      rw [staging]
    have held : ((t.lock.enqueue op).modStore f).store.holds = (t.lock.enqueue op).store.holds := holds _
    unfold State.DirHolds at queued ⊢
    rw [ops, header, held]
    exact queued

theorem tends_verifyClip (t : State) (q : Nat × Option Nat) : Tends t (t.modDir fun d => { d with queue := d.queue ++ [q] }) :=
  ⟨rfl, .refl _, id, fun inv => slotsInv_rest inv rfl rfl, fun inv => dirInv_modDir inv rfl rfl rfl⟩

theorem tends_load {t : State} {f : LoadFields} (accepted : t.loadRefusal f = none) (staging : List Host.Cell) :
    Tends t (t.modStore fun st => { st with staging := staging }) := by
  obtain ⟨-, rest⟩ := firstRefusal_cons accepted
  have free := Option.isNone_iff_eq_none.1 (Option.isSome_eq_false_iff.1 (firstRefusal_cons rest).1)
  exact ⟨rfl, .refl _, id, id, fun inv => dirInv_load inv free staging⟩

theorem tends_configure (t : State) (r : Region) (f : ConfigureRegionFields) : Tends t (t.configure r f).state := by
  have slots (inv : SlotsInv t.play) := slotsInv_configure inv r f
  unfold State.configure at slots ⊢
  dsimp only at slots ⊢
  split
  · exact .refl t
  · rename_i idle
    rw [if_neg idle] at slots
    split
    · exact .refl t
    · rename_i known
      rw [if_neg known] at slots
      exact .on rfl (.refl _) rfl rfl rfl slots

theorem tends_putSlot {t : State} {r : Region} {n : Fin 16} {x : Slot} (held : x.state.held ↔ (t.play.slot r n).state.held)
    (plan : x.plan = none ↔ x.state = .empty) (alone : ∀ pl, x = ⟨.ready, some pl⟩ → t.play.duplicateReady r n pl.breakId = false) :
    Tends t (t.putSlot r n x) := .on rfl (.refl _) rfl rfl rfl fun inv => slotsInv_setSlot inv held plan alone

theorem tends_append {t : State} {r : Region} {n : Fin 16} (loading : (t.play.slot r n).state = .loading) (pl : Plan) (it : PlanItem) :
    Tends t (t.append r n pl it).state := by
  unfold State.append
  split
  · exact .refl t
  · exact tends_putSlot (by rw [loading]) ⟨nofun, nofun⟩ nofun

theorem tends_closePlan {t : State} {r : Region} {n : Fin 16} (loading : (t.play.slot r n).state = .loading) (pl : Plan) :
    Tends t (t.closePlan r n pl).state := by
  have slots (inv : SlotsInv t.play) := slotsInv_closePlan inv loading (pl := pl)
  unfold State.closePlan at slots ⊢
  repeat' split
  · exact .refl t
  · exact .refl t
  · rename_i items alone
    rw [if_neg items, if_neg alone] at slots
    exact .on rfl (.refl _) rfl rfl rfl slots

theorem tends_releaseBypass {t : State} {r : Region} (bypassed : (t.play.region r).state = .bypass) :
    Tends t { t with play := t.play.setState r .network } := by
  refine .on rfl (.refl _) rfl rfl rfl fun inv => slotsInv_setRegion inv rfl ⟨fun _ => .inr bypassed, fun _ => .inl rfl⟩

end Sys2Proof.Machine

/-! # The array, the resets and the boundary keep the invariants; every command does (O15, and the step halves of O14, O31, O55) -/

namespace Sys2Proof.Machine

/-! ## The operations of the store -/

theorem keeps_goStage (s : State) (st : Stage) : Keeps s (s.goStage st) :=
  (ArrayWork.goStage s st).keeps (fun inv => queueInv_of inv id (Nat.le_refl _)) fun inv => dirInv_goStage inv st

theorem keeps_withFlash (s : State) (flash : List (Nat × PageImage)) (occasion : Nat) : Keeps s { s with flash := flash, occasion := occasion } :=
  .of_eq rfl rfl rfl rfl rfl rfl rfl

theorem keeps_settleArray (s : State) : Keeps s s.settleArray := (aired_settleArray s).keeps

/-- An operation taken from the head of those of a state ends. -/
theorem queueInv_endStore {s : State} (inv : QueueInv s) (op : StoreOp) (r : StoreResult) : QueueInv (s.endStore op r) := by
  rw [endStore_eq]
  refine queueInv_of inv (fun inv => agentInv_place inv _ _) ?_
  show (s.store.behind op).queue.length ≤ _
  rw [queue_behind]

theorem keeps_endStore {s : State} {c : Current} (current : s.store.current = some c) (r : StoreResult) : Keeps s (s.endStore c.op r) :=
  (ArrayWork.endStore s c.op r).keeps (fun inv => queueInv_endStore inv c.op r) fun inv => dirInv_endStore (inv.headed current) r

theorem keeps_endRemapped {s : State} {c : Current} (current : s.store.current = some c) (m : Spares) (cause : RemapCause) :
    Keeps s (s.endRemapped c.op m cause) :=
  (ArrayWork.endRemapped s c.op m cause).keeps
    (fun inv => queueInv_of (queueInv_endStore inv c.op .remapped) (fun inv => agentInv_place inv _ _) (Nat.le_refl _))
    fun inv => dirInv_endRemapped (inv.headed current) m cause

theorem keeps_beginReloc (s : State) (spent : List Nat) : Keeps s (s.beginReloc spent) := by
  rw [beginReloc_eq]
  exact keeps_goStage s _

theorem keeps_copyFrom (s : State) (op : StoreOp) (m : Spares) (i : Nat) : Keeps s (s.copyFrom op m i) := by
  rw [copyFrom_eq]
  exact keeps_goStage s _

theorem keeps_programEnds {s : State} {c : Current} (current : s.store.current = some c) (pass : Bool) : Keeps s (s.programEnds c pass) := by
  have written (page : Nat) (image : PageImage) : Keeps s (s.writePage page image) := keeps_withFlash s _ s.occasion
  unfold State.programEnds
  split
  · split
    · split
      · exact (written _ _).trans (keeps_endStore (s := s.writePage _ _) current _)
      · exact keeps_beginReloc s _
    · exact .refl s
  · split
    · exact (written _ _).trans (keeps_copyFrom _ _ _ _)
    · exact keeps_beginReloc s _
  · split
    · exact (written _ _).trans (keeps_goStage _ _)
    · exact keeps_beginReloc s _
  · exact .refl s

theorem keeps_eraseEnds {s : State} {c : Current} (current : s.store.current = some c) (pass : Bool) : Keeps s (s.eraseEnds c pass) := by
  have loosened (block : Nat) : Keeps s (s.loosen block) := keeps_withFlash s _ _
  have erased (block : Nat) : Keeps s { s with flash := eraseFlash s.flash block } := keeps_withFlash s _ s.occasion
  unfold State.eraseEnds
  dsimp only
  split
  · split
    · exact (erased _).trans (keeps_endStore (s := { s with flash := eraseFlash s.flash _ }) current _)
    · refine (loosened (s.settings.physical c.op.block)).trans ?_
      rw [beginRemap_eq]
      exact keeps_goStage _ _
  · split
    · exact (erased _).trans (keeps_copyFrom _ _ _ _)
    · exact (loosened _).trans (keeps_beginReloc _ _)
  · split
    · exact (erased _).trans (keeps_endRemapped (s := { s with flash := eraseFlash s.flash _ }) current _ _)
    · split
      · exact (loosened _).trans (keeps_goStage _ _)
      · exact (loosened _).trans (keeps_goStage _ _)
  · exact .refl s

theorem keeps_writeEnds {s : State} {c : Current} (current : s.store.current = some c) : Keeps s (s.writeEnds c) := by
  have written : Keeps s { s with settings := s.settings.written c } := .of_eq rfl rfl rfl rfl rfl rfl rfl
  refine written.trans ?_
  have current' : ({ s with settings := s.settings.written c } : State).store.current = some c := current
  unfold State.writeEnds State.afterWrite
  split
  · exact keeps_endStore current' _
  · exact keeps_endRemapped current' _ _
  · exact keeps_goStage _ _
  · exact keeps_endStore current' _
  · exact keeps_endStore current' _
  · exact .refl _

/-- The head of the queue ends at its start, or becomes current. -/
theorem startOp_cases (s : State) (op : StoreOp) : (∃ r, s.startOp op = s.endStore op r) ∨ ∃ st, s.startOp op = s.beginOp op st := by
  unfold State.startOp
  cases op with
  | commit page tag head =>
    dsimp only
    split
    · exact .inl ⟨_, rfl⟩
    · split
      · exact .inl ⟨_, rfl⟩
      · exact .inr ⟨_, rfl⟩
  | erase block tag =>
    dsimp only
    split
    · exact .inl ⟨_, rfl⟩
    · exact .inr ⟨_, rfl⟩
  | boundary v tag => exact .inr ⟨_, rfl⟩
  | floor f b tag => exact .inr ⟨_, rfl⟩

theorem keeps_startHead {s : State} (idle : s.store.current = none) : Keeps s s.startHead := by
  refine (ArrayWork.startHead s).keeps (fun inv => ?_) fun inv => ?_
  all_goals
    unfold State.startHead
    cases queue : s.store.queue with
    | nil => exact inv
    | cons op rest => ?_
  · have popped : QueueInv { s with store := { s.store with queue := rest } } :=
      queueInv_of inv id (by rw [queue]; exact Nat.le_succ _)
    dsimp only
    rcases startOp_cases { s with store := { s.store with queue := rest } } op with ⟨r, ended⟩ | ⟨st, begun⟩
    · rw [ended]
      exact queueInv_endStore popped op r
    · rw [begun]
      exact queueInv_of popped id (Nat.le_refl _)
  · have form := (dirInv_iff s).1 inv
    rw [operations_idle idle, queue] at form
    dsimp only
    rcases startOp_cases { s with store := { s.store with queue := rest } } op with ⟨r, ended⟩ | ⟨st, begun⟩
    · rw [ended]
      exact dirInv_endStore (s := { s with store := { s.store with queue := rest } }) form r
    · rw [begun, dirInv_iff]
      exact form

/-! ## Reads -/

theorem scanning_of_request {s : State} {q : ReadRequest} (request : s.nextRead = some q) (scan : q.who = .scan) :
    s.play.dir.state = .scanning := by
  obtain ⟨n, -, first⟩ := List.exists_of_findSome?_eq_some request
  have voice (o : Option VoiceNo) (asks : o.bind s.play.voiceRequest = some q) : False := by
    obtain ⟨v, -, asks⟩ := Option.bind_eq_some_iff.1 asks
    obtain ⟨r, -, rfl⟩ := Option.map_eq_some_iff.1 asks
    cases scan
  unfold State.firstOf at first
  split at first
  · exact (voice _ first).elim
  · exact (voice _ first).elim
  · unfold State.copyRequest at first
    repeat' split at first
    all_goals first
      | cases first
    cases scan
  · obtain ⟨j, -, rfl⟩ := Option.map_eq_some_iff.1 first
    cases scan
  · split at first
    · rename_i q' verify
      cases first
      unfold State.verifyRequest at verify
      repeat' split at verify
      all_goals cases verify
      cases scan
    · unfold State.scanRequest at first
      split at first
      · rename_i both
        exact beq_iff_eq.1 (Bool.and_eq_true_iff.1 both).1
      · cases first
  · cases first

theorem keeps_launch {s : State} {q : ReadRequest} (request : s.nextRead = some q) : Keeps s (s.launch q) := by
  have landed : Keeps s { s with inFlight := some ⟨q.who, q.page, s.settings.physical (q.page / Config.pagesPerBlock)⟩ } := by
    refine ⟨id, id, fun inv => queueInv_of inv id (Nat.le_refl _), fun inv => ?_⟩
    have form := (dirInv_iff s).1 inv
    rw [dirInv_iff]
    refine DirForm.reading form ?_
    rintro ⟨f, reads, who⟩
    cases reads
    exact scanning_of_request request who
  refine landed.trans ?_
  unfold State.launch
  dsimp only
  cases q.who with
  | voice v => exact .of_eq rfl rfl rfl rfl rfl rfl rfl
  | relocation =>
    exact (ArrayWork.modCurrent _ fun c => { c with started := true }).keeps (fun inv => queueInv_of inv id (Nat.le_refl _))
      fun inv => dirInv_modCurrent inv fun _ => rfl
  | readPage => exact .refl _
  | verify => exact .refl _
  | cancelledVerify => exact .refl _
  | scan => exact .refl _
  | discarded => exact .refl _

theorem keeps_deliverCopy (s : State) (image : PageImage) (e : ReadEnd) : Keeps s (s.deliverCopy image e) := by
  unfold State.deliverCopy
  split
  · split
    · split
      · exact keeps_copyFrom s _ _ _
      · split
        · exact keeps_goStage s _
        · exact keeps_copyFrom s _ _ _
    · exact .refl s
  · exact .refl s

theorem keeps_deliverPage (s : State) (image : PageImage) (e : ReadEnd) (block : Nat) : Keeps s (s.deliverPage image e block) := by
  refine (ArrayWork.deliverPage s image e block).keeps (fun inv => ?_) fun inv => ?_
  · refine queueInv_of inv (fun inv => agentInv_deliverPage inv image e block) ?_
    unfold State.deliverPage
    split
    · exact Nat.le_refl _
    · exact Nat.le_refl _
  · unfold State.deliverPage
    split
    · exact dirInv_of_same inv rfl rfl id
    · exact inv

/-- A change of the directory in what the invariants do not look at. -/
theorem queueInv_modDir {s : State} (inv : QueueInv s) (f : Directory → Directory) : QueueInv (s.modDir f) :=
  queueInv_of inv id (Nat.le_refl _)

theorem queueInv_raise {s : State} (inv : QueueInv s) (tag : Nat) (n : Notice) : QueueInv (s.raise tag n) :=
  queueInv_of inv (fun inv => agentInv_place inv _ n) (Nat.le_refl _)

theorem queueInv_endVerify {s : State} (inv : QueueInv s) (j : VerifyJob) (e : DirEntry) : QueueInv (s.endVerify j e) :=
  queueInv_of inv (fun inv => agentInv_place inv _ _) (Nat.le_refl _)

theorem queueInv_deliverVerify {s : State} (inv : QueueInv s) (image : PageImage) (r : ReadEnd) : QueueInv (s.deliverVerify image r) := by
  unfold State.deliverVerify
  split
  · rename_i j _
    split
    · have counted : QueueInv (if r.weak then s.modDir fun d => d.reportWeak j.clip else s) := by
        split
        · exact queueInv_modDir inv _
        · exact inv
      dsimp only
      split
      · exact queueInv_endVerify counted _ _
      · exact queueInv_of counted id (Nat.le_refl _)
    · exact queueInv_of inv id (Nat.le_refl _)
  · exact inv

theorem queueInv_scanOn {s : State} (inv : QueueInv s) (block : Nat) : QueueInv (s.scanOn block) := by
  unfold State.scanOn
  dsimp only
  split
  · exact queueInv_modDir inv _
  · exact queueInv_raise (queueInv_modDir inv _) _ _

theorem queueInv_deliverScan {s : State} (inv : QueueInv s) (image : PageImage) (e : ReadEnd) : QueueInv (s.deliverScan image e) := by
  unfold State.deliverScan State.scanHead
  dsimp only
  split
  · exact queueInv_scanOn (queueInv_modDir inv _) _
  · split
    · split
      · split
        · exact queueInv_scanOn (queueInv_raise (queueInv_modDir inv _) _ _) _
        · exact queueInv_scanOn (queueInv_modDir inv _) _
      · exact queueInv_scanOn inv _
    · exact queueInv_scanOn inv _
    · exact queueInv_scanOn inv _

theorem calm_setVoice {p q : Play} (before : Calm p q) (v : VoiceNo) (x : Voice) : Calm p (q.setVoice v x) :=
  before.steady ⟨fun _ => .refl _, rfl, rfl, rfl⟩

theorem calm_returnPool {p q : Play} (before : Calm p q) (v : VoiceNo) : Calm p (q.returnPool v) := by
  unfold Play.returnPool
  dsimp only
  split
  · split
    · exact before
    · exact (calm_setVoice before v _).modRegion _ _ ⟨rfl, .inl Iff.rfl⟩
  · exact before

/-- A delivery to a voice goes by small steps, but for the weak reads that it reports. -/
theorem deliverVoice_calm (p : Play) (v : VoiceNo) (image : PageImage) (e : ReadEnd) : ∃ q dir, Calm p q ∧ q.dir.Alike dir ∧
    p.deliverVoice v image e = { q with dir := dir } := by
  have start := Calm.refl p
  unfold Play.deliverVoice
  dsimp only
  split
  · exact ⟨p, p.dir, start, .refl _, rfl⟩
  · split
    · exact ⟨_, _, calm_returnPool (calm_setVoice start v _) v, .refl _, rfl⟩
    · split
      · rename_i q _ _ _
        have joined := calm_setVoice start v (({ p.voice v with pending := none } : Voice).join ⟨q.ref, image, e.failed⟩)
        split
        · split
          · exact ⟨_, _, joined, ⟨places_reportWeak _ _, rfl, rfl⟩, rfl⟩
          · exact ⟨_, _, joined, .refl _, rfl⟩
        · exact ⟨_, _, joined, .refl _, rfl⟩
      · exact ⟨_, _, calm_setVoice start v _, .refl _, rfl⟩

/-- A directory with the same clips at the same places. -/
theorem keeps_alike (s : State) {dir : Directory} (alike : s.play.dir.Alike dir) : Keeps s { s with play := { s.play with dir := dir } } := by
  obtain ⟨places, state, scan⟩ := alike
  refine ⟨id, fun inv => slotsInv_rest inv rfl rfl, fun inv => queueInv_of inv id (Nat.le_refl _), fun inv => ?_⟩
  rw [dirInv_iff]
  exact ((dirInv_iff s).1 inv).same places state (congrArg ScanState.next scan)

/-- The read in flight has landed. -/
theorem keeps_landed (s : State) : Keeps s { s with inFlight := none } := by
  refine ⟨id, id, fun inv => queueInv_of inv id (Nat.le_refl _), fun inv => dirInv_of_same inv rfl rfl ?_⟩
  rintro ⟨f, reads, -⟩
  cases reads

theorem keeps_deliver {s : State} {f : InFlight} (flying : s.inFlight = some f) (a b c : Attempt) : Keeps s (s.deliver f a b c) := by
  have landed := keeps_landed s
  unfold State.deliver
  dsimp only
  generalize endRead (s.singleAttempt f) a b c = e
  generalize readFlash s.flash (f.block * Config.pagesPerBlock + f.page % Config.pagesPerBlock) = image
  cases who : f.who with
  | voice v =>
    obtain ⟨q, dir, calm, alike, delivered⟩ := deliverVoice_calm s.play v image e
    have aired : Aired { s with inFlight := none } { s with inFlight := none, play := q } := .play ((Moved.refl _).calm calm)
    dsimp only
    rw [delivered]
    exact landed.trans (aired.keeps.trans (keeps_alike { s with inFlight := none, play := q } alike))
  | relocation => exact landed.trans (keeps_deliverCopy _ _ _)
  | readPage => exact landed.trans (keeps_deliverPage _ _ _ _)
  | verify =>
    exact landed.trans ((ArrayWork.deliverVerify _ _ _).keeps (fun inv => queueInv_deliverVerify inv _ _)
      fun inv => dirInv_deliverVerify inv _ _)
  | cancelledVerify => exact landed
  | scan =>
    refine ((ArrayWork.withInFlight s none).trans (.deliverScan _ _ _)).keeps (fun inv => queueInv_deliverScan (landed.queues inv) _ _)
      fun inv => ?_
    exact dirInv_deliverScan (landed.dir inv) rfl (inv.read f flying who) _ _
  | discarded => exact landed

theorem keeps_readDelivery (a b c : Attempt) (s : State) : ∃ t, exec (.readDelivery a b c) s = .next t ∧ Keeps s t := by
  show ∃ t, execReadDelivery a b c s = .next t ∧ Keeps s t
  unfold execReadDelivery
  split
  · rename_i f flying
    refine ⟨_, rfl, (keeps_deliver flying a b c).trans (Keeps.trans ?_ (keeps_settleArray _))⟩
    unfold State.afterDelivery
    split
    · exact (aired_grantReturned _).keeps
    · exact .refl _
  · exact ⟨_, rfl, .refl s⟩

/-! ## Resets and the frame boundary -/

/-- A state whose blocks are as after power-on. -/
theorem keeps_reset {s t : State} (next : Nat) (cues : t.cues = CueUnit.reset) (play : t.play = Play.reset next)
    (queue : t.store.queue = []) (current : t.store.current = none) : Keeps s t := by
  refine ⟨fun _ => by rw [cues]; exact cueInv_reset, fun _ => by rw [play]; exact slotInv_reset next,
    fun _ => queueInv_reset (by rw [play]; rfl) queue, fun _ => dirInv_reset next (by rw [play]; rfl) ?_⟩
  rw [operations_idle current, queue]

theorem keeps_softReset (s : State) : Keeps s s.softReset := keeps_reset s.abandonStep.settings.firstScan rfl rfl rfl rfl

theorem keeps_powerOn (s : State) (pins : BitVec 8) : Keeps s (s.powerOn pins) :=
  keeps_reset s.cutWrite.abandonStep.settings.firstScan rfl rfl rfl rfl

theorem keeps_withReturn (s : State) : Keeps s s.withReturn := by
  unfold State.withReturn
  split
  · exact .refl s
  · exact ⟨id, fun inv => slotsInv_rest inv rfl rfl, fun inv => queueInv_of inv agentInv_formReturn (Nat.le_refl _),
      fun inv => dirInv_of_same inv rfl rfl id⟩

theorem keeps_resetIfDue (s : State) : Keeps s s.resetIfDue := by
  unfold State.resetIfDue
  split
  · exact keeps_softReset s
  · exact .refl s

theorem keeps_takeCues (s : State) (f : ProgFrame) : Keeps s (s.takeCues f) := by
  have calm := calm_takeCues s f
  have cues : CueInv s.cues → CueInv (s.takeCues f).cues := fun inv => cueInv_takeCues inv f
  have store : (s.takeCues f).store = s.store := rfl
  have reads : (s.takeCues f).inFlight = s.inFlight := rfl
  refine ⟨cues, fun inv => slotsInv_moved inv ((Moved.refl _).calm calm),
    fun inv => queueInv_of inv (fun inv => agentInv_calm inv calm) (by rw [store]), fun inv => ?_⟩
  obtain ⟨places, state, scan⟩ := dir_calm calm
  have form := (dirInv_iff s).1 inv
  unfold State.DirHolds at form
  rw [dirInv_iff]
  unfold State.DirHolds State.scanReads
  rw [store, reads]
  exact form.same places state (congrArg ScanState.next scan)

theorem keeps_openPeriod (s : State) (f : ProgFrame) : Keeps s (s.openPeriod f) := by
  refine ⟨id, fun inv => slotsInv_same inv (fun r => ?_) rfl,
    fun inv => queueInv_of inv (fun inv => agentInv_receiveField inv _ _) (Nat.le_refl _), fun inv => dirInv_of_same inv rfl rfl id⟩
  have region : (s.openPeriod f).play.region r = { s.play.region r with out := [] } := Vector.getElem_map ..
  rw [region]
  exact ⟨rfl, .inl Iff.rfl⟩

theorem keeps_passFrame (s : State) : Keeps s s.passFrame := by
  have linked : Keeps s { s with link := s.link.settle.1 } := .of_eq rfl rfl rfl rfl rfl rfl rfl
  exact linked.trans ((keeps_takeCues _ _).trans (keeps_openPeriod _ _))

theorem keeps_boundary (s : State) : Keeps s s.boundary := by
  unfold State.boundary
  dsimp only
  exact (aired_formSamples _ s).keeps.trans ((keeps_withReturn _).trans ((keeps_resetIfDue _).trans
    ((aired_boundaryTests _).keeps.trans (keeps_passFrame _))))

end Sys2Proof.Machine

/-! # Every command keeps the invariants, and the plan that a break takes (O15) -/

namespace Sys2Proof.Machine

/-! ## The requests that act outside the pattern -/

theorem keeps_taken {s : State} {kind : Nat → Bool} {m : Message} {rest : List Message} (head : s.headOf kind = some (m, rest)) :
    Keeps s (s.modAgent fun a => a.taking m rest) :=
  keeps_modAgent s _ fun inv => agentInv_taking inv (taken_of_headOf head).1

theorem keeps_replied {s : State} {kind : Nat → Bool} {m : Message} {rest : List Message} (head : s.headOf kind = some (m, rest)) (code : Code)
    (body : Body) : Keeps s ((s.modAgent fun a => a.taking m rest).answer m code body) := by
  obtain ⟨free, room⟩ := mayTake_room (taken_of_headOf head).2
  exact (keeps_taken head).trans (keeps_answer (s := s.modAgent fun a => a.taking m rest) room free code body)

theorem keeps_forceNetwork (f : Option Nat) (s : State) : ∃ t, execForceNetwork f s = .next t ∧ Keeps s t := by
  unfold execForceNetwork
  split
  · rename_i r m rest _ head
    let t := (s.modAgent fun a => a.taking m rest).answer m .ok .none
    have forced : Aired t { t with play := t.play.forceNetwork t.now r } := .play ((Moved.refl _).forceNetwork t.now r)
    exact ⟨_, rfl, (keeps_replied head .ok .none).trans
      (forced.trans ((aired_grantReturned _).trans (aired_settleArray _))).keeps⟩
  · exact ⟨_, rfl, keeps_serveWith fun _ _ t => .refl t⟩

theorem keeps_readPage (f : Option ReadPageFields) (s : State) : ∃ t, execReadPage f s = .next t ∧ Keeps s t := by
  refine ⟨_, rfl, ?_⟩
  split
  · rename_i g m rest head
    dsimp only
    split
    · exact keeps_replied head _ _
    · obtain ⟨-, room⟩ := mayTake_room (taken_of_headOf head).2
      refine (keeps_taken head).trans (keeps_modAgent _ _ fun inv => ?_)
      exact agentInv_holdRead (s := s.modAgent fun a => a.taking m rest) inv room g
  · exact keeps_serveWith fun _ _ t => .refl t

/-! ## The commands -/

/-- A command completes, and keeps the invariants. -/
def Completes (s : State) (o : Host.Outcome State Fault Refusal) : Prop := ∃ t, o = .next t ∧ Keeps s t

theorem Completes.next {s t : State} (keeps : Keeps s t) : Completes s (.next t) := ⟨t, rfl, keeps⟩

theorem completes_onAir (c : Instr) (s : State) (onAir : onAirCommand c = true) : Completes s (exec c s) := by
  obtain ⟨t, reached, aired⟩ := exec_onAir c s onAir
  exact ⟨t, reached, aired.keeps⟩

theorem completes_array (c : Instr) (s : State) (array : c = .readStart ∨ c = .verifyTake ∨ c = .storeOperationStart ∨
    (∃ pass, c = .pageProgramComplete pass) ∨ (∃ pass, c = .blockEraseComplete pass) ∨ c = .eraseSuspended ∨ c = .settingsWriteComplete) :
    Completes s (exec c s) := by
  rcases array with rfl | rfl | rfl | ⟨pass, rfl⟩ | ⟨pass, rfl⟩ | rfl | rfl
  · show Completes s (execReadStart s)
    unfold execReadStart
    split
    · rename_i q request
      exact .next (keeps_launch request)
    · exact .next (.refl s)
  · refine .next ?_
    split
    · refine (ArrayWork.verifyTake s).keeps (fun inv => ?_) fun inv => ?_
      all_goals
        unfold State.verifyTake
        split
      · exact queueInv_of inv id (Nat.le_refl _)
      · exact inv
      · exact dirInv_withVerify (dirInv_modDir inv rfl rfl rfl) _
      · exact inv
    · exact .refl s
  · refine .next ?_
    split
    · rename_i due
      have idle : s.store.current = none := by
        simp only [State.storeDue, Bool.and_eq_true] at due
        exact Option.isNone_iff_eq_none.1 due.1.1.2
      exact (keeps_startHead idle).trans (keeps_settleArray _)
    · exact keeps_settleArray s
  · show Completes s (execPageProgramComplete pass s)
    unfold execPageProgramComplete
    split
    · rename_i c step
      exact .next ((keeps_programEnds (currentStep_some step).1 pass).trans (keeps_settleArray _))
    · exact .next (.refl s)
  · show Completes s (execBlockEraseComplete pass s)
    unfold execBlockEraseComplete
    split
    · rename_i c step
      exact .next ((keeps_eraseEnds (currentStep_some step).1 pass).trans (keeps_settleArray _))
    · exact .next (.refl s)
  · show Completes s (execEraseSuspended s)
    unfold execEraseSuspended
    split
    · rename_i c _
      refine .next ?_
      split
      · have loosened : Keeps s (s.loosenErasing c) := by
          unfold State.loosenErasing
          split
          · exact keeps_withFlash s _ _
          · exact .refl s
        have suspended : Keeps (s.loosenErasing c) ((s.loosenErasing c).modCurrent fun c => { c with phase := .suspended }) :=
          (ArrayWork.modCurrent _ _).keeps (fun inv => queueInv_of inv id (Nat.le_refl _)) fun inv => dirInv_modCurrent inv fun _ => rfl
        exact (loosened.trans suspended).trans (keeps_settleArray _)
      · exact .refl s
    · exact .next (.refl s)
  · show Completes s (execSettingsWriteComplete s)
    unfold execSettingsWriteComplete
    split
    · rename_i c step
      exact .next ((keeps_writeEnds (currentStep_some step).1).trans (keeps_settleArray _))
    · exact .next (.refl s)

/-- Every command completes, and keeps the Cue Unit, the slots, the queues and the directory in order. -/
theorem exec_keeps (c : Instr) (s : State) : Completes s (exec c s) := by
  have quiet (t : State) : Tends t t := .refl t
  cases c with
  | powerOn pins => exact .next (keeps_powerOn s pins)
  | programmeFrameArrival bytes => exact .next (.of_eq rfl rfl rfl rfl rfl rfl rfl)
  | framePeriodEvent => exact .next ((keeps_boundary s).trans (keeps_settleArray _))
  | softReset =>
    refine .next ?_
    split
    · exact (keeps_withReturn s).trans (keeps_softReset _)
    · exact .refl s
  | gateDeadline | joinDeadline | gateOpening | cueDispatch | leadInStart | armTimerExpiry | breakTimerExpiry | rampCompletion | itemEnd
  | loopWrap | primedEntryStart | fillerStartAfterSkip | poolRequest | decisionPoint | mixStart | lateCrossfadeStart =>
    exact completes_onAir _ s rfl
  | readStart => exact completes_array _ s (.inl rfl)
  | readDelivery a b c => exact keeps_readDelivery a b c s
  | verifyTake => exact completes_array _ s (.inr (.inl rfl))
  | storeOperationStart => exact completes_array _ s (.inr (.inr (.inl rfl)))
  | pageProgramComplete pass => exact completes_array _ s (.inr (.inr (.inr (.inl ⟨pass, rfl⟩))))
  | blockEraseComplete pass => exact completes_array _ s (.inr (.inr (.inr (.inr (.inl ⟨pass, rfl⟩)))))
  | eraseSuspended => exact completes_array _ s (.inr (.inr (.inr (.inr (.inr (.inl rfl))))))
  | settingsWriteComplete => exact completes_array _ s (.inr (.inr (.inr (.inr (.inr (.inr rfl))))))
  | unknownKind => exact .next (keeps_serve fun _ t => quiet t)
  | identify => exact .next (keeps_servePlain fun _ t => quiet t)
  | resetEnable => exact .next (keeps_servePlain fun _ t => .on rfl ⟨rfl, rfl, rfl⟩ rfl rfl rfl fun inv => slotsInv_rest inv rfl rfl)
  | reset =>
    refine .next (keeps_servePlain fun m t => ?_)
    split
    · exact .on rfl ⟨rfl, rfl, rfl⟩ rfl rfl rfl fun inv => slotsInv_rest inv rfl rfl
    · exact quiet t
  | configureRegion f =>
    refine .next (keeps_serveWith fun f _ t => ?_)
    split
    · exact tends_configure t _ f
    · exact quiet t
  | regionStatus f =>
    refine .next (keeps_serveWith fun n _ t => ?_)
    split
    · exact .on rfl (.refl _) rfl rfl rfl fun inv => slotsInv_moved inv ((Moved.refl _).calm
        ((Calm.refl _).modRegion _ RegionRec.clearPeaks ⟨rfl, .inl Iff.rfl⟩))
    · exact quiet t
  | forceNetwork f => exact keeps_forceNetwork f s
  | releaseBypass f =>
    refine .next (keeps_serveWith fun n _ t => ?_)
    split
    · split
      · exact quiet t
      · rename_i off
        simp only [Bool.or_eq_true, not_or, bne_iff_ne, ne_eq, not_not] at off
        exact tends_releaseBypass off.1
    · exact quiet t
  | openPlan f =>
    refine .next (keeps_serveWith fun f _ t => tends_onSlot fun r n => ?_)
    split
    · exact quiet t
    · rename_i empty
      rw [bne_iff_ne, ne_eq, not_not] at empty
      split
      · exact tends_putSlot (by rw [empty]; exact Iff.rfl) ⟨nofun, nofun⟩ nofun
      · exact quiet t
  | appendItem f =>
    refine .next (keeps_serveWith fun f _ t => tends_onSlot fun r n => ?_)
    split
    · rename_i loading _
      split
      · exact tends_append loading _ _
      · exact quiet t
    · exact quiet t
  | closePlan f =>
    refine .next (keeps_serveWith fun f _ t => tends_onSlot fun r n => ?_)
    split
    · rename_i loading _
      exact tends_closePlan loading _
    · exact quiet t
  | clearPlan f =>
    exact .next (keeps_serveWith fun f _ t => tends_onSlot fun r n => .on rfl (.refl _) rfl rfl rfl fun inv => slotsInv_cleared inv r n)
  | readPlan f => exact .next (keeps_serveWith fun f _ t => tends_onSlot fun _ _ => quiet t)
  | voiceStatus f => exact .next (keeps_serveWith fun n _ t => by split <;> exact quiet t)
  | setGroupLevel f =>
    refine .next (keeps_serveWith fun f _ t => ?_)
    split
    · split
      · exact quiet t
      · exact .on rfl (.refl _) rfl rfl rfl id
    · exact quiet t
  | readLevels => exact .next (keeps_servePlain fun _ t => quiet t)
  | configureLinkGroup f =>
    refine .next (keeps_serveWith fun f _ t => ?_)
    split
    · split
      · exact quiet t
      · exact .on rfl (.refl _) rfl rfl rfl fun inv => slotsInv_rest inv rfl rfl
    · exact quiet t
  | gateStatus f => exact .next (keeps_serveWith fun n _ t => by split <;> exact quiet t)
  | directoryQuery f => exact .next (keeps_serveWith fun n _ t => by split <;> exact quiet t)
  | clipStatus f => exact .next (keeps_serveWith fun n _ t => by split <;> exact quiet t)
  | storeUnlock =>
    refine .next (keeps_servePlain fun _ t => ?_)
    split
    · exact quiet t
    · exact ⟨rfl, .refl _, id, id, fun inv => (dirInv_iff _).2 ((dirInv_iff t).1 inv)⟩
  | loadPageData f =>
    refine .next (keeps_serveWith fun f _ t => ?_)
    split
    · exact quiet t
    · rename_i accepted
      exact tends_load accepted _
  | commitPage f => exact .next (keeps_storeRequest fun _ m _ complete passed => tends_commit complete passed m.tag)
  | eraseBlock f => exact .next (keeps_storeRequest fun _ m _ _ passed => tends_erase passed m.tag)
  | setProtectBoundary f =>
    refine .next (keeps_storeRequest fun value m t _ passed => ?_)
    obtain ⟨room, -⟩ := firstRefusal_cons (firstRefusal_cons passed).2
    exact tends_setting (f := fun st => { st with pStar := t.lock.store.effective value }) room rfl (fun _ => rfl) (fun _ => rfl)
      (fun _ => rfl) fun _ => rfl
  | raiseLockFloor f =>
    refine .next (keeps_storeRequest fun value m t _ passed => ?_)
    obtain ⟨room, -⟩ := firstRefusal_cons (firstRefusal_cons (firstRefusal_cons passed).2).2
    exact tends_setting (f := fun st => { st with pStar := max t.lock.store.pStar value, lStar := value }) room rfl (fun _ => rfl)
      (fun _ => rfl) (fun _ => rfl) fun _ => rfl
  | verifyClip f =>
    refine .next (keeps_serveWith fun n m t => ?_)
    split
    · exact quiet t
    · exact tends_verifyClip t _
  | readPage f => exact keeps_readPage f s
  | remapStatus f => exact .next (keeps_serveWith fun n _ t => by split <;> exact quiet t)
  | fetchAsRun f =>
    exact .next (keeps_serveWith fun _ _ t => .on rfl (.refl _) rfl rfl rfl fun inv => slotsInv_rest inv rfl rfl)
  | asRunStatus => exact .next (keeps_servePlain fun _ t => quiet t)
  | linkStatus => exact .next (keeps_servePlain fun _ t => quiet t)

/-- Every step keeps the invariants. -/
theorem step_keeps {s t : State} (stepped : step s = .next t) : Keeps s t := by
  rcases step_cases stepped with ⟨-, rfl⟩ | ⟨c, rest, -, completes⟩
  · exact (aired_formSample s).keeps
  · obtain ⟨u, reached, keeps⟩ := exec_keeps c { s with pending := rest }
    rw [eq_of_next reached completes]
    have popped : Keeps s { s with pending := rest } := .of_eq rfl rfl rfl rfl rfl rfl rfl
    exact popped.trans keeps

/-! ## The plan that a break takes (O15) -/

theorem findPlan_spec (p : Play) (r : Region) (breakId : Nat) : match p.findPlan r breakId with
    | some n => (p.slot r n).readyWith breakId = true ∨ (∀ m, (p.slot r m).readyWith breakId = false) ∧ (p.slot r n).readyWith 0 = true
    | none => ∀ m, (p.slot r m).readyWith breakId = false ∧ (p.slot r m).readyWith 0 = false := by
  have absent {id : Nat} (none : (allSlots.find? fun n => (p.slot r n).readyWith id) = none) (m : Fin 16) : (p.slot r m).readyWith id = false :=
    Bool.not_eq_true _ ▸ List.find?_eq_none.1 none m (mem_allSlots m)
  unfold Play.findPlan
  cases own : allSlots.find? fun n => (p.slot r n).readyWith breakId with
  | some n => exact .inl (List.find?_some (p := fun n => (p.slot r n).readyWith breakId) own)
  | none =>
    dsimp only
    cases default : allSlots.find? fun n => (p.slot r n).readyWith 0 with
    | some n => exact .inr ⟨absent own, List.find?_some (p := fun n => (p.slot r n).readyWith 0) default⟩
    | none => exact fun m => ⟨absent own m, absent default m⟩

theorem readyWith_plan (x : Slot) (breakId : Nat) :
    x.readyWith breakId = true ↔ x.state = .ready ∧ ∃ pl, x.plan = some pl ∧ pl.breakId = breakId := by
  rw [readyWith_iff, Option.map_eq_some_iff]

/-- Settles O15: the search by its two runs over the slots, and the slots as every command keeps them. -/
theorem planLookup : Obligations.PlanLookup := by
  refine ⟨fun p r breakId => ?_, fun s t inv stepped => (step_keeps stepped).slots inv⟩
  have found := findPlan_spec p r breakId
  dsimp only
  cases is : p.findPlan r breakId with
  | some n =>
    rw [is] at found
    refine found.imp (readyWith_plan _ _).1 fun ⟨unmatched, default⟩ => ⟨fun m ready => ?_, (readyWith_plan _ _).1 default⟩
    cases (unmatched m).symm.trans ((readyWith_plan _ _).2 ready)
  | none =>
    rw [is] at found
    refine fun m => ⟨fun ready => ?_, fun ready => ?_⟩
    · cases (found m).1.symm.trans ((readyWith_plan _ _).2 ready)
    · cases (found m).2.symm.trans ((readyWith_plan _ _).2 ready)

end Sys2Proof.Machine

/-! # What a dispatch and a boundary do to the Cue Unit (O14) -/

namespace Sys2Proof.Machine

/-! ## The dispatch (R7, R8, R9) -/

/-- A region in BYPASS sets every cue aside. -/
theorem onCue_bypass {p : Play} {r : Region} (bypass : (p.region r).state = .bypass) (t : Now) (c : PendingCue) (lateness : Nat) :
    p.onCue t r c lateness = p := by
  have ended (cause : EndCause) : p.onEnd t r c cause = p := by
    unfold Play.onEnd Play.withBreak
    split
    · rfl
    · rename_i b isOpen
      dsimp only
      rw [bypass]
      dsimp only
      unfold Play.breakEnd Play.withBreak
      rw [isOpen]
      dsimp only
      rw [bypass]
      dsimp only
      exact ite_self p
  unfold Play.onCue
  cases c.kind with
  | prepare =>
    dsimp only
    unfold Play.onPrepare
    rw [bypass]
  | split =>
    dsimp only
    unfold Play.onSplit
    rw [bypass]
  | rejoin => exact ended .rejoinCue
  | cancel => exact ended .cancel

theorem mem_of_dueCue {s : State} {r : Region} {c : PendingCue} (due : s.dueCue r = some c) :
    c ∈ s.cues.table ∧ c.dueAt r ⟨s.periodSeq, s.sample⟩ = true :=
  ⟨List.mem_of_find?_eq_some due, List.find?_some (p := fun c : PendingCue => c.dueAt r ⟨s.periodSeq, s.sample⟩) due⟩

theorem dueAt_iff (c : PendingCue) (r : Region) (pos : Position) : c.dueAt r pos = true ↔ inMask c.mask r = true ∧
    inMask c.dispatched r = false ∧ (c.target = pos ∨ 65533 ≤ cueDistance c.target.seq pos.seq ∧ pos.sample = 0) := by
  unfold PendingCue.dueAt
  rw [Bool.and_eq_true, Bool.and_eq_true, Bool.or_eq_true, Bool.and_eq_true, lateBand_iff, beq_iff_eq, beq_iff_eq, Bool.not_eq_true',
    and_assoc]

/-- The late band from the two ends of a distance (R3). -/
theorem late_iff {a b : Nat} (smallA : a < 65536) (smallB : b < 65536) : 65533 ≤ cueDistance b a ↔
    1 ≤ (a + 65536 - b) % 65536 ∧ (a + 65536 - b) % 65536 ≤ 3 := by
  rw [cueDistance_eq smallA]
  omega

theorem lateness_eq (c : PendingCue) {a : Nat} (small : a < 65536) (small' : c.target.seq < 65536) : c.lateness a =
    if 1 ≤ (a + 65536 - c.target.seq) % 65536 ∧ (a + 65536 - c.target.seq) % 65536 ≤ 3 then
      (a + 65536 - c.target.seq) % 65536 * 48 - c.target.sample else 0 := by
  unfold PendingCue.lateness
  rw [cueDistance_eq small']
  exact if_congr ((lateBand_iff _).trans (late_iff small small')) rfl rfl

/-! ## The boundary (R2, R11) -/

theorem settle_retest (l : Link) : l.settle.1.retest = l.retest := by
  unfold Link.settle
  cases l.holding.find? fun f => f.seq == l.expected <;> rfl

/-- At the end of a frame without a reset pending, the link and the Cue Unit reach the passing of the frame as they were. -/
theorem cues_at_end {s : State} (last : s.sample = 48) (calm : s.play.agent.resetPending = none) :
    ∃ v, s.boundary = State.passFrame v ∧ v.link = s.link ∧ v.cues = s.cues := by
  have formed : s.withReturn.link = s.link ∧ s.withReturn.cues = s.cues ∧ s.withReturn.play.agent.resetPending = none := by
    unfold State.withReturn
    split
    · exact ⟨rfl, rfl, calm⟩
    · refine ⟨rfl, rfl, ?_⟩
      show s.play.agent.replySent _ = none
      unfold Agent.replySent
      rw [calm]
  obtain ⟨link, cues, pending⟩ := formed
  have stays : s.withReturn.resetIfDue = s.withReturn := by
    unfold State.resetIfDue State.resetDue
    rw [pending]
    rfl
  have tested : s.withReturn.boundaryTests.cues = s.withReturn.cues := by
    unfold State.boundaryTests
    generalize s.withReturn.play.gateTests s.withReturn.now = p
    rfl
  refine ⟨s.withReturn.boundaryTests, ?_, (boundaryTests_frame _).1.trans link, tested.trans cues⟩
  unfold State.boundary
  rw [last]
  show s.withReturn.resetIfDue.boundaryTests.passFrame = _
  rw [stays]

theorem passFrame_cues (v : State) : v.passFrame.cues = (({ v with link := v.link.settle.1 } : State).takeCues v.link.settle.2).cues := rfl

theorem takeCues_cues (s : State) (f : ProgFrame) : (s.takeCues f).cues = { (f.cues.foldl (takeCue s.now f.seq)
    (if s.link.retest then retest s.now f.seq ({ s.cues with intake := f.cues }, s.play) else ({ s.cues with intake := f.cues }, s.play))).1
    with intake := [] } := by
  have kept : (if s.link.retest then retest s.now f.seq ({ s.cues with intake := f.cues }, s.play)
      else ({ s.cues with intake := f.cues }, s.play)).1.intake = f.cues := by
    have fold (l : List PendingCue) (x : CueUnit × Play) : (l.foldl (retestCue s.now f.seq) x).1.intake = x.1.intake := by
      induction l generalizing x with
      | nil => rfl
      | cons c l ih =>
        rw [List.foldl_cons, ih]
        unfold retestCue
        split
        · rfl
        · rfl
    split
    · exact fold _ _
    · rfl
  unfold State.takeCues intake
  dsimp only
  rw [kept]

/-! ## The obligation -/

/-- The places of an insertion, as O14 states them. -/
theorem takeCue_spec {t : Now} {n : Nat} {u : CueUnit} {p : Play} {x : CueRecord} (small : n < 65536) {c : PendingCue} (is : x.cue = some c) :
    let drop := fun (v : CueUnit) (why : DropReason) (y : CueRecord) =>
      (({ v with dropped := min 65535 (v.dropped + 1) } : CueUnit), p.raise t 0 (.cueDropped why y n))
    let d := (c.target.seq + 65536 - n) % 65536
    let repeats := (∃ y ∈ u.table, SameCue y c) ∨ ⟨c.kind, c.breakId, c.target⟩ ∈ u.history
    (256 ≤ d → d ≤ 65532 → takeCue t n (u, p) x = drop u .stale ⟨x.kind, c.breakId, c.target, c.mask, c.nominal⟩) ∧
    (d < 256 ∨ 65532 < d →
      c.key n = (if d < 256 then (d : Int) else (d : Int) - 65536) * 48 + c.target.sample ∧
      (repeats → takeCue t n (u, p) x = (u, p)) ∧
      (¬ repeats → u.table.length < 8 → ∃ a b, u.table = a ++ b ∧ takeCue t n (u, p) x = ({ u with table := a ++ c :: b }, p) ∧
        (∀ y ∈ a, y.key n ≤ c.key n) ∧ ∀ y, b.head? = some y → c.key n < y.key n) ∧
      (∀ init last, ¬ repeats → u.table = init ++ [last] → u.table.length = 8 →
        (last.key n ≤ c.key n → takeCue t n (u, p) x = drop u .full ⟨x.kind, c.breakId, c.target, c.mask, c.nominal⟩) ∧
        (c.key n < last.key n → ∃ a b, init = a ++ b ∧
          takeCue t n (u, p) x = drop { u with table := a ++ c :: b } .full
            ⟨last.kind.code, last.breakId, last.target, last.mask, last.nominal⟩ ∧
          (∀ y ∈ a, y.key n ≤ c.key n) ∧ ∀ y, b.head? = some y → c.key n < y.key n))) := by
  intro drop d repeats
  have record := record_of_cue is
  refine ⟨fun lo hi => ?_, fun kept => ?_⟩
  · have stale : staleBand (cueDistance c.target.seq n) = true := by
      rw [cueDistance_eq small, staleBand_iff]
      exact ⟨lo, hi⟩
    rw [takeCue_stale is stale, record]
    rfl
  · have fresh : staleBand (cueDistance c.target.seq n) = false := by
      rw [← Bool.not_eq_true, cueDistance_eq small, staleBand_iff]
      show ¬ (256 ≤ d ∧ d ≤ 65532)
      omega
    have isNew (new : ¬ repeats) : u.isRepeat c = false := Bool.not_eq_true _ ▸ fun is => new ((isRepeat_iff u c).1 is)
    refine ⟨key_eq c small kept, fun again => takeCue_repeat is fresh ((isRepeat_iff u c).2 again), fun new room => ?_,
      fun init last new table full => ⟨fun behind => ?_, fun before => ?_⟩⟩
    · obtain ⟨a, b, whole, inserted, le, lt⟩ := insertCue_spec n c u.table
      refine ⟨a, b, whole, ?_, le, lt⟩
      rw [takeCue_enters is fresh (isNew new), enterCue_room room, inserted]
    · rw [takeCue_enters is fresh (isNew new), enterCue_full table full, if_neg (Int.not_lt.2 behind), record]
      rfl
    · obtain ⟨a, b, whole, inserted, le, lt⟩ := insertCue_spec n c init
      refine ⟨a, b, whole, ?_, le, lt⟩
      rw [takeCue_enters is fresh (isNew new), enterCue_full table full, if_pos before, inserted]
      rfl

/-- Settles O14: the mark, the test of what is due, the record, the intake case by case, the re-test, the boundary, and the bounds. -/
theorem cueDispatchMarks : Obligations.CueDispatchMarks := by
  refine ⟨fun s r c assembling due => ?_, fun s r c due small small' => ?_, cue_iff, fun t n u p x small => ?_, fun t n u p small bound => ?_,
    fun s last calm => ?_, fun s t inv stepped => (step_keeps stepped).cues inv⟩
  · exact ⟨_, exec_cueDispatch assembling due, fun bypass => onCue_bypass bypass _ _ _⟩
  · obtain ⟨inside, isDue⟩ := mem_of_dueCue due
    obtain ⟨masked, fresh, here⟩ := (dueAt_iff c r _).1 isDue
    exact ⟨inside, masked, fresh, here.imp id fun ⟨late, first⟩ => ⟨(late_iff small small').1 late, first⟩, lateness_eq c small small'⟩
  · exact ⟨fun why y room => mem_place room _ _, fun bad => takeCue_malformed bad, fun c is => takeCue_spec small is⟩
  · have kept : (u.table.filter fun c => !staleBand (cueDistance c.target.seq n)) =
        u.table.filter fun c => decide ((c.target.seq + 65536 - n) % 65536 < 256 ∨ 65532 < (c.target.seq + 65536 - n) % 65536) := by
      refine List.filter_congr fun c _ => ?_
      rw [Bool.eq_iff_iff, Bool.not_eq_true', ← Bool.not_eq_true, staleBand_iff, cueDistance_eq small, decide_eq_true_iff]
      omega
    rw [retest_eq t n u p bound, kept]
  · obtain ⟨v, passed, link, cues⟩ := cues_at_end last calm
    obtain ⟨cur, settled, -⟩ := settleArray_form s.boundary
    have taken := takeCues_cues { v with link := v.link.settle.1 } v.link.settle.2
    refine ⟨_, ({ v with link := v.link.settle.1 } : State).now, v.play, (exec_framePeriodEvent s).trans (congrArg Host.Outcome.next settled), ?_⟩
    have left : s.boundary.cues = (({ v with link := v.link.settle.1 } : State).takeCues v.link.settle.2).cues := by
      rw [passed, passFrame_cues]
    dsimp only
    rw [left, taken]
    refine ⟨rfl, ?_⟩
    dsimp only
    rw [settle_frame, settle_retest, link, cues]

end Sys2Proof.Machine

/-! # The As-Run Log and the notices (O31) -/

namespace Sys2Proof.Machine

/-! ## Appends and fetches (R149, R150, R151) -/

theorem append_eq (l : AsRunLog) (b : AsRunBody) : l.append b = { l with
    records := l.room ++ [⟨l.appended.toNat % 2 ^ 32, b⟩], appended := l.appended + 1
    overwritten := if l.records.length < 4096 then l.overwritten else l.overwritten + 1 } := by
  unfold AsRunLog.append AsRunLog.room
  dsimp only
  have max : Config.logMax = 4096 := rfl
  rw [max]
  split
  · rfl
  · rfl

/-- The balance over the log sequences held. -/
theorem balanced_iff (l : AsRunLog) : l.Balanced ↔ l.appended.toNat = l.fetched.toNat + l.overwritten.toNat + l.records.length ∧
    l.records.length ≤ 4096 ∧ ∀ i n, (l.records.map AsRunRecord.seq)[i]? = some n → n = (l.appended.toNat - l.records.length + i) % 2 ^ 32 := by
  refine and_congr_right fun _ => and_congr_right fun _ => ⟨fun seqs i n here => ?_, fun seqs i x here => ?_⟩
  · rw [List.getElem?_map] at here
    obtain ⟨x, held, rfl⟩ := Option.map_eq_some_iff.1 here
    exact seqs i x held
  · refine seqs i x.seq ?_
    rw [List.getElem?_map, here]
    rfl

/-- A log with the same sequences balances as well. -/
theorem AsRunLog.Balanced.of_seqs {l m : AsRunLog} (inv : l.Balanced) (appended : m.appended = l.appended) (fetched : m.fetched = l.fetched)
    (overwritten : m.overwritten = l.overwritten) (seqs : m.records.map AsRunRecord.seq = l.records.map AsRunRecord.seq) : m.Balanced := by
  have length : m.records.length = l.records.length := by
    rw [← List.length_map AsRunRecord.seq, seqs, List.length_map]
  rw [balanced_iff] at inv ⊢
  rw [appended, fetched, overwritten, seqs, length]
  exact inv

theorem toNat_succ {n : BitVec 48} (small : n.toNat + 1 < 2 ^ 48) : (n + 1).toNat = n.toNat + 1 := by
  rw [BitVec.toNat_add]
  exact Nat.mod_eq_of_lt small

theorem length_room {l : AsRunLog} : l.room.length = min l.records.length 4095 ∨ 4096 < l.records.length := by
  unfold AsRunLog.room
  split
  · left
    omega
  · rw [List.length_drop]
    omega

theorem balanced_append {l : AsRunLog} (inv : l.Balanced) (small : l.appended.toNat + 1 < 2 ^ 48) (b : AsRunBody) : (l.append b).Balanced := by
  obtain ⟨total, held, seqs⟩ := inv
  rw [append_eq]
  unfold AsRunLog.room
  by_cases short : l.records.length < 4096
  · rw [if_pos short, if_pos short]
    refine ⟨?_, ?_, fun i x here => ?_⟩
    all_goals
      dsimp only at *
      rw [List.length_append, List.length_singleton]
    · rw [toNat_succ small]
      omega
    · omega
    · rw [toNat_succ small, Nat.add_sub_add_right]
      rcases Nat.lt_trichotomy i l.records.length with before | here' | behind
      · rw [List.getElem?_append_left before] at here
        exact seqs i x here
      · rw [here', List.getElem?_append_right (Nat.le_refl _), Nat.sub_self] at here
        cases here
        dsimp only
        congr 1
        omega
      · rw [List.getElem?_append_right (by omega), List.getElem?_eq_none (by rw [List.length_singleton]; omega)] at here
        cases here
  · have full : l.records.length = 4096 := by omega
    have small' : l.overwritten.toNat + 1 < 2 ^ 48 := by omega
    rw [if_neg short, if_neg short]
    refine ⟨?_, ?_, fun i x here => ?_⟩
    all_goals
      dsimp only at *
      rw [List.length_append, List.length_singleton, List.length_drop]
    · rw [toNat_succ small, toNat_succ small']
      omega
    · omega
    · rw [toNat_succ small]
      rcases Nat.lt_trichotomy i 4095 with before | rfl | behind
      · rw [List.getElem?_append_left (by rw [List.length_drop]; omega), List.getElem?_drop] at here
        rw [seqs _ x here]
        congr 1
        omega
      · rw [List.getElem?_append_right (by rw [List.length_drop]; omega), List.length_drop, full] at here
        cases here
        dsimp only
        congr 1
        omega
      · rw [List.getElem?_append_right (by rw [List.length_drop]; omega), List.getElem?_eq_none (by
          rw [List.length_singleton, List.length_drop]; omega)] at here
        cases here

theorem fetch_balanced {l : AsRunLog} (inv : l.Balanced) (n : Nat) : (l.fetch n).Balanced ∧ (l.fetch n).records = l.records.drop n := by
  obtain ⟨total, held, seqs⟩ := inv
  have dropped : l.records.drop (min n l.records.length) = l.records.drop n := by
    by_cases within : n ≤ l.records.length
    · rw [Nat.min_eq_left within]
    · rw [Nat.min_eq_right (by omega), List.drop_length, List.drop_eq_nil_of_le (by omega)]
  have bound := l.appended.isLt
  refine ⟨⟨?_, ?_, fun i x here => ?_⟩, dropped⟩
  all_goals
    unfold AsRunLog.fetch at *
    dsimp only at *
    rw [List.length_drop]
  · rw [BitVec.toNat_add, BitVec.toNat_ofNat, Nat.add_mod_mod, Nat.mod_eq_of_lt (by omega)]
    omega
  · omega
  · rw [List.getElem?_drop] at here
    rw [seqs _ x here]
    congr 1
    have := (List.getElem?_eq_some_iff.1 here).1
    omega

/-! ## An ITEM record among the last of its sample (log 59) -/

theorem insertItem_spec (x : ItemRecord) (l : List AsRunBody) : ∃ a b, l = a ++ b ∧ insertItem x l = a ++ .item x :: b ∧
    (∀ y ∈ a, x.precedes y = false) ∧ ∀ y, b.head? = some y → x.precedes y = true := by
  induction l with
  | nil => exact ⟨[], [], rfl, rfl, nofun, nofun⟩
  | cons y l ih =>
    unfold insertItem
    split
    · rename_i before
      refine ⟨[], y :: l, rfl, rfl, nofun, fun z first => ?_⟩
      cases first
      exact before
    · rename_i behind
      obtain ⟨a, b, whole, inserted, passed, next⟩ := ih
      refine ⟨y :: a, b, by rw [whole]; rfl, by rw [inserted]; rfl, fun z inside => ?_, next⟩
      rcases List.mem_cons.1 inside with rfl | inside
      · exact Bool.not_eq_true _ ▸ behind
      · exact passed z inside

theorem precedes_iff (x : ItemRecord) (y : AsRunBody) :
    x.precedes y = true ↔ ∃ z, y = .item z ∧ z.region = x.region ∧ z.breakId = x.breakId ∧ x.run < z.run := by
  unfold ItemRecord.precedes
  cases y with
  | item z => simp [and_assoc]
  | brk z => simp

/-- The bodies and the sequences of the log with an ITEM record put among its last ones. -/
theorem insert_records (l : AsRunLog) (n : Nat) (x : ItemRecord) :
    (l.insert n x).records.map AsRunRecord.seq = (l.append (.item x)).records.map AsRunRecord.seq ∧
    (l.insert n x).records.map AsRunRecord.body =
      (l.room.map AsRunRecord.body).take (l.room.length - n) ++ insertItem x ((l.room.map AsRunRecord.body).drop (l.room.length - n)) := by
  have within : l.room.length - n ≤ l.room.length := Nat.sub_le ..
  have length (xs : List AsRunBody) : (insertItem x xs).length = xs.length + 1 := by
    obtain ⟨a, b, whole, inserted, -, -⟩ := insertItem_spec x xs
    rw [inserted, whole, List.length_append, List.length_append, List.length_cons, Nat.add_assoc]
  unfold AsRunLog.insert
  rw [append_eq]
  dsimp only
  rw [List.length_append, List.length_singleton, Nat.add_sub_add_right, List.take_append_of_le_length within,
    List.drop_append_of_le_length within, List.dropLast_concat]
  have same : (l.room.drop (l.room.length - n) ++ [(⟨l.appended.toNat % 2 ^ 32, .item x⟩ : AsRunRecord)]).length =
      (insertItem x ((l.room.drop (l.room.length - n)).map AsRunRecord.body)).length := by
    rw [length, List.length_map, List.length_append, List.length_singleton]
  generalize l.room.length - n = k at within same ⊢
  constructor
  · rw [List.map_append, List.map_map]
    have seq : (AsRunRecord.seq ∘ fun y : AsRunRecord × AsRunBody => { y.1 with body := y.2 }) = AsRunRecord.seq ∘ Prod.fst := rfl
    rw [seq, ← List.map_map, List.map_fst_zip (Nat.le_of_eq same), ← List.map_append, ← List.append_assoc, List.take_append_drop]
  · rw [List.map_append, List.map_map]
    have body : (AsRunRecord.body ∘ fun y : AsRunRecord × AsRunBody => { y.1 with body := y.2 }) = Prod.snd := rfl
    rw [body, List.map_snd_zip (Nat.le_of_eq same.symm), List.map_take, List.map_drop]

theorem log_takeLog (p : Play) (t : Now) (l : AsRunLog) :
    (p.takeLog t l).log = { l with raised := l.raised || decide (l.records.length = 3072) } := by
  obtain ⟨records, appended, fetched, overwritten, raised⟩ := l
  unfold Play.takeLog
  cases raised with
  | true => rfl
  | false =>
    by_cases high : records.length = 3072
    · rw [if_pos (by simp [high])]
      simp [Play.raise, high]
    · rw [if_neg (by simp [high])]
      simp [high]

theorem logRaised_balanced {l : AsRunLog} (inv : l.Balanced) (raised : Bool) : ({ l with raised := raised } : AsRunLog).Balanced := inv

/-- The ITEM record of an open break, as O31 states it. -/
theorem appendItem_spec {p : Play} {r : Region} {b : OpenBreak} (t : Now) (x : ItemRecord) (inv : p.log.Balanced)
    (small : p.log.appended.toNat + 1 < 2 ^ 48) (isOpen : (p.region r).brk = some b) :
    let q := p.appendItem t r x
    let earlier := match b.logged with
      | some k => if k.count = t.count then (p.log.appended - k.first).toNat else 0
      | none => 0
    q.log.Balanced ∧ q.log.appended = p.log.appended + 1 ∧ q.log.fetched = p.log.fetched ∧
      ∃ front back, p.log.room.map AsRunRecord.body = front ++ back ∧
        q.log.records.map AsRunRecord.body = front ++ .item x :: back ∧ back.length ≤ earlier ∧
        (∀ y, back.head? = some y → ∃ z, y = .item z ∧ z.region = x.region ∧ z.breakId = x.breakId ∧ x.run < z.run) ∧
        ∀ y ∈ front.drop (p.log.room.length - earlier), ∀ z, y = .item z → z.region = x.region → z.breakId = x.breakId → z.run ≤ x.run := by
  intro q earlier
  have noted : (p.log.appended - (b.noteAppend t p.log).first).toNat = earlier := by
    unfold OpenBreak.noteAppend
    show _ = match b.logged with
      | some k => if k.count = t.count then (p.log.appended - k.first).toNat else 0
      | none => 0
    have here : (p.log.appended - p.log.appended).toNat = 0 := by rw [BitVec.sub_self]; rfl
    cases b.logged with
    | none => exact here
    | some k =>
      dsimp only
      split
      · rfl
      · exact here
  have log : q.log = { p.log.insert earlier x with
      raised := (p.log.insert earlier x).raised || decide ((p.log.insert earlier x).records.length = 3072) } := by
    show (p.withBreak r _).log = _
    unfold Play.withBreak
    rw [isOpen]
    dsimp only
    rw [noted]
    exact log_takeLog p t _
  obtain ⟨seqs, bodies⟩ := insert_records p.log earlier x
  obtain ⟨a, c, whole, inserted, passed, next⟩ := insertItem_spec x ((p.log.room.map AsRunRecord.body).drop (p.log.room.length - earlier))
  have parts : (p.log.insert earlier x).appended = p.log.appended + 1 ∧ (p.log.insert earlier x).fetched = p.log.fetched ∧
      (p.log.insert earlier x).overwritten = (p.log.append (.item x)).overwritten := by
    unfold AsRunLog.insert
    rw [append_eq]
    exact ⟨rfl, rfl, rfl⟩
  obtain ⟨appended, fetched, overwritten⟩ := parts
  have balanced : (p.log.insert earlier x).Balanced := by
    refine (balanced_append inv small (.item x)).of_seqs ?_ ?_ overwritten seqs
    · rw [appended, append_eq]
    · rw [fetched, append_eq]
  rw [log]
  refine ⟨logRaised_balanced balanced _, appended, fetched, (p.log.room.map AsRunRecord.body).take (p.log.room.length - earlier) ++ a, c, ?_,
    ?_, ?_, fun y first => (precedes_iff x y).1 (next y first), fun y inside z isItem region breakId => ?_⟩
  · rw [List.append_assoc, ← whole, List.take_append_drop]
  · rw [List.append_assoc, ← inserted]
    exact bodies
  · have length := congrArg List.length whole
    rw [List.length_drop, List.length_map, List.length_append] at length
    omega
  · have start : ((p.log.room.map AsRunRecord.body).take (p.log.room.length - earlier)).length = p.log.room.length - earlier := by
      rw [List.length_take, List.length_map]
      omega
    rw [List.drop_append_of_le_length (Nat.le_of_eq start.symm), List.drop_eq_nil_of_le (Nat.le_of_eq start), List.nil_append] at inside
    by_contra above
    have before := (precedes_iff x y).2 ⟨z, isItem, region, breakId, Nat.lt_of_not_le above⟩
    rw [passed y inside] at before
    cases before

/-! ## The place of a notice (R172) -/

/-- An entry that a notice raised at a count is placed before. -/
def QueueEntry.Behind (n : Notice) (count : Nat) (y : QueueEntry) : Prop := ∃ m, y.payload = .notice m ∧ y.stamp = count ∧ n.before m = true

theorem insertNotice_spec (e : QueueEntry) (n : Notice) (l : List QueueEntry) : ∃ a b, l = a ++ b ∧ insertNotice e n l = a ++ e :: b ∧
    (∀ z ∈ a, z.Behind n e.stamp) ∧ ∀ z, b.head? = some z → ¬ z.Behind n e.stamp := by
  induction l with
  | nil => exact ⟨[], [], rfl, rfl, fun z inside => absurd inside List.not_mem_nil, fun z first => by cases first⟩
  | cons x l ih =>
    have stops (not : ¬ x.Behind n e.stamp) : ∃ a b, x :: l = a ++ b ∧ e :: x :: l = a ++ e :: b ∧
        (∀ z ∈ a, z.Behind n e.stamp) ∧ ∀ z, b.head? = some z → ¬ z.Behind n e.stamp := by
      refine ⟨[], x :: l, rfl, rfl, fun z inside => absurd inside List.not_mem_nil, fun z first => ?_⟩
      cases first
      exact not
    unfold insertNotice
    split
    · rename_i m payload
      split
      · rename_i before
        obtain ⟨a, b, whole, inserted, behind, next⟩ := ih
        refine ⟨x :: a, b, by rw [whole]; rfl, by rw [inserted]; rfl, fun z inside => ?_, next⟩
        rcases List.mem_cons.1 inside with rfl | inside
        · exact ⟨m, payload, before.1, before.2⟩
        · exact behind z inside
      · rename_i after
        refine stops fun ⟨m', payload', stamp, before⟩ => after ⟨stamp, ?_⟩
        rw [payload] at payload'
        cases payload'
        exact before
    · rename_i reply
      refine stops fun ⟨m', payload', _⟩ => ?_
      rw [reply] at payload'
      cases payload'

/-- The place of a notice in a queue read from its head. -/
theorem insertNotice_tail (e : QueueEntry) (n : Notice) (l : List QueueEntry) : ∃ x y, l = x ++ y ∧
    (insertNotice e n l.reverse).reverse = x ++ e :: y ∧ (∀ z ∈ y, z.Behind n e.stamp) ∧ ∀ z, x.getLast? = some z → ¬ z.Behind n e.stamp := by
  obtain ⟨a, b, whole, inserted, behind, next⟩ := insertNotice_spec e n l.reverse
  refine ⟨b.reverse, a.reverse, ?_, ?_, fun z inside => behind z (List.mem_reverse.1 inside), fun z last => next z ?_⟩
  · rw [← List.reverse_append, ← whole, List.reverse_reverse]
  · rw [inserted]
    simp
  · rw [← last, List.getLast?_reverse]

theorem place_full {a : Agent} (full : a.noticeRoom = false) (e : QueueEntry) (n : Notice) :
    ((∀ z, a.returns.getLast? = some z → ¬ z.Behind n e.stamp) → a.place e n = { a with noticesDropped := true }) ∧
    ∀ l z, a.returns = l ++ [z] → z.Behind n e.stamp →
      a.place e n = { a with returns := (insertNotice e n l.reverse).reverse, noticesDropped := true } := by
  unfold Agent.place
  rw [if_neg (by rw [full]; nofun)]
  refine ⟨fun not => ?_, fun l z returns ⟨m, payload, stamp, before⟩ => ?_⟩
  · split
    · rename_i x last
      split
      · rename_i m payload
        exact if_neg fun both => not x last ⟨m, payload, both.1, both.2⟩
      · rfl
    · rfl
  · rw [returns, List.getLast?_concat, List.dropLast_concat]
    dsimp only
    rw [payload]
    dsimp only
    rw [if_pos ⟨stamp, before⟩]

theorem before_iff (a b : Notice) :
    a.before b = true ↔ a.raiser ≠ b.raiser ∧ (a.code < b.code ∨ a.code = b.code ∧ a.regionKey < b.regionKey) := by
  simp [Notice.before]

theorem held_eq (a : Agent) : a.hand = match a.inHand with
    | some j => if j.broadcast = false then 1 else 0
    | none => 0 := by
  unfold Agent.hand
  cases a.inHand with
  | none => rfl
  | some j =>
    dsimp only
    cases j.broadcast <;> rfl

/-- Settles O31: appends, fetches and ITEM records by the sequences of the log, notices by the runs of the queue. -/
theorem asRunLogBalance : Obligations.AsRunLogBalance := by
  refine ⟨fun p t b inv small => ?_, fun l n inv => ?_, fun p t r b x inv small isOpen => appendItem_spec t x inv small isOpen,
    fun p t tag n => ?_, before_iff, fun s t inv stepped => (step_keeps stepped).queues inv⟩
  · have log : (p.appendRecord t b).log = _ := log_takeLog p t (p.log.append b)
    obtain ⟨raised, a, form⟩ := p.appendRecord_form t b
    have rest : (p.appendRecord t b).dir = p.dir ∧ (p.appendRecord t b).regions = p.regions ∧ (p.appendRecord t b).voices = p.voices := by
      rw [form]
      exact ⟨rfl, rfl, rfl⟩
    rw [log]
    refine ⟨logRaised_balanced (balanced_append inv small b) _, ?_⟩
    rw [append_eq]
    exact ⟨rfl, rfl, rfl, rfl, rfl, rest⟩
  · obtain ⟨balanced, records⟩ := fetch_balanced inv n
    exact ⟨balanced, records, rfl, rfl⟩
  · intro e a behind held room
    have roomy : a.noticeRoom = true ↔ room := by
      rw [noticeRoom_iff, held_eq] <;> exact Iff.rfl
    refine ⟨fun isRoom => ?_, fun noRoom not => ?_, fun noRoom l z returns isBehind => ?_⟩
    · obtain ⟨x, y, whole, inserted, behind', last⟩ := insertNotice_tail e n a.returns
      refine ⟨x, y, whole, ?_, behind', last⟩
      show ({ p with agent := a.place e n } : Play) = _
      unfold Agent.place
      rw [if_pos (roomy.2 isRoom), inserted]
    · have full : a.noticeRoom = false := Bool.not_eq_true _ ▸ fun is => noRoom (roomy.1 is)
      show ({ p with agent := a.place e n } : Play) = _
      rw [(place_full full e n).1 not]
    · have full : a.noticeRoom = false := Bool.not_eq_true _ ▸ fun is => noRoom (roomy.1 is)
      obtain ⟨x, y, whole, inserted, behind', last⟩ := insertNotice_tail e n l
      refine ⟨x, y, whole, ?_, behind', last⟩
      show ({ p with agent := a.place e n } : Play) = _
      rw [(place_full full e n).2 l z returns isBehind, inserted]

end Sys2Proof.Machine

/-! # Commit Page and Erase Block (O55) -/

namespace Sys2Proof.Machine

/-! ## The tests of Commit Page (R123) -/

/-- The header that a commit of a page would register. -/
def State.headHeader (s : State) (page : Nat) : HeaderRead := if page % 64 = 0 then s.store.stagedHeader else .noMagic

theorem overlaps_eq (d : Directory) (block extent : Nat) : (!extentFits block extent || d.meets block extent) =
    (decide (32768 < block + extent) || d.entries.any fun e =>
      decide (e.firstBlock < block + extent) && decide (block < e.firstBlock + e.extent)) := by
  have fits : (!extentFits block extent) = decide (32768 < block + extent) := by
    unfold extentFits
    rw [← decide_not]
    exact decide_eq_decide.2 Nat.not_le
  rw [fits]
  rfl

/-- The tests of a head page, in place among the others. -/
theorem headTests_eq (s : State) (page : Nat) (rest : List (Bool × Code)) : firstRefusal (s.headTests page ++ rest) = firstRefusal (
    (decide (s.headHeader page = .malformed), Code.badHeader) ::
    ((match s.headHeader page with | .header clip _ => (s.play.dir.find clip).isSome | _ => false), .duplicateClip) ::
    ((match s.headHeader page with
      | .header _ h => decide (32768 < page / 64 + h.extent) || s.play.dir.entries.any fun e =>
        decide (e.firstBlock < page / 64 + h.extent) && decide (page / 64 < e.firstBlock + e.extent)
      | _ => false), .overlap) :: rest) := by
  have pages : Config.pagesPerBlock = 64 := rfl
  unfold State.headTests State.headHeader
  rw [pages]
  by_cases head : page % 64 = 0
  · rw [if_pos head, if_pos head]
    cases s.store.stagedHeader with
    | noMagic => rfl
    | malformed => rfl
    | header clip h =>
      dsimp only
      rw [overlaps_eq]
      rfl
  · rw [if_neg head, if_neg head]
    rfl

theorem headNote_eq (s : State) (page : Nat) :
    s.headNote page = match s.headHeader page with | .header clip h => some (clip, h.extent) | _ => none := by
  have pages : Config.pagesPerBlock = 64 := rfl
  unfold State.headNote State.headHeader
  rw [pages]
  split
  · rfl
  · rfl

theorem firstRefusal_congr (x : Bool × Code) {l l' : List (Bool × Code)} (same : firstRefusal l = firstRefusal l') :
    firstRefusal (x :: l) = firstRefusal (x :: l') := by
  unfold firstRefusal
  rw [same]

theorem commitTests_eq (s : State) (page : Nat) : firstRefusal (s.commitTests page) = firstRefusal [
    (s.store.holds.isSome, Code.stagingBusy), (decide (2097151 < page), .badArgument),
    (decide (page / 64 < s.store.pStar), .protectedBlock), (s.settings.worn.contains (page / 64), .worn),
    (s.play.dir.entries.any (fun e => e.covers (page / 64)), .clipPresent),
    (decide (s.headHeader page = .malformed), .badHeader),
    ((match s.headHeader page with | .header clip _ => (s.play.dir.find clip).isSome | _ => false), .duplicateClip),
    ((match s.headHeader page with
      | .header _ h => decide (32768 < page / 64 + h.extent) || s.play.dir.entries.any fun e =>
        decide (e.firstBlock < page / 64 + h.extent) && decide (page / 64 < e.firstBlock + e.extent)
      | _ => false), .overlap),
    (decide (8 ≤ s.store.queue.length), .storeFull)] := by
  unfold State.commitTests
  rw [List.append_assoc]
  exact firstRefusal_congr _ (firstRefusal_congr _ (firstRefusal_congr _ (firstRefusal_congr _ (firstRefusal_congr _
    (headTests_eq s page _)))))

theorem exec_commitPage {s : State} {m : Message} {rest : List Message} (takes : Takes s 0x52 m rest) (complete : s.play.dir.state = .complete)
    (unlocked : s.store.unlocked = true) (page : Nat) : exec (.commitPage (some page)) s = .next (match firstRefusal (s.commitTests page) with
      | some code => { s.answered m rest code .none with store := { s.store with unlocked := false } }
      | none => { s.answered m rest .accepted .none with store := { s.store with
          unlocked := false, holds := some page, queue := s.store.queue ++ [.commit page m.tag (s.headNote page)] } }) := by
  refine congrArg Host.Outcome.next ?_
  cases tests : firstRefusal (s.commitTests page) with
  | some code => exact storeRequest_tested takes page complete unlocked tests
  | none => exact (storeRequest_accepted takes page complete unlocked tests rfl (by rfl) (by rfl)).trans rfl

/-! ## Erase Block (R112, R125) -/

/-- A clip out of the Verify Unit (R112, R139). -/
theorem cancelVerify_spec (s : State) (clip : Nat) :
    let t := s.cancelVerify clip
    t.store = s.store ∧ t.play.dir.entries = s.play.dir.entries ∧ t.play.dir.queue = s.play.dir.queue.filter (fun q => q.1 != clip) ∧
      (∀ j, t.verify = some j → j.clip ≠ clip) ∧ t.flash = s.flash ∧ t.settings = s.settings ∧ t.play.agent = s.play.agent ∧
      t.play.regions = s.play.regions ∧ t.link = s.link := by
  unfold State.cancelVerify
  dsimp only
  split
  · rename_i j job
    split
    · exact ⟨rfl, rfl, rfl, nofun, rfl, rfl, rfl, rfl, rfl⟩
    · rename_i other
      refine ⟨rfl, rfl, rfl, fun k is => ?_, rfl, rfl, rfl, rfl, rfl⟩
      have same : j = k := Option.some.inj (job.symm.trans is)
      rw [← same]
      exact fun clip => other (beq_iff_eq.2 clip)
  · rename_i job
    rw [if_neg nofun]
    exact ⟨rfl, rfl, rfl, fun j is => absurd (job.symm.trans is) (Option.some_ne_none j).symm, rfl, rfl, rfl, rfl, rfl⟩

/-- A clip retired: its entry RETIRING, and out of the Verify Unit. -/
theorem retire_spec {s : State} {block : Nat} {e : DirEntry} (first : s.play.dir.ofFirstBlock block = some e) :
    let t := s.retire block
    t.store = s.store ∧ t.play.dir.entries = s.play.dir.entries.map (fun x => if x.clip = e.clip then { x with state := .retiring } else x) ∧
      t.play.dir.queue = s.play.dir.queue.filter (fun q => q.1 != e.clip) ∧ (∀ j, t.verify = some j → j.clip ≠ e.clip) ∧
      t.flash = s.flash ∧ t.settings = s.settings ∧ t.play.agent = s.play.agent ∧ t.play.regions = s.play.regions ∧ t.link = s.link := by
  unfold State.retire
  rw [first]
  exact cancelVerify_spec (s.modDir fun d => d.modify e.clip fun x => { x with state := .retiring }) e.clip

section
variable {s : State} {m : Message} {rest : List Message} (takes : Takes s 0x53 m rest) (complete : s.play.dir.state = .complete)
  (unlocked : s.store.unlocked = true) {block : Nat}
include takes complete unlocked

theorem eraseBlock_refused {code : Code} (refused : firstRefusal (s.eraseTests block) = some code) :
    exec (.eraseBlock (some block)) s = .next { s.answered m rest code .none with store := { s.store with unlocked := false } } :=
  congrArg Host.Outcome.next (storeRequest_tested takes block complete unlocked refused)

theorem eraseBlock_accepted (passed : firstRefusal (s.eraseTests block) = none) : ∃ u, exec (.eraseBlock (some block)) s = .next u ∧
    u = { ((s.took m rest).lock.enqueue (.erase block m.tag)).retire block with
      play := { (((s.took m rest).lock.enqueue (.erase block m.tag)).retire block).play with agent := s.agentAfter m rest .accepted .none } } := by
  have rested : (((s.took m rest).lock.enqueue (.erase block m.tag)).retire block).play.agent = (s.took m rest).play.agent ∧
      (((s.took m rest).lock.enqueue (.erase block m.tag)).retire block).link = s.link := by
    cases first : s.play.dir.ofFirstBlock block with
    | none =>
      have stays : ((s.took m rest).lock.enqueue (.erase block m.tag)).retire block = (s.took m rest).lock.enqueue (.erase block m.tag) := by
        unfold State.retire
        rw [show ((s.took m rest).lock.enqueue (.erase block m.tag)).play.dir.ofFirstBlock block = none from first]
      rw [stays]
      exact ⟨rfl, rfl⟩
    | some e =>
      obtain ⟨-, -, -, -, -, -, agent, -, link⟩ := retire_spec (s := (s.took m rest).lock.enqueue (.erase block m.tag)) first
      exact ⟨agent, link⟩
  exact ⟨_, congrArg Host.Outcome.next (storeRequest_accepted takes block complete unlocked passed rfl rested.1 rested.2), rfl⟩

end

/-- Settles O55: the tests of each request in their order, what is queued, and the directory as every command keeps it. -/
theorem commitAndEraseQueued : Obligations.CommitAndEraseQueued := by
  refine ⟨fun s m rest page takes complete unlocked => ?_, fun s m rest block takes complete unlocked => ?_,
    fun s t inv stepped => (step_keeps stepped).dir inv⟩
  · intro block header tests
    rw [exec_commitPage takes complete unlocked, commitTests_eq, headNote_eq]
    rfl
  · intro first tests queued
    have same : firstRefusal (s.eraseTests block) = firstRefusal tests := rfl
    refine ⟨fun code refused => eraseBlock_refused takes complete unlocked (same.trans refused), fun passed unknown => ?_,
      fun e passed known => ?_⟩
    · obtain ⟨u, reached, is⟩ := eraseBlock_accepted takes complete unlocked (same.trans passed)
      have stays : ((s.took m rest).lock.enqueue (.erase block m.tag)).retire block = (s.took m rest).lock.enqueue (.erase block m.tag) := by
        unfold State.retire
        rw [show ((s.took m rest).lock.enqueue (.erase block m.tag)).play.dir.ofFirstBlock block = none from unknown]
      rw [reached, is, stays]
      rfl
    · obtain ⟨u, reached, is⟩ := eraseBlock_accepted takes complete unlocked (same.trans passed)
      obtain ⟨store, entries, queue, verify, flash, settings, -, regions, link⟩ :=
        retire_spec (s := (s.took m rest).lock.enqueue (.erase block m.tag)) known
      refine ⟨u, reached, ?_⟩
      rw [is]
      exact ⟨store, entries, queue, verify, flash, settings, rfl, regions, link⟩

end Sys2Proof.Machine

/-! # The mix of one sample (O30) -/

namespace Sys2Proof.Machine

/-! ## Levels and sums (R80, R83, R84) -/

theorem effectiveLevel_eq (r f : Nat) (t : Int) :
    (effectiveLevel r f t : Int) = if r = 0 ∨ f = 0 then 0 else max 0 (min 255 ((r : Int) + f + t - 231)) := by
  unfold effectiveLevel
  split
  · rfl
  · rw [Int.toNat_of_nonneg (by omega)]
    omega

theorem clamp24_eq (z : Int) : clamp24 z = max (-8388608) (min 8388607 z) := by
  unfold clamp24
  split
  · omega
  · split <;> omega

theorem clampActs_iff (z : Int) : clampActs z = true ↔ clamp24 z ≠ z := by
  unfold clampActs clamp24
  rw [Bool.or_eq_true, decide_eq_true_iff, decide_eq_true_iff]
  split
  · omega
  · split <;> omega

/-- The terms of the voices that play, summed on from what stands. -/
theorem sums_fold (p : Play) (gs : Vector GroupRec 8) (vs : List VoiceNo) (acc : Int × Int) :
    vs.foldl (fun acc v => if (p.voice v).state == .playing then addTerm acc (p.voice v).hands.1 ((p.voice v).level gs) else acc) acc =
      (acc.1 + (((vs.filter fun v => (p.voice v).state == .playing).map fun v =>
          ((p.voice v).hands.1, (p.voice v).level gs)).map fun y => contribution y.1.1 y.2).sum,
        acc.2 + (((vs.filter fun v => (p.voice v).state == .playing).map fun v =>
          ((p.voice v).hands.1, (p.voice v).level gs)).map fun y => contribution y.1.2 y.2).sum) := by
  induction vs generalizing acc with
  | nil => simp
  | cons v vs ih =>
    rw [List.foldl_cons, ih]
    by_cases plays : ((p.voice v).state == .playing) = true
    · rw [if_pos plays, List.filter_cons, if_pos plays]
      simp only [addTerm, List.map_cons, List.sum_cons, Int.add_assoc]
    · rw [if_neg plays, List.filter_cons, if_neg plays]

theorem sums_eq (p : Play) (gs : Vector GroupRec 8) (r : Region) (bed : Int × Int) :
    let terms := (bed, (p.region r).bed.level) :: ((p.voicesOf r).filter fun v => (p.voice v).state == .playing).map fun v =>
      ((p.voice v).hands.1, (p.voice v).level gs)
    p.sums gs r bed = ((terms.map fun y => contribution y.1.1 y.2).sum, (terms.map fun y => contribution y.1.2 y.2).sum) := by
  intro terms
  refine (sums_fold p gs _ _).trans ?_
  simp only [addTerm, Int.zero_add]
  rfl

/-! ## What a voice hands (R61, R63, R79) -/

theorem hands_ring {v : Voice} {pg : RingPage} {rest : List RingPage} (ring : v.ring = pg :: rest) :
    v.hands = if pg.ref.owner = .current ∧ pg.ref.index = v.pos / v.format.samplesPerPage then
      (if pg.failed = true then ((0, 0), false, true) else (pg.image.sample v.format v.pos, false, false))
    else ((0, 0), true, false) := by
  have index : pageIndex v.format v.pos = v.pos / v.format.samplesPerPage := rfl
  unfold Voice.hands Voice.pageNow
  rw [ring, List.head?_cons, index]
  by_cases here : pg.ref.owner = .current ∧ pg.ref.index = v.pos / v.format.samplesPerPage
  · simp only [if_pos here]
  · simp only [if_neg here]

theorem hands_empty {v : Voice} (ring : v.ring = []) : v.hands = ((0, 0), true, false) := by
  unfold Voice.hands Voice.pageNow
  rw [ring]
  rfl

/-- A number of two's complement from its bit pattern. -/
theorem toInt_eq_asSigned {n : Nat} (x : BitVec (n + 1)) : x.toInt = asSigned (n + 1) x.toNat := by
  unfold asSigned
  rw [BitVec.toInt_eq_toNat_cond, Nat.add_sub_cancel]
  refine if_congr ?_ rfl rfl
  rw [Nat.pow_succ]
  omega

theorem toNat_append_byte {n : Nat} (x : BitVec n) (b : Byte) : (x ++ b).toNat = b.toNat + 256 * x.toNat := by
  rw [BitVec.toNat_append, ← Nat.shiftLeft_add_eq_or_of_lt b.isLt, Nat.shiftLeft_eq]
  omega

theorem asSigned_two (p : PageImage) (off : Nat) : asSigned 16 (leNat (p.bytes off 2)) = (p.byte (off + 1) ++ p.byte off).toInt := by
  have spelled : leNat (p.bytes off 2) = (p.byte (off + 1) ++ p.byte off).toNat := by
    rw [toNat_append_byte]
    rfl
  rw [spelled]
  exact (toInt_eq_asSigned (n := 15) (p.byte (off + 1) ++ p.byte off)).symm

theorem asSigned_three (p : PageImage) (off : Nat) :
    asSigned 24 (leNat (p.bytes off 3)) = (p.byte (off + 2) ++ p.byte (off + 1) ++ p.byte off).toInt := by
  have spelled : leNat (p.bytes off 3) = (p.byte (off + 2) ++ p.byte (off + 1) ++ p.byte off).toNat := by
    rw [toNat_append_byte, toNat_append_byte]
    rfl
  rw [spelled]
  exact (toInt_eq_asSigned (n := 23) (p.byte (off + 2) ++ p.byte (off + 1) ++ p.byte off)).symm

theorem sample_eq (image : PageImage) (pos : Nat) :
    let at16 := fun i => (image.byte (i + 1) ++ image.byte i).toInt * 256
    let at24 := fun i => (image.byte (i + 2) ++ image.byte (i + 1) ++ image.byte i).toInt
    image.sample .m16 pos = (at16 (pos % 2048 * 2), at16 (pos % 2048 * 2)) ∧
    image.sample .s16 pos = (at16 (pos % 1024 * 4), at16 (pos % 1024 * 4 + 2)) ∧
    image.sample .s24 pos = (at24 (pos % 512 * 8), at24 (pos % 512 * 8 + 4)) := by
  intro at16 at24
  have two (off : Nat) : asSigned 16 (leNat (image.bytes off 2)) * 256 = at16 off := congrArg (· * 256) (asSigned_two image off)
  have three (off : Nat) : asSigned 24 (leNat (image.bytes off 3)) = at24 off := asSigned_three image off
  rw [← two, ← two, ← two, ← three, ← three]
  exact ⟨rfl, rfl, rfl⟩

/-! ## One voice plays one sample (R63, R72) -/

theorem played_form (v : Voice) : ∃ ring q, ring <:+ v.ring ∧ v.played = { v with
    fader := v.fader.advance, pos := v.pos + 1, underrun := v.underrun || v.hands.2.1, dropout := v.dropout || v.hands.2.2
    reported := v.reported || v.hands.2.2, ring := ring, pending := q } := by
  unfold Voice.played
  dsimp only
  obtain ⟨q, refilled⟩ := Voice.refill_form (({ v with
    fader := v.fader.advance, pos := v.pos + 1, underrun := v.underrun || v.hands.2.1, dropout := v.dropout || v.hands.2.2
    reported := v.reported || v.hands.2.2 } : Voice).dropBehind)
  rw [refilled]
  exact ⟨_, q, List.dropWhile_suffix _, rfl⟩

/-- A break when a voice of its region has played a sample: the entry that it plays counts it. -/
def OpenBreak.counted (b : OpenBreak) (x : Voice) : OpenBreak :=
  if x.state = .playing then match x.run with
    | some i => { b with run := modEntry b.run i fun e => e.countSample x.hands.2.2 x.hands.2.1 }
    | none => b
  else b

/-- A voice plays a failed page that it has not reported. -/
def Voice.Fails (x : Voice) : Prop := x.state = .playing ∧ x.hands.2.2 = true ∧ x.reported = false

theorem reportFault_rest (p : Play) (t : Now) (clip : Nat) : (p.reportFault t clip).regions = p.regions ∧
    (p.reportFault t clip).voices = p.voices ∧ (p.reportFault t clip).log = p.log ∧ (p.reportFault t clip).gates = p.gates := by
  obtain ⟨dir, agent, form⟩ := reportFault_form p t clip
  rw [form]
  exact ⟨rfl, rfl, rfl, rfl⟩

/-- What a report leaves of the directory and the agent depends on these alone. -/
theorem reportFault_same {p q : Play} (dir : q.dir = p.dir) (agent : q.agent = p.agent) (t : Now) (clip : Nat) :
    (q.reportFault t clip).dir = (p.reportFault t clip).dir ∧ (q.reportFault t clip).agent = (p.reportFault t clip).agent := by
  unfold Play.reportFault
  rw [dir]
  split
  · exact ⟨dir, agent⟩
  · dsimp only
    split
    · refine ⟨rfl, ?_⟩
      unfold Play.raise
      dsimp only
      rw [agent]
    · exact ⟨rfl, agent⟩

/-- A voice that has played its sample, before its fault is reported. -/
def Play.playedOn (p : Play) (r : Region) (v : VoiceNo) : Play :=
  (p.modVoice v Voice.played).modRegion r fun x => { x with brk := x.brk.map fun b => b.counted (p.voice v) }

theorem playVoice_still {p : Play} {v : VoiceNo} (still : (p.voice v).state ≠ .playing) (t : Now) (r : Region) : p.playVoice t r v = p := by
  unfold Play.playVoice
  dsimp only
  rw [if_neg (by rw [beq_iff_eq]; exact still)]

theorem playVoice_playing {p : Play} {v : VoiceNo} (playing : (p.voice v).state = .playing) (t : Now) (r : Region) :
    p.playVoice t r v = if (p.voice v).hands.2.2 && !(p.voice v).reported then match (p.voice v).clip with
      | some clip => (p.playedOn r v).reportFault t clip
      | none => p.playedOn r v
    else p.playedOn r v := by
  have counted : (match (p.voice v).run with
      | some i => (p.modVoice v Voice.played).modBreak r fun b =>
        { b with run := modEntry b.run i fun e => e.countSample (p.voice v).hands.2.2 (p.voice v).hands.2.1 }
      | none => p.modVoice v Voice.played) = p.playedOn r v := by
    unfold Play.playedOn
    cases run : (p.voice v).run with
    | some i =>
      have own (b : OpenBreak) : b.counted (p.voice v) =
          { b with run := modEntry b.run i fun e => e.countSample (p.voice v).hands.2.2 (p.voice v).hands.2.1 } := by
        simp only [OpenBreak.counted, if_pos playing, run]
      simp only [own]
      rfl
    | none =>
      have own (b : OpenBreak) : b.counted (p.voice v) = b := by simp only [OpenBreak.counted, if_pos playing, run]
      simp only [own, Option.map_id']
      exact (Play.setRegion_same _ r).symm
  rw [← counted]
  unfold Play.playVoice
  dsimp only
  refine (if_pos (beq_iff_eq.2 playing)).trans ?_
  cases (p.voice v).clip <;> cases (p.voice v).run <;> rfl

theorem playVoice_cases (p : Play) (t : Now) (r : Region) (v : VoiceNo) :
    ((p.voice v).state ≠ .playing ∧ p.playVoice t r v = p) ∨
    (p.voice v).state = .playing ∧ ((¬ (p.voice v).Fails ∧ p.playVoice t r v = p.playedOn r v) ∨ (p.voice v).Fails ∧
      (p.playVoice t r v = p.playedOn r v ∧ (p.voice v).clip = none ∨
        ∃ clip, (p.voice v).clip = some clip ∧ p.playVoice t r v = (p.playedOn r v).reportFault t clip)) := by
  by_cases playing : (p.voice v).state = .playing
  · refine .inr ⟨playing, ?_⟩
    rw [playVoice_playing playing]
    split
    · rename_i fails
      obtain ⟨failed, fresh⟩ := Bool.and_eq_true_iff.1 fails
      refine .inr ⟨⟨playing, failed, Bool.not_eq_true' _ ▸ fresh⟩, ?_⟩
      cases (p.voice v).clip with
      | none => exact .inl ⟨rfl, rfl⟩
      | some clip => exact .inr ⟨clip, rfl, rfl⟩
    · rename_i fine
      refine .inl ⟨?_, rfl⟩
      rintro ⟨-, failed, fresh⟩
      rw [failed, fresh] at fine
      exact fine rfl
  · exact .inl ⟨playing, playVoice_still playing t r⟩

/-- What one voice's sample leaves of the voices, the regions, the log and the gates. -/
theorem playVoice_frame (p : Play) (t : Now) (r : Region) (v : VoiceNo) :
    (∀ u, (p.playVoice t r v).voice u = if v = u ∧ (p.voice v).state = .playing then (p.voice v).played else p.voice u) ∧
    (∀ y, (p.playVoice t r v).region y =
      if r = y then { p.region r with brk := (p.region r).brk.map fun b => b.counted (p.voice v) } else p.region y) ∧
    (p.playVoice t r v).log = p.log ∧ (p.playVoice t r v).gates = p.gates := by
  have played (playing : (p.voice v).state = .playing) :
      (∀ u, (p.playedOn r v).voice u = if v = u ∧ (p.voice v).state = .playing then (p.voice v).played else p.voice u) ∧
      (∀ y, (p.playedOn r v).region y =
        if r = y then { p.region r with brk := (p.region r).brk.map fun b => b.counted (p.voice v) } else p.region y) ∧
      (p.playedOn r v).log = p.log ∧ (p.playedOn r v).gates = p.gates := by
    refine ⟨fun u => ?_, fun y => ?_, rfl, rfl⟩
    · have voice : (p.playedOn r v).voice u = (p.modVoice v Voice.played).voice u := rfl
      rw [voice, Play.voice_modVoice]
      exact if_congr (by simp [playing]) rfl rfl
    · unfold Play.playedOn
      rw [Play.region_modRegion]
      rfl
  rcases playVoice_cases p t r v with ⟨still, same⟩ | ⟨playing, ⟨-, form⟩ | ⟨-, ⟨form, -⟩ | ⟨clip, -, form⟩⟩⟩
  · rw [same]
    refine ⟨fun u => (if_neg fun both => still both.2).symm, fun y => ?_, rfl, rfl⟩
    split
    · rename_i own
      subst own
      have same (b : OpenBreak) : b.counted (p.voice v) = b := if_neg still
      simp only [same, Option.map_id']
    · rfl
  · rw [form]
    exact played playing
  · rw [form]
    exact played playing
  · rw [form]
    obtain ⟨voices, regions, log, gates⟩ := played playing
    obtain ⟨regions', voices', log', gates'⟩ := reportFault_rest (p.playedOn r v) t clip
    refine ⟨fun u => ?_, fun y => ?_, log'.trans log, gates'.trans gates⟩
    · rw [← voices u]
      unfold Play.voice
      rw [voices']
    · rw [← regions y]
      unfold Play.region
      rw [regions']

/-! ## The voices of a region play (R63, R72) -/

theorem playVoices_frame (t : Now) (r : Region) (vs : List VoiceNo) (p : Play) :
    let u := vs.foldl (fun q v => q.playVoice t r v) p
    (∀ v, v ∉ vs ∨ (p.voice v).state ≠ .playing → u.voice v = p.voice v) ∧ (∀ y, r ≠ y → u.region y = p.region y) ∧
      (∃ f : OpenBreak → OpenBreak, u.region r = { p.region r with brk := (p.region r).brk.map f }) ∧ u.log = p.log ∧ u.gates = p.gates := by
  induction vs generalizing p with
  | nil =>
    refine ⟨fun _ _ => rfl, fun _ _ => rfl, ⟨id, ?_⟩, rfl, rfl⟩
    rw [Option.map_id]
    rfl
  | cons w vs ih =>
    obtain ⟨voices, regions, ⟨f, own⟩, log, gates⟩ := ih (p.playVoice t r w)
    obtain ⟨voices', regions', log', gates'⟩ := playVoice_frame p t r w
    refine ⟨fun v still => ?_, fun y other => ?_, ⟨f ∘ fun b => b.counted (p.voice w), ?_⟩, log.trans log', gates.trans gates'⟩
    · have here : (p.playVoice t r w).voice v = p.voice v := by
        rw [voices', if_neg]
        rintro ⟨rfl, playing⟩
        exact still.elim (fun out => out List.mem_cons_self) fun not => not playing
      refine (voices v (still.imp (fun out inside => out (List.mem_cons_of_mem _ inside)) fun not => ?_)).trans here
      rw [here]
      exact not
    · exact (regions y other).trans (by rw [regions', if_neg other])
    · rw [List.foldl_cons, own, regions', if_pos rfl]
      exact congrArg (fun x => ({ p.region r with brk := x } : RegionRec)) (Option.map_map _ _ _)

/-- The voices of a region, each once. -/
theorem playVoices_distinct (t : Now) (r : Region) {vs : List VoiceNo} (distinct : vs.Nodup) (p : Play) :
    let u := vs.foldl (fun q v => q.playVoice t r v) p
    (∀ v ∈ vs, (p.voice v).state = .playing → u.voice v = (p.voice v).played) ∧
      u.region r = { p.region r with brk := (p.region r).brk.map fun b => vs.foldl (fun b v => b.counted (p.voice v)) b } := by
  induction vs generalizing p with
  | nil =>
    refine ⟨nofun, ?_⟩
    show p.region r = { p.region r with brk := (p.region r).brk.map fun b => b }
    rw [Option.map_id']
  | cons w vs ih =>
    obtain ⟨out, distinct⟩ := List.nodup_cons.1 distinct
    obtain ⟨voices, regions, -, -⟩ := playVoice_frame p t r w
    obtain ⟨played, own⟩ := ih distinct (p.playVoice t r w)
    have others {v : VoiceNo} (inside : v ∈ vs) : (p.playVoice t r w).voice v = p.voice v := by
      rw [voices, if_neg]
      rintro ⟨rfl, -⟩
      exact out inside
    refine ⟨fun v inside playing => ?_, ?_⟩
    · rw [List.foldl_cons]
      rcases List.mem_cons.1 inside with rfl | inside
      · rw [(playVoices_frame t r vs (p.playVoice t r v)).1 v (.inl out), voices, if_pos ⟨rfl, playing⟩]
      · rw [played v inside (by rw [others inside]; exact playing), others inside]
    · rw [List.foldl_cons, own, regions, if_pos rfl, Option.map_map]
      have same (b : OpenBreak) : vs.foldl (fun b v => b.counted ((p.playVoice t r w).voice v)) b =
          vs.foldl (fun b v => b.counted (p.voice v)) b :=
        List.foldl_ext _ _ _ fun b v inside => by rw [others inside]
      have both : ((fun b => vs.foldl (fun b v => b.counted ((p.playVoice t r w).voice v)) b) ∘ fun b : OpenBreak => b.counted (p.voice w)) =
          fun b => (w :: vs).foldl (fun b v => b.counted (p.voice v)) b := funext fun b => same _
      rw [both]

/-- The reports of a region's voices: none where no voice fails, and one where one does. -/
theorem playVoices_reports (t : Now) (r : Region) {vs : List VoiceNo} (distinct : vs.Nodup) (p : Play) :
    let u := vs.foldl (fun q v => q.playVoice t r v) p
    ((∀ v ∈ vs, ¬ (p.voice v).Fails) → u.dir = p.dir ∧ u.agent = p.agent) ∧
    ∀ v ∈ vs, ∀ clip, (p.voice v).Fails → (p.voice v).clip = some clip → (∀ w ∈ vs, (p.voice w).Fails → w = v) →
      u.dir = (p.reportFault t clip).dir ∧ u.agent = (p.reportFault t clip).agent := by
  induction vs generalizing p with
  | nil => exact ⟨fun _ => ⟨rfl, rfl⟩, nofun⟩
  | cons w vs ih =>
    obtain ⟨out, distinct⟩ := List.nodup_cons.1 distinct
    obtain ⟨voices, -, -, -⟩ := playVoice_frame p t r w
    obtain ⟨calm, one⟩ := ih distinct (p.playVoice t r w)
    have others {v : VoiceNo} (inside : v ∈ vs) : (p.playVoice t r w).voice v = p.voice v := by
      rw [voices, if_neg]
      rintro ⟨rfl, -⟩
      exact out inside
    have fine (not : ¬ (p.voice w).Fails) : (p.playVoice t r w).dir = p.dir ∧ (p.playVoice t r w).agent = p.agent := by
      rcases playVoice_cases p t r w with ⟨-, same⟩ | ⟨-, ⟨-, form⟩ | ⟨fails, -⟩⟩
      · rw [same]
        exact ⟨rfl, rfl⟩
      · rw [form]
        exact ⟨rfl, rfl⟩
      · exact absurd fails not
    refine ⟨fun none => ?_, fun v inside clip fails isClip only => ?_⟩
    · obtain ⟨dir, agent⟩ := fine (none w List.mem_cons_self)
      obtain ⟨dir', agent'⟩ := calm fun v inside => by
        rw [others inside]
        exact none v (List.mem_cons_of_mem _ inside)
      exact ⟨dir'.trans dir, agent'.trans agent⟩
    · rcases List.mem_cons.1 inside with rfl | inside
      · have reported : (p.playVoice t r v).dir = (p.reportFault t clip).dir ∧ (p.playVoice t r v).agent = (p.reportFault t clip).agent := by
          rcases playVoice_cases p t r v with ⟨still, -⟩ | ⟨-, ⟨not, -⟩ | ⟨-, ⟨-, none⟩ | ⟨clip', isClip', form⟩⟩⟩
          · exact absurd fails.1 still
          · exact absurd fails not
          · rw [isClip] at none
            cases none
          · rw [isClip] at isClip'
            cases isClip'
            rw [form]
            exact reportFault_same (p := p) (q := p.playedOn r v) rfl rfl t clip
        obtain ⟨dir', agent'⟩ := calm fun u inside => by
          rw [others inside]
          intro fails'
          rw [only u (List.mem_cons_of_mem _ inside) fails'] at inside
          exact out inside
        exact ⟨dir'.trans reported.1, agent'.trans reported.2⟩
      · have notFirst : ¬ (p.voice w).Fails := fun fails' => by
          rw [only w List.mem_cons_self fails'] at out
          exact out inside
        obtain ⟨dir, agent⟩ := fine notFirst
        obtain ⟨dir', agent'⟩ := one v inside clip (by rw [others inside]; exact fails) (by rw [others inside]; exact isClip)
          fun u inside' fails' => only u (List.mem_cons_of_mem _ inside') (by rw [others inside'] at fails'; exact fails')
        obtain ⟨dir'', agent''⟩ := reportFault_same dir agent t clip
        exact ⟨dir'.trans dir'', agent'.trans agent''⟩

/-! ## The run entries that the voices count for (R63, R72) -/

theorem findEntry_modEntry (run : List RunEntry) (i j : Nat) {f : RunEntry → RunEntry} (keeps : ∀ e, (f e).index = e.index) :
    findEntry (modEntry run i f) j = (findEntry run j).map fun e => if e.index = i then f e else e := by
  unfold findEntry modEntry
  rw [List.find?_map]
  have same : ((fun e : RunEntry => e.index == j) ∘ fun e : RunEntry => if e.index = i then f e else e) = fun e => e.index == j := by
    funext e
    rw [Function.comp_apply]
    split
    · rw [keeps]
    · rfl
  rw [same]

theorem index_of_findEntry {run : List RunEntry} {j : Nat} {e : RunEntry} (found : findEntry run j = some e) : e.index = j :=
  beq_iff_eq.1 (List.find?_some (p := fun e : RunEntry => e.index == j) found)

theorem counted_other {b : OpenBreak} {x : Voice} {j : Nat} (other : x.state = .playing → x.run ≠ some j) :
    findEntry (b.counted x).run j = findEntry b.run j := by
  unfold OpenBreak.counted
  split
  · rename_i playing
    split
    · rename_i i run
      rw [findEntry_modEntry b.run i j (f := fun e => e.countSample x.hands.2.2 x.hands.2.1) fun _ => rfl]
      have apart : i ≠ j := fun same => other playing (by rw [run, same])
      cases found : findEntry b.run j with
      | none => rfl
      | some e =>
        have index := index_of_findEntry found
        rw [Option.map_some, if_neg (by rw [index]; exact apart.symm)]
    · rfl
  · rfl

theorem counted_own {b : OpenBreak} {x : Voice} {i : Nat} (playing : x.state = .playing) (run : x.run = some i) :
    findEntry (b.counted x).run i = (findEntry b.run i).map fun e => e.countSample x.hands.2.2 x.hands.2.1 := by
  unfold OpenBreak.counted
  rw [if_pos playing, run]
  dsimp only
  rw [findEntry_modEntry b.run i i (f := fun e => e.countSample x.hands.2.2 x.hands.2.1) fun _ => rfl]
  cases found : findEntry b.run i with
  | none => rfl
  | some e => rw [Option.map_some, Option.map_some, if_pos (index_of_findEntry found)]

theorem counted_frame (b : OpenBreak) (x : Voice) :
    (b.counted x).fillSamples = b.fillSamples ∧ (b.counted x).itemsAired = b.itemsAired := by
  unfold OpenBreak.counted
  repeat' split
  all_goals exact ⟨rfl, rfl⟩

section
variable (p : Play)

theorem countedAll_frame (vs : List VoiceNo) (b : OpenBreak) :
    (vs.foldl (fun b v => b.counted (p.voice v)) b).fillSamples = b.fillSamples ∧
      (vs.foldl (fun b v => b.counted (p.voice v)) b).itemsAired = b.itemsAired := by
  induction vs generalizing b with
  | nil => exact ⟨rfl, rfl⟩
  | cons v vs ih =>
    obtain ⟨fill, aired⟩ := counted_frame b (p.voice v)
    obtain ⟨fill', aired'⟩ := ih (b.counted (p.voice v))
    exact ⟨fill'.trans fill, aired'.trans aired⟩

theorem countedAll_other {vs : List VoiceNo} {j : Nat} (other : ∀ v ∈ vs, (p.voice v).state = .playing → (p.voice v).run ≠ some j) (b : OpenBreak) :
    findEntry (vs.foldl (fun b v => b.counted (p.voice v)) b).run j = findEntry b.run j := by
  induction vs generalizing b with
  | nil => rfl
  | cons v vs ih =>
    rw [List.foldl_cons, ih fun u inside => other u (List.mem_cons_of_mem _ inside)]
    exact counted_other (other v List.mem_cons_self)

theorem countedAll_one {vs : List VoiceNo} (distinct : vs.Nodup) {v : VoiceNo} (inside : v ∈ vs) (playing : (p.voice v).state = .playing)
    {i : Nat} (run : (p.voice v).run = some i) (only : ∀ u ∈ vs, (p.voice u).state = .playing → (p.voice u).run = some i → u = v)
    (b : OpenBreak) : findEntry (vs.foldl (fun b v => b.counted (p.voice v)) b).run i =
      (findEntry b.run i).map fun e => e.countSample (p.voice v).hands.2.2 (p.voice v).hands.2.1 := by
  induction vs generalizing b with
  | nil => cases inside
  | cons w vs ih =>
    obtain ⟨out, distinct⟩ := List.nodup_cons.1 distinct
    rw [List.foldl_cons]
    rcases List.mem_cons.1 inside with rfl | inside
    · rw [countedAll_other p fun u inside plays run' => out (only u (List.mem_cons_of_mem _ inside) plays run' ▸ inside)]
      exact counted_own playing run
    · rw [ih distinct inside fun u inside' => only u (List.mem_cons_of_mem _ inside')]
      have first : findEntry (b.counted (p.voice w)).run i = findEntry b.run i :=
        counted_other fun plays run' => out (only w List.mem_cons_self plays run' ▸ inside)
      rw [first]

end

/-! ## The sample of a region (R84, R88) -/

/-- A break when its region forms a sample: one more fill sample in FILL. -/
def OpenBreak.filled (b : OpenBreak) (state : RegionState) : OpenBreak :=
  if state = .fill then { b with fillSamples := b.fillSamples + 1 } else b

theorem OpenBreak.filled_fields (b : OpenBreak) (state : RegionState) : (b.filled state).run = b.run ∧
    (b.filled state).itemsAired = b.itemsAired ∧ (b.filled state).fillSamples = if state = .fill then b.fillSamples + 1 else b.fillSamples := by
  unfold OpenBreak.filled
  split
  · exact ⟨rfl, rfl, rfl⟩
  · exact ⟨rfl, rfl, rfl⟩

section
variable (p : Play) (t : Now) (gs : Vector GroupRec 8) (bed : Int × Int) (r : Region)

/-- The on-air blocks with the sample put out, before its voices go on. -/
def Play.putOut : Play := p.modRegion r fun x => x.output (p.sums gs r bed)

theorem region_putOut : (p.putOut gs bed r).region r = (p.region r).output (p.sums gs r bed) := by
  unfold Play.putOut
  rw [Play.region_modRegion, if_pos rfl]

theorem region_putOut_other {y : Region} (other : r ≠ y) : (p.putOut gs bed r).region y = p.region y := by
  unfold Play.putOut
  rw [Play.region_modRegion, if_neg other]

theorem mixRegion_eq : p.mixRegion t gs bed r = (p.voicesOf r).foldl (fun q v => q.playVoice t r v) (p.putOut gs bed r) := rfl

theorem mixRegion_out : let sum := p.sums gs r bed
    let y := (p.mixRegion t gs bed r).region r
    y.out = (p.region r).out ++ [(clamp24 sum.1, clamp24 sum.2)] ∧ y.peakL = max (p.region r).peakL (clamp24 sum.1).natAbs ∧
      y.peakR = max (p.region r).peakR (clamp24 sum.2).natAbs ∧ y.state = (p.region r).state ∧ y.bed = (p.region r).bed.advance ∧
      y.clampCount = if clamp24 sum.1 ≠ sum.1 ∨ clamp24 sum.2 ≠ sum.2 then min 65535 ((p.region r).clampCount + 1)
        else (p.region r).clampCount := by
  intro sum y
  obtain ⟨-, -, ⟨f, own⟩, -, -⟩ := playVoices_frame t r (p.voicesOf r) (p.putOut gs bed r)
  have acts : (clampActs sum.1 || clampActs sum.2) = true ↔ clamp24 sum.1 ≠ sum.1 ∨ clamp24 sum.2 ≠ sum.2 := by
    rw [Bool.or_eq_true, clampActs_iff, clampActs_iff]
  have form : y = _ := own
  rw [region_putOut] at form
  rw [form]
  exact ⟨rfl, rfl, rfl, rfl, rfl, if_congr acts rfl rfl⟩

/-- The break of the region when the sample has been formed, its voices each once. -/
theorem mixRegion_break (distinct : (p.voicesOf r).Nodup) {b : OpenBreak} (isOpen : (p.region r).brk = some b) :
    ((p.mixRegion t gs bed r).region r).brk =
      some ((p.voicesOf r).foldl (fun b v => b.counted (p.voice v)) (b.filled (p.region r).state)) := by
  obtain ⟨-, own⟩ := playVoices_distinct t r distinct (p.putOut gs bed r)
  have voices (v : VoiceNo) : (p.putOut gs bed r).voice v = p.voice v := rfl
  have filled : ((p.region r).output (p.sums gs r bed)).brk = some (b.filled (p.region r).state) := by
    show (p.region r).brk.map _ = _
    rw [isOpen]
    rfl
  rw [mixRegion_eq, own, region_putOut]
  simp only [voices]
  rw [filled]
  rfl

end

/-! ## A fault on air (R72, R110) -/

theorem find_modify_fields {d : Directory} {clip : Nat} {f : DirEntry → DirEntry} (keeps : ∀ e, (f e).clip = e.clip) (n : Nat) :
    (d.modify clip f).find n = (d.find n).map fun e => if e.clip = clip then f e else e := by
  unfold Directory.find Directory.modify
  dsimp only
  rw [List.find?_map]
  have same : ((fun e : DirEntry => e.clip == n) ∘ fun e : DirEntry => if e.clip = clip then f e else e) = fun e => e.clip == n := by
    funext e
    rw [Function.comp_apply]
    split
    · rw [keeps]
    · rfl
  rw [same]

theorem find_modify_own {d : Directory} {clip : Nat} {f : DirEntry → DirEntry} (keeps : ∀ e, (f e).clip = e.clip) {e : DirEntry}
    (found : d.find clip = some e) : (d.modify clip f).find clip = some (f e) := by
  have own : e.clip = clip := beq_iff_eq.1 (List.find?_some (p := fun e : DirEntry => e.clip == clip) found)
  rw [find_modify_fields keeps, found, Option.map_some, if_pos own]

theorem find_modify_other {d : Directory} {clip : Nat} {f : DirEntry → DirEntry} (keeps : ∀ e, (f e).clip = e.clip) {n : Nat}
    (other : n ≠ clip) : (d.modify clip f).find n = d.find n := by
  rw [find_modify_fields keeps]
  cases found : d.find n with
  | none => rfl
  | some e =>
    have own : e.clip = n := beq_iff_eq.1 (List.find?_some (p := fun e : DirEntry => e.clip == n) found)
    rw [Option.map_some, if_neg (by rw [own]; exact other)]

theorem reportFault_spec (p : Play) (t : Now) {clip : Nat} {e : DirEntry} (found : p.dir.find clip = some e) :
    let q := p.reportFault t clip
    q.dir.find clip = some { e with
      faults := min 3 (e.faults + 1), state := if e.state = .ready ∧ 2 ≤ e.faults then .suspect else e.state } ∧
    (∀ n, n ≠ clip → q.dir.find n = p.dir.find n) ∧ q.voices = p.voices ∧ q.regions = p.regions ∧ q.log = p.log ∧
    (e.state = .ready → 2 ≤ e.faults → p.agent.noticeRoom = true →
      (⟨t.address, 0, .notice (.clipSuspect clip e.firstBlock 3 e.weak), t.count⟩ : QueueEntry) ∈ q.agent.returns) ∧
    (e.state ≠ .ready ∨ e.faults < 2 → q.agent = p.agent) := by
  have third : (e.state == .ready && min 3 (e.faults + 1) == 3) = true ↔ e.state = .ready ∧ 2 ≤ e.faults := by
    rw [Bool.and_eq_true, beq_iff_eq, beq_iff_eq]
    exact and_congr_right fun _ => by omega
  unfold Play.reportFault
  rw [found]
  dsimp only
  by_cases suspect : e.state = .ready ∧ 2 ≤ e.faults
  · rw [if_pos (third.2 suspect), if_pos suspect]
    have full : min 3 (e.faults + 1) = 3 := by omega
    rw [full]
    exact ⟨find_modify_own (f := fun e => { e with faults := 3, state := .suspect }) (fun _ => rfl) found,
      fun n other => find_modify_other (f := fun e => { e with faults := 3, state := .suspect }) (fun _ => rfl) other, rfl, rfl, rfl,
      fun _ _ room => mem_place room _ _, fun not => not.elim (absurd suspect.1) fun few => absurd suspect.2 (by omega)⟩
  · rw [if_neg fun both => suspect (third.1 both), if_neg suspect]
    exact ⟨find_modify_own (f := fun x => { x with faults := min 3 (e.faults + 1) }) (fun _ => rfl) found,
      fun n other => find_modify_other (f := fun x => { x with faults := min 3 (e.faults + 1) }) (fun _ => rfl) other, rfl, rfl, rfl,
      fun ready many => absurd ⟨ready, many⟩ suspect, fun _ => rfl⟩

/-! ## The samples of a step (R88) -/

theorem formSample_mix {s : State} {x : Period} (period : s.period = some x) (before : s.sample < 48) :
    s.formSample.play =
        allRegions.foldl (fun q r => q.mixRegion s.takeEvents.now s.takeEvents.levels (x.bed.getD s.sample (0, 0)) r) s.takeEvents.play ∧
      s.takeEvents.now = s.now ∧ s.formSample.levels = mapGroups s.takeEvents.levels GroupRec.advance := by
  obtain ⟨cues, play, form⟩ := takeEvents_form s
  have now : s.takeEvents.now = s.now := by
    rw [form]
    rfl
  have sample : s.takeEvents.sample = s.sample := by rw [form]
  refine ⟨?_, now, ?_⟩
  · unfold State.formSample
    rw [period]
    dsimp only
    rw [if_pos before]
    obtain ⟨cur, settled, -⟩ := settleArray_form ((s.takeEvents.mixSample x).closeFrame x)
    rw [settled]
    unfold State.closeFrame
    split <;> (unfold State.mixSample; rw [sample])
  · unfold State.formSample
    rw [period]
    dsimp only
    rw [if_pos before]
    obtain ⟨cur, settled, -⟩ := settleArray_form ((s.takeEvents.mixSample x).closeFrame x)
    rw [settled]
    unfold State.closeFrame
    split <;> rfl

/-- Settles O30: the sum is a fold over the voices that play, and each of them changes itself, its entry and its clip alone. -/
theorem mixSumsAndClamps : Obligations.MixSumsAndClamps := by
  refine ⟨fun p t gs bed r => ?_, effectiveLevel_eq, fun v pg rest ring => hands_ring ring, fun v ring => hands_empty ring, sample_eq,
    fun p t gs bed r => ?_, fun p t clip e found => reportFault_spec p t found, fun s x period before => ?_⟩
  · intro x terms left right clamp y
    have sums : p.sums gs r bed = (left, right) := sums_eq p gs r bed
    have out := mixRegion_out p t gs bed r
    rw [sums] at out
    simp only [clamp24_eq] at out
    exact out
  · intro x q plays fails
    have voices : ∀ v, (p.putOut gs bed r).voice v = p.voice v := fun _ => rfl
    obtain ⟨stay, others, -, log, gates⟩ := playVoices_frame t r (p.voicesOf r) (p.putOut gs bed r)
    refine ⟨fun y other => (others y fun same => other same.symm).trans (region_putOut_other p gs bed r fun same => other same.symm),
      fun v not => stay v (or_iff_not_imp_left.2 fun inside playing => not ⟨not_not.1 inside, playing⟩), log, gates, fun distinct => ?_⟩
    obtain ⟨played, -⟩ := playVoices_distinct t r distinct (p.putOut gs bed r)
    obtain ⟨calm, one⟩ := playVoices_reports t r distinct (p.putOut gs bed r)
    refine ⟨fun none => calm fun v inside failing => none v ⟨⟨inside, failing.1⟩, failing.2⟩, fun v isPlaying => ?_,
      fun v clip failing isClip only => ?_, fun b isOpen => ?_⟩
    · intro y z
      have form : z = y.played := played v isPlaying.1 isPlaying.2
      obtain ⟨ring, pending, suffix, is⟩ := played_form y
      rw [form, is]
      exact ⟨isPlaying.2, rfl, rfl, rfl, rfl, rfl, rfl, rfl, rfl, suffix⟩
    · obtain ⟨dir, agent⟩ := one v failing.1.1 clip ⟨failing.1.2, failing.2⟩ isClip fun u inside failing' =>
        only u ⟨⟨inside, failing'.1⟩, failing'.2⟩
      obtain ⟨dir', agent'⟩ := reportFault_same (p := p) (q := p.putOut gs bed r) rfl rfl t clip
      exact ⟨dir.trans dir', agent.trans agent'⟩
    · have brk := mixRegion_break p t gs bed r distinct isOpen
      obtain ⟨run, aired, fill⟩ := b.filled_fields x.state
      obtain ⟨fill', aired'⟩ := countedAll_frame p (p.voicesOf r) (b.filled x.state)
      refine ⟨_, ?_, fill'.trans fill, aired'.trans aired, fun i not => ?_, fun v i isPlaying isRun only => ?_⟩
      · rw [← brk]
      · rw [← run]
        exact countedAll_other p (fun v inside playing => not v ⟨inside, playing⟩) _
      · rw [← run]
        exact countedAll_one p distinct isPlaying.1 isPlaying.2 isRun (fun u inside playing => only u ⟨inside, playing⟩) _
  · intro u
    obtain ⟨play, now, levels⟩ := formSample_mix period before
    refine ⟨play, now, ?_, fun g above => ?_⟩
    · rw [levels]
      exact mapGroups_zero _ _
    · rw [levels]
      exact mapGroups_other _ _ above

end Sys2Proof.Machine

/-! # Entries and breaks closed: the ITEM and BREAK records, and a region wound down (R32, R33, R147, R149) -/

namespace Sys2Proof.Machine

/-! ## What the return queue keeps -/

/-- No reply leaves the return queue: only notices make room for one another (R172). -/
def RepliesKept (a c : Agent) : Prop := ∀ y ∈ a.returns, y.isNotice = false → y ∈ c.returns

theorem RepliesKept.refl (a : Agent) : RepliesKept a a := fun _ inside _ => inside

theorem RepliesKept.trans {a c d : Agent} (first : RepliesKept a c) (second : RepliesKept c d) : RepliesKept a d :=
  fun y inside reply => second y (first y inside reply) reply

theorem mem_insertNotice_of_mem (e : QueueEntry) (n : Notice) {l : List QueueEntry} {y : QueueEntry} (inside : y ∈ l) :
    y ∈ insertNotice e n l := (insertNotice_perm e n l).mem_iff.2 (List.mem_cons_of_mem _ inside)

theorem repliesKept_place (a : Agent) (e : QueueEntry) (n : Notice) : RepliesKept a (a.place e n) := by
  intro y inside reply
  rcases place_cases a e n with ⟨-, form⟩ | ⟨-, form⟩ | ⟨init, x, m, -, returns, notice, form⟩
  · rw [form]
    exact List.mem_reverse.2 (mem_insertNotice_of_mem e n (List.mem_reverse.2 inside))
  · rw [form]
    exact inside
  · rw [form]
    rw [returns] at inside
    rcases List.mem_append.1 inside with early | last
    · exact List.mem_reverse.2 (mem_insertNotice_of_mem e n (List.mem_reverse.2 early))
    · rw [List.mem_singleton.1 last, QueueEntry.isNotice, notice] at reply
      cases reply

theorem takeLog_agent (p : Play) (t : Now) (l : AsRunLog) : ∃ a, p.takeLog t l = { p with log := (p.takeLog t l).log, agent := a } ∧
    RepliesKept p.agent a := by
  unfold Play.takeLog
  split
  · exact ⟨_, rfl, repliesKept_place _ _ _⟩
  · exact ⟨p.agent, rfl, .refl _⟩

/-! ## The ITEM record of a closed entry (R147, R149) -/

section
variable {p : Play} {r : Region} {b : OpenBreak}

theorem appendItem_taken (t : Now) (x : ItemRecord) (isOpen : (p.region r).brk = some b) :
    p.appendItem t r x = (p.takeLog t (p.log.insert (p.log.appended - (b.noteAppend t p.log).first).toNat x)).setRegion r
      { p.region r with brk := some { b with logged := some (b.noteAppend t p.log) } } := by
  obtain ⟨a, form, -⟩ := takeLog_agent p t (p.log.insert (p.log.appended - (b.noteAppend t p.log).first).toNat x)
  unfold Play.appendItem
  rw [withBreak_of _ isOpen]
  dsimp only
  rw [form]
  exact modBreak_of (p := { p with log := (p.takeLog t _).log, agent := a }) _ isOpen

theorem appendItem_of (t : Now) (x : ItemRecord) (isOpen : (p.region r).brk = some b) : ∃ a,
    p.appendItem t r x = ({ p with log := (p.appendItem t r x).log, agent := a } : Play).setRegion r
      { p.region r with brk := some { b with logged := some (b.noteAppend t p.log) } } ∧ RepliesKept p.agent a := by
  obtain ⟨a, form, kept⟩ := takeLog_agent p t (p.log.insert (p.log.appended - (b.noteAppend t p.log).first).toNat x)
  refine ⟨a, ?_, kept⟩
  have taken := appendItem_taken t x isOpen
  have log : (p.appendItem t r x).log = (p.takeLog t (p.log.insert (p.log.appended - (b.noteAppend t p.log).first).toNat x)).log := by
    rw [taken]
    rfl
  rw [log, taken]
  exact congrArg (fun q : Play => q.setRegion r _) form

/-- The log behind an ITEM record depends on the log and on the break's note of its appends alone. -/
theorem log_appendItem_same {q : Play} {c : OpenBreak} (t : Now) (x : ItemRecord) (isOpen : (p.region r).brk = some b)
    (isOpen' : (q.region r).brk = some c) (log : q.log = p.log) (logged : c.logged = b.logged) :
    (q.appendItem t r x).log = (p.appendItem t r x).log := by
  have note : c.noteAppend t q.log = b.noteAppend t p.log := by
    unfold OpenBreak.noteAppend
    rw [log, logged]
  rw [appendItem_taken t x isOpen, appendItem_taken t x isOpen']
  show (q.takeLog t _).log = (p.takeLog t _).log
  rw [log_takeLog, log_takeLog, note, log]

/-- A break with one of its entries at a last status, and its append noted. -/
def OpenBreak.entryClosed (b : OpenBreak) (i : Nat) (st : EntryStatus) (note : AppendNote) : OpenBreak :=
  { b with run := modEntry b.run i fun e => { e with status := st }, logged := some note }

/-- The later of two writes of a region stands. -/
theorem setRegion_logged (p : Play) (r : Region) (x y : RegionRec) (l : AsRunLog) (a : Agent) :
    ({ p.setRegion r x with log := l, agent := a } : Play).setRegion r y = ({ p with log := l, agent := a } : Play).setRegion r y :=
  Play.setRegion_setRegion { p with log := l, agent := a } r x y

theorem closeEntry_of {i : Nat} {e : RunEntry} (t : Now) (st : EntryStatus) (start : AirTime) (isOpen : (p.region r).brk = some b)
    (found : findEntry b.run i = some e) : ∃ a,
    p.closeEntry t r i st start = ({ p with
      log := (p.appendItem t r (itemRecord r b.breakId { e with status := st } start)).log, agent := a } : Play).setRegion r
        { p.region r with brk := some (b.entryClosed i st (b.noteAppend t p.log)) } ∧ RepliesKept p.agent a := by
  let c : OpenBreak := { b with run := modEntry b.run i fun e => { e with status := st } }
  let x : RegionRec := { p.region r with brk := some c }
  have region : (p.setRegion r x).region r = x := by simp
  have isOpen' : ((p.setRegion r x).region r).brk = some c := congrArg RegionRec.brk region
  obtain ⟨a, form, kept⟩ := appendItem_of t (itemRecord r b.breakId { e with status := st } start) isOpen'
  have shape : p.closeEntry t r i st start = (p.setRegion r x).appendItem t r (itemRecord r b.breakId { e with status := st } start) := by
    unfold Play.closeEntry
    rw [withBreak_of _ isOpen]
    simp only [found]
    rw [modBreak_of _ isOpen]
  refine ⟨a, ?_, kept⟩
  rw [shape, form, log_appendItem_same t _ isOpen isOpen' rfl rfl, setRegion_logged, region]
  rfl

/-- Of no entry of an index nothing is closed. -/
theorem closeEntry_none {i : Nat} (t : Now) (st : EntryStatus) (start : AirTime) (isOpen : (p.region r).brk = some b)
    (none' : findEntry b.run i = none) : p.closeEntry t r i st start = p := by
  unfold Play.closeEntry
  rw [withBreak_of _ isOpen]
  simp only [none']

theorem closeVoiceEntry_of {v : VoiceNo} {i : Nat} {e : RunEntry} (t : Now) (st : EntryStatus) (isOpen : (p.region r).brk = some b)
    (run : (p.voice v).run = some i) (found : findEntry b.run i = some e) :
    p.closeVoiceEntry t r v st = p.closeEntry t r i st (e.startAir.getD t.air) := by
  unfold Play.closeVoiceEntry
  simp only [run]
  rw [withBreak_of _ isOpen]
  simp only [found]

end

/-! ## What winding down leaves (R32) -/

/-- A break of which only run entries, each at its place, and the counts of its records and starts have changed. -/
structure OpenBreak.Wound (b c : OpenBreak) : Prop where
  form : ∃ (g : RunEntry → RunEntry) (logged : Option AppendNote) (aired : Nat),
    c = { b with run := b.run.map g, logged := logged, itemsAired := aired } ∧ aired ≤ b.itemsAired ∧ ∀ e, (g e).index = e.index

theorem OpenBreak.Wound.refl (b : OpenBreak) : b.Wound b :=
  ⟨id, b.logged, b.itemsAired, by rw [List.map_id], le_refl _, fun _ => rfl⟩

theorem OpenBreak.Wound.trans {b c d : OpenBreak} (first : b.Wound c) (second : c.Wound d) : b.Wound d := by
  obtain ⟨g, logged, aired, rfl, fewer, index⟩ := first.form
  obtain ⟨g', logged', aired', rfl, fewer', index'⟩ := second.form
  exact ⟨g' ∘ g, logged', aired', by rw [← List.map_map], fewer'.trans fewer, fun e => (index' _).trans (index e)⟩

theorem OpenBreak.wound_entryClosed (b : OpenBreak) (i : Nat) (st : EntryStatus) (note : AppendNote) : b.Wound (b.entryClosed i st note) :=
  ⟨fun e => if e.index = i then { e with status := st } else e, some note, b.itemsAired, rfl, le_refl _, fun e => by dsimp only; split <;> rfl⟩

/-- What has become of a voice while its region is wound down: it is as it was, or inactive, or it plays on. -/
def Voice.WoundTo (x y : Voice) : Prop := y = x ∨ y.active = false ∨ x.state = .playing ∧ y.state = .playing ∧ y.run = x.run

theorem Voice.WoundTo.trans {x y z : Voice} (first : x.WoundTo y) (second : y.WoundTo z) : x.WoundTo z := by
  rcases second with rfl | still | ⟨playing, playing', run⟩
  · exact first
  · exact .inr (.inl still)
  · rcases first with rfl | still | ⟨playing'', -, run'⟩
    · exact .inr (.inr ⟨playing, playing', run⟩)
    · rw [Voice.active, playing] at still
      cases still
    · exact .inr (.inr ⟨playing'', playing', run.trans run'⟩)

theorem Voice.WoundTo.inactive {x y : Voice} (wound : x.WoundTo y) (still : x.active = false) : y.active = false := by
  rcases wound with rfl | still' | ⟨playing, -⟩
  · exact still
  · exact still'
  · rw [Voice.active, playing] at still
    cases still

theorem Voice.WoundTo.playing {x y : Voice} (wound : x.WoundTo y) (playing : y.state = .playing) : x.state = .playing ∧ y.run = x.run := by
  rcases wound with rfl | still | ⟨playing', -, run⟩
  · exact ⟨playing, rfl⟩
  · rw [Voice.active, playing] at still
    cases still
  · exact ⟨playing', run⟩

/-- A region wound down some way, with what of the voices `vs` that takes: its break and voices as far as said, its bed as given, and
nothing else but the log. -/
structure Winds (r : Region) (vs : VoiceNo → Prop) (bed : Fader) (p q : Play) : Prop where
  own : ∃ pool lead brk, q.region r = { p.region r with bed := bed, pool := pool, lead := lead, brk := brk }
  brk : ∀ b, (p.region r).brk = some b → ∃ c, (q.region r).brk = some c ∧ b.Wound c
  pool : (q.region r).pool = (p.region r).pool ∨ (q.region r).pool = none ∧ ∀ v, (p.region r).pool = some v → (q.voice v).active = false
  voices : ∀ v, (p.voice v).WoundTo (q.voice v)
  holders : ∀ v, (q.voice v).holder = (p.voice v).holder ∨ (q.voice v).holder = none
  others : (∀ v, vs v → ∀ y, (p.voice v).holder = some y → y = r) → ∀ y, y ≠ r → q.region y = p.region y
  plans : q.plans = p.plans
  waiters : q.waiters = p.waiters
  gates : q.gates = p.gates
  dir : q.dir = p.dir
  replies : RepliesKept p.agent q.agent

theorem mem_voicesOf (p : Play) (r : Region) (v : VoiceNo) : v ∈ p.voicesOf r ↔ v = homeVoice r ∨ (p.region r).pool = some v := by
  unfold Play.voicesOf
  split
  · rename_i w pool
    simp [pool, eq_comm]
  · rename_i pool
    simp [pool]

section
variable {r : Region} {vs : VoiceNo → Prop} {bed bed' : Fader} {p q u : Play}

theorem Winds.refl (r : Region) (vs : VoiceNo → Prop) (p : Play) : Winds r vs (p.region r).bed p p where
  own := ⟨_, _, _, rfl⟩
  brk b isOpen := ⟨b, isOpen, .refl b⟩
  pool := .inl rfl
  voices _ := .inl rfl
  holders _ := .inl rfl
  others _ _ _ := rfl
  plans := rfl
  waiters := rfl
  gates := rfl
  dir := rfl
  replies := .refl _

theorem Winds.trans (first : Winds r vs bed p q) (second : Winds r vs bed' q u) : Winds r vs bed' p u where
  own := by
    obtain ⟨pool, lead, brk, own⟩ := first.own
    obtain ⟨pool', lead', brk', own'⟩ := second.own
    exact ⟨pool', lead', brk', by rw [own', own]⟩
  brk b isOpen := by
    obtain ⟨c, isOpen', wound⟩ := first.brk b isOpen
    obtain ⟨d, isOpen'', wound'⟩ := second.brk c isOpen'
    exact ⟨d, isOpen'', wound.trans wound'⟩
  pool := by
    rcases second.pool with same | ⟨gone, still⟩
    · rw [same]
      exact first.pool.imp_right fun ⟨gone, still⟩ => ⟨gone, fun v isPool => (second.voices v).inactive (still v isPool)⟩
    · refine .inr ⟨gone, fun v isPool => ?_⟩
      rcases first.pool with same | ⟨-, still'⟩
      · exact still v (same.trans isPool)
      · exact (second.voices v).inactive (still' v isPool)
  voices v := (first.voices v).trans (second.voices v)
  holders v := by
    rcases second.holders v with same | gone
    · rw [same]
      exact first.holders v
    · exact .inr gone
  others held y other := by
    refine (second.others (fun v inside h holder => ?_) y other).trans (first.others held y other)
    rcases first.holders v with same | gone
    · exact held v inside h (same.symm.trans holder)
    · rw [gone] at holder
      cases holder
  plans := second.plans.trans first.plans
  waiters := second.waiters.trans first.waiters
  gates := second.gates.trans first.gates
  dir := second.dir.trans first.dir
  replies := first.replies.trans second.replies

theorem Winds.bed_eq (winds : Winds r vs bed p q) : (q.region r).bed = bed := by
  obtain ⟨pool, lead, brk, own⟩ := winds.own
  rw [own]

theorem Winds.mem_voicesOf (winds : Winds r vs bed p q) {v : VoiceNo} (inside : v ∈ q.voicesOf r) : v ∈ p.voicesOf r := by
  rw [Machine.mem_voicesOf] at inside ⊢
  refine inside.imp_right fun isPool => ?_
  rcases winds.pool with same | ⟨gone, -⟩
  · exact same.symm.trans isPool
  · rw [gone] at isPool
    cases isPool

/-- A voice that is still active is still the region's. -/
theorem Winds.mem_voicesOf_active (winds : Winds r vs bed p q) {v : VoiceNo} (inside : v ∈ p.voicesOf r) (active : (q.voice v).active = true) :
    v ∈ q.voicesOf r := by
  rw [Machine.mem_voicesOf] at inside ⊢
  refine inside.imp_right fun isPool => ?_
  rcases winds.pool with same | ⟨-, still⟩
  · exact same.trans isPool
  · rw [still v isPool] at active
    cases active

/-- Steps each of which winds the region down, from where the ones before left it. -/
theorem Winds.foldl {α : Type} {f : Play → α → Play} (l : List α) (each : ∀ x ∈ l, ∀ q, Winds r vs (q.region r).bed q (f q x)) (p : Play) :
    Winds r vs (p.region r).bed p (l.foldl f p) := by
  induction l generalizing p with
  | nil => exact .refl r vs p
  | cons x l ih =>
    have first := each x List.mem_cons_self p
    have rest := ih (fun y inside => each y (List.mem_cons_of_mem _ inside)) (f p x)
    rw [first.bed_eq] at rest
    exact first.trans rest

end

/-! ## The steps of winding down -/

section
variable {p : Play} {r : Region} {vs : VoiceNo → Prop}

/-- A change of the open break, with the records that it makes. -/
theorem winds_break {b c : OpenBreak} (isOpen : (p.region r).brk = some b) (wound : b.Wound c) (l : AsRunLog) {a : Agent}
    (kept : RepliesKept p.agent a) :
    Winds r vs (p.region r).bed p (({ p with log := l, agent := a } : Play).setRegion r { p.region r with brk := some c }) := by
  have region : ((({ p with log := l, agent := a } : Play).setRegion r { p.region r with brk := some c }).region r) =
      { p.region r with brk := some c } := by simp
  constructor
  case own => exact ⟨_, _, _, region⟩
  case brk =>
    intro d isOpen'
    rw [isOpen] at isOpen'
    cases isOpen'
    exact ⟨c, by rw [region], wound⟩
  case pool => exact .inl (by rw [region])
  case voices => exact fun _ => .inl rfl
  case holders => exact fun _ => .inl rfl
  case others =>
    intro _ y other
    rw [Play.region_setRegion, if_neg (Ne.symm other)]
    rfl
  case plans => rfl
  case waiters => rfl
  case gates => rfl
  case dir => rfl
  case replies => exact kept

theorem winds_closeEntry (p : Play) (t : Now) (i : Nat) (st : EntryStatus) (start : AirTime) :
    Winds r vs (p.region r).bed p (p.closeEntry t r i st start) := by
  cases isOpen : (p.region r).brk with
  | none =>
    unfold Play.closeEntry Play.withBreak
    simp only [isOpen]
    exact .refl r vs p
  | some b =>
    cases found : findEntry b.run i with
    | none =>
      rw [closeEntry_none t st start isOpen found]
      exact .refl r vs p
    | some e =>
      obtain ⟨a, form, kept⟩ := closeEntry_of t st start isOpen found
      rw [form]
      exact winds_break isOpen (b.wound_entryClosed i st _) _ kept

/-- The entry of a voice closed is an entry closed, or nothing. -/
theorem closeVoiceEntry_cases (p : Play) (t : Now) (r : Region) (v : VoiceNo) (st : EntryStatus) :
    p.closeVoiceEntry t r v st = p ∨
      ∃ i start, (p.voice v).run = some i ∧ p.closeVoiceEntry t r v st = p.closeEntry t r i st start := by
  unfold Play.closeVoiceEntry
  split
  · exact .inl rfl
  · rename_i i run
    unfold Play.withBreak
    split
    · exact .inl rfl
    · dsimp only
      split
      · exact .inl rfl
      · exact .inr ⟨i, _, run, rfl⟩

theorem winds_closeVoiceEntry (p : Play) (t : Now) (v : VoiceNo) (st : EntryStatus) :
    Winds r vs (p.region r).bed p (p.closeVoiceEntry t r v st) := by
  rcases closeVoiceEntry_cases p t r v st with same | ⟨i, start, -, form⟩
  · rw [same]
    exact .refl r vs p
  · rw [form]
    exact winds_closeEntry p t i st start

theorem voice_closeEntry (p : Play) (t : Now) (r : Region) (i : Nat) (st : EntryStatus) (start : AirTime) (u : VoiceNo) :
    (p.closeEntry t r i st start).voice u = p.voice u := by
  cases isOpen : (p.region r).brk with
  | none =>
    unfold Play.closeEntry Play.withBreak
    simp only [isOpen]
  | some b =>
    cases found : findEntry b.run i with
    | none => rw [closeEntry_none t st start isOpen found]
    | some e =>
      obtain ⟨a, form, -⟩ := closeEntry_of t st start isOpen found
      rw [form]
      rfl

theorem voice_closeVoiceEntry (p : Play) (t : Now) (r : Region) (v : VoiceNo) (st : EntryStatus) (u : VoiceNo) :
    (p.closeVoiceEntry t r v st).voice u = p.voice u := by
  rcases closeVoiceEntry_cases p t r v st with same | ⟨i, start, -, form⟩
  · rw [same]
  · rw [form, voice_closeEntry]

theorem holder_release (x : Voice) : x.release.holder = x.holder := by
  unfold Voice.release
  split <;> rfl

theorem holder_releaseVoice (p : Play) (v u : VoiceNo) :
    ((p.releaseVoice v).voice u).holder = (p.voice u).holder ∨ ((p.releaseVoice v).voice u).holder = none := by
  have released : ((p.modVoice v Voice.release).voice u).holder = (p.voice u).holder := by
    rw [Play.voice_modVoice]
    split
    · rename_i same
      rw [same, holder_release]
    · rfl
  unfold Play.releaseVoice Play.returnPool
  dsimp only
  split
  · split
    · exact .inl released
    · rw [Play.voice_modRegion, Play.voice_setVoice]
      split
      · exact .inr rfl
      · exact .inl released
  · exact .inl released

theorem winds_releaseVoice (p : Play) {v : VoiceNo} (inside : vs v) : Winds r vs (p.region r).bed p (p.releaseVoice v) := by
  obtain ⟨plans, waiters, gates, dir, log, agent⟩ := p.rest_releaseVoice v
  obtain ⟨pool, lead, own, -⟩ := p.region_releaseVoice v r
  constructor
  case own => exact ⟨pool, lead, (p.region r).brk, own⟩
  case brk => exact fun b isOpen => ⟨b, by rw [own]; exact isOpen, .refl b⟩
  case pool =>
    rcases p.releaseVoice_form v with form | ⟨x, h, still, -, -, form⟩
    · rw [form]
      exact .inl rfl
    · rw [form, Play.region_modRegion]
      split
      · rename_i same
        subst same
        by_cases own : (p.region h).pool = some v
        · refine .inr ⟨if_pos own, fun u isPool => ?_⟩
          rw [own] at isPool
          cases isPool
          rw [← form]
          exact (p.voice_releaseVoice v v).1 rfl
        · exact .inl (if_neg own)
      · exact .inl rfl
  case voices =>
    intro u
    obtain ⟨own, other⟩ := p.voice_releaseVoice v u
    by_cases same : v = u
    · exact .inr (.inl (own same))
    · exact .inl (other same)
  case holders => exact holder_releaseVoice p v
  case others =>
    intro held y other
    obtain ⟨pool, lead, form, -, -, same⟩ := p.region_releaseVoice v y
    have notOwn : (p.voice v).release.holder ≠ some y := by
      rw [holder_release]
      exact fun holder => other (held v inside y holder)
    obtain ⟨pool', lead'⟩ := same notOwn
    rw [form, pool', lead']
  case plans => exact plans
  case waiters => exact waiters
  case gates => exact gates
  case dir => exact dir
  case replies => rw [agent]; exact .refl _

/-- An entry closed and its voice released. -/
theorem winds_closed_released (p : Play) (t : Now) {v : VoiceNo} (st : EntryStatus) (inside : vs v) :
    Winds r vs (p.region r).bed p ((p.closeVoiceEntry t r v st).releaseVoice v) := by
  have first := winds_closeVoiceEntry (r := r) (vs := vs) p t v st
  have second := winds_releaseVoice (r := r) (p.closeVoiceEntry t r v st) inside
  rw [first.bed_eq] at second
  exact first.trans second

theorem winds_finishAtEnd (p : Play) (t : Now) {v : VoiceNo} (inside : vs v) :
    Winds r vs (p.region r).bed p (p.finishAtEnd t r v) := by
  unfold Play.finishAtEnd
  split
  · exact winds_closed_released p t .done inside
  · exact .refl r vs p

/-- A playing voice that plays on with its run entry. -/
theorem winds_modVoice (p : Play) {v : VoiceNo} {f : Voice → Voice} (state : (f (p.voice v)).state = (p.voice v).state)
    (playing : (p.voice v).state = .playing) (run : (f (p.voice v)).run = (p.voice v).run)
    (holder : (f (p.voice v)).holder = (p.voice v).holder) : Winds r vs (p.region r).bed p (p.modVoice v f) where
  own := ⟨_, _, _, rfl⟩
  brk b isOpen := ⟨b, isOpen, .refl b⟩
  pool := .inl rfl
  voices u := by
    rw [Play.voice_modVoice]
    split
    · rename_i same
      subst same
      exact .inr (.inr ⟨playing, state.trans playing, run⟩)
    · exact .inl rfl
  holders u := by
    rw [Play.voice_modVoice]
    split
    · rename_i same
      subst same
      exact .inl holder
    · exact .inl rfl
  others _ _ _ := rfl
  plans := rfl
  waiters := rfl
  gates := rfl
  dir := rfl
  replies := .refl _

/-- A voice that begins its ramp out (R32). -/
def Voice.rampingOut (x : Voice) (ms : Nat) : Voice := { x.unstage with fader := x.fader.begin 0 ms, releaseAtRampEnd := true }

theorem rampingOut_form (x : Voice) (ms : Nat) : ∃ u ring pending, x.rampingOut ms =
    { x with fader := x.fader.begin 0 ms, releaseAtRampEnd := true, successor := u, ring := ring, pending := pending } := by
  unfold Voice.rampingOut Voice.unstage
  obtain ⟨q, form⟩ := Voice.refill_form ({ x with successor := none, ring := x.ring.filter fun pg => pg.ref.owner == Owner.current })
  rw [form]
  exact ⟨_, _, _, rfl⟩

theorem winds_rampOut (p : Play) (t : Now) (ms : Nat) {v : VoiceNo} (inside : vs v) :
    Winds r vs (p.region r).bed p (p.rampOut t r ms v) := by
  unfold Play.rampOut
  split
  · rename_i playing
    obtain ⟨u, ring, pending, form⟩ := rampingOut_form (p.voice v) ms
    have first : Winds r vs (p.region r).bed p (p.modVoice v fun x => x.rampingOut ms) :=
      winds_modVoice p (by rw [form]) (beq_iff_eq.1 playing) (by rw [form]) (by rw [form])
    dsimp only
    split
    · have second := winds_closed_released (r := r) (p.modVoice v fun x => x.rampingOut ms) t .trimmed inside
      exact first.trans second
    · exact first
  · exact winds_releaseVoice p inside

end

end Sys2Proof.Machine

/-! # A voice's end, a break's close and a lead-out's completion (O20) -/

namespace Sys2Proof.Machine

/-! ## The end of a voice's entry (R57, R71, R147) -/

section
variable {p : Play} {r : Region} {b : OpenBreak} {e : RunEntry} {v : VoiceNo}

/-- A voice whose entry has been closed and that has been released. -/
structure EntryEnded (t : Now) (r : Region) (b : OpenBreak) (e : RunEntry) (v : VoiceNo) (st : EntryStatus) (p q : Play) : Prop where
  log : q.log = (p.appendItem t r (itemRecord r b.breakId { e with status := st } (e.startAir.getD t.air))).log
  own : ∃ pool lead, q.region r = { p.region r with pool := pool, lead := lead, brk := some (b.entryClosed e.index st (b.noteAppend t p.log)) }
  lead : (p.region r).lead ≠ some v → (q.region r).lead = (p.region r).lead
  voice : (q.voice v).active = false
  voices : ∀ u, u ≠ v → q.voice u = p.voice u
  winds : Winds r (· = v) (p.region r).bed p q

theorem entryEnded (t : Now) (st : EntryStatus) (isOpen : (p.region r).brk = some b) (run : (p.voice v).run = some e.index)
    (found : findEntry b.run e.index = some e) : EntryEnded t r b e v st p ((p.closeVoiceEntry t r v st).releaseVoice v) := by
  obtain ⟨a, closed, kept⟩ := closeEntry_of t st (e.startAir.getD t.air) isOpen found
  have closed' := (closeVoiceEntry_of t st isOpen run found).trans closed
  have region : (p.closeVoiceEntry t r v st).region r =
      { p.region r with brk := some (b.entryClosed e.index st (b.noteAppend t p.log)) } := by
    rw [closed']
    exact (Play.region_setRegion _ r r _).trans (if_pos rfl)
  obtain ⟨-, -, -, -, log, -⟩ := (p.closeVoiceEntry t r v st).rest_releaseVoice v
  obtain ⟨pool, lead, own, -, other, -⟩ := (p.closeVoiceEntry t r v st).region_releaseVoice v r
  constructor
  case log =>
    rw [log, closed']
    rfl
  case own => exact ⟨pool, lead, by rw [own, region]⟩
  case lead =>
    intro notLead
    rw [own]
    rw [region] at other
    exact other notLead
  case voice => exact (Play.voice_releaseVoice _ v v).1 rfl
  case voices =>
    intro u apart
    rw [(Play.voice_releaseVoice _ v u).2 (Ne.symm apart), voice_closeVoiceEntry]
  case winds => exact winds_closed_released p t st rfl

theorem EntryEnded.brk {t : Now} {st : EntryStatus} {q : Play} (ended : EntryEnded t r b e v st p q) :
    (q.region r).brk = some (b.entryClosed e.index st (b.noteAppend t p.log)) := by
  obtain ⟨pool, lead, own⟩ := ended.own
  rw [own]

theorem mem_entryClosed {i : Nat} {st : EntryStatus} {note : AppendNote} {x : RunEntry} (inside : x ∈ (b.entryClosed i st note).run)
    (index : x.index = i) : x.status = st := by
  obtain ⟨y, -, -, rfl⟩ := mem_modEntry inside index
  rfl

/-- The entries of other indices stand in a break with one entry closed. -/
theorem findEntry_entryClosed {i j : Nat} (other : j ≠ i) (st : EntryStatus) (note : AppendNote) :
    findEntry (b.entryClosed i st note).run j = findEntry b.run j := by
  refine (findEntry_modEntry b.run i j (f := fun e => { e with status := st }) fun _ => rfl).trans ?_
  cases found : findEntry b.run j with
  | none => rfl
  | some e =>
    have index := index_of_findEntry found
    rw [Option.map_some, if_neg (by rw [index]; exact other)]

end

/-! ## A break closed (R33, R148) -/

theorem winds_giveBackPool (p : Play) {r : Region} {vs : VoiceNo → Prop} (inside : ∀ v, (p.region r).pool = some v → vs v) :
    Winds r vs (p.region r).bed p (p.giveBackPool r) := by
  unfold Play.giveBackPool
  split
  · rename_i v pool
    exact winds_releaseVoice p (inside v pool)
  · exact .refl r vs p

/-- A region whose break has been closed: its record at the tail of the log, its slot and its pool voice given back. -/
structure BreakShut (t : Now) (r : Region) (b : OpenBreak) (st : RegionState) (p q : Play) : Prop where
  own : ∃ pool, q.region r = { p.region r with pool := pool }.unbreak st
  log : q.log = (p.appendRecord t (.brk (breakRecord t r b))).log
  voices : ∀ v, (p.voice v).WoundTo (q.voice v)
  others : (∀ v, (p.region r).pool = some v → ∀ y, (p.voice v).holder = some y → y = r) → ∀ y, y ≠ r → q.region y = p.region y
  waiters : q.waiters = p.waiters
  replies : RepliesKept p.agent q.agent

theorem closeBreak_spec {p : Play} {r : Region} {b : OpenBreak} (t : Now) (st : RegionState) (isOpen : (p.region r).brk = some b) :
    BreakShut t r b st p (p.closeBreak t r st) := by
  obtain ⟨a, logged, kept⟩ := takeLog_agent p t (p.log.append (.brk (breakRecord t r b)))
  have recorded : p.appendRecord t (.brk (breakRecord t r b)) =
      { p with log := (p.appendRecord t (.brk (breakRecord t r b))).log, agent := a } := logged
  unfold Play.closeBreak
  rw [withBreak_of _ isOpen]
  generalize atTail : (p.appendRecord t (.brk (breakRecord t r b))).log = l at recorded ⊢
  rw [recorded]
  have returned : Released ({ p with log := l, agent := a } : Play) _ := released_giveBackPool _ r
  have winds := winds_giveBackPool ({ p with log := l, agent := a } : Play) (r := r) (vs := fun v => (p.region r).pool = some v)
    fun _ pool => pool
  generalize Play.giveBackPool ({ p with log := l, agent := a } : Play) r = q at returned winds
  rw [giveBack_eq]
  obtain ⟨gates, form⟩ := leaveGates_form (q.setSlot r b.slot (q.slotBack r b.slot b.split.isSome)) r
  rw [form]
  have region : ∀ x, Play.region { q.setSlot r b.slot (q.slotBack r b.slot b.split.isSome) with gates := gates } x = q.region x := fun _ => rfl
  constructor
  case own =>
    obtain ⟨pool, lead, record⟩ := returned.regions r
    refine ⟨pool, ?_⟩
    rw [Play.region_modRegion, if_pos rfl, region, record]
    rfl
  case log => exact Eq.trans returned.log atTail.symm
  case voices => exact winds.voices
  case others =>
    intro held y other
    rw [Play.region_modRegion, if_neg (Ne.symm other), region]
    exact winds.others held y other
  case waiters => exact winds.waiters
  case replies => exact kept.trans winds.replies

/-- A record appended stands at the tail of the log. -/
theorem records_appendRecord (p : Play) (t : Now) (body : AsRunBody) :
    ∃ l, (p.appendRecord t body).log.records = l ++ [⟨p.log.appended.toNat % 2 ^ 32, body⟩] := by
  obtain ⟨l, form⟩ := p.log.records_append body
  refine ⟨l, ?_⟩
  have log : (p.appendRecord t body).log = _ := log_takeLog p t (p.log.append body)
  rw [log]
  exact form

/-! ## The completion of a lead-out (R30, R33) -/

theorem leadOutDone_iff (p : Play) (r : Region) : p.leadOutDone r = true ↔
    (p.region r).state = .leadout ∧ (p.region r).bed.ramp = none ∧ ∀ v ∈ p.voicesOf r, (p.voice v).active = false := by
  unfold Play.leadOutDone
  simp [and_assoc]

section
variable {p : Play} {r : Region}

theorem completeLeadOut_runsOn (t : Now) (runsOn : ¬ p.leadOutDone r = true) : p.completeLeadOut t r = p := if_neg runsOn

theorem completeLeadOut_returns {b : OpenBreak} (t : Now) (done : p.leadOutDone r = true) (isOpen : (p.region r).brk = some b)
    (early : b.closing = false) : p.completeLeadOut t r = p.setRegion r { p.region r with state := .returned } := by
  unfold Play.completeLeadOut
  rw [if_pos done, withBreak_of _ isOpen, early]
  rfl

theorem completeLeadOut_closes {b : OpenBreak} (t : Now) (done : p.leadOutDone r = true) (isOpen : (p.region r).brk = some b)
    (closing : b.closing = true) : p.completeLeadOut t r = p.closeBreak t r .network := by
  unfold Play.completeLeadOut
  rw [if_pos done, withBreak_of _ isOpen, closing]
  rfl

theorem completeLeadOut_voices (p : Play) (t : Now) (r : Region) (v : VoiceNo) : (p.voice v).WoundTo ((p.completeLeadOut t r).voice v) := by
  by_cases done : p.leadOutDone r = true
  · cases isOpen : (p.region r).brk with
    | none =>
      unfold Play.completeLeadOut Play.withBreak
      rw [if_pos done]
      simp only [isOpen]
      exact .inl rfl
    | some b =>
      cases closing : b.closing with
      | false =>
        rw [completeLeadOut_returns t done isOpen closing]
        exact .inl rfl
      | true =>
        rw [completeLeadOut_closes t done isOpen closing]
        exact (closeBreak_spec t .network isOpen).voices v
  · rw [completeLeadOut_runsOn t done]
    exact .inl rfl

end

/-! ## Which voice ends (R64, R71, R149) -/

theorem finishVoice_idle {p : Play} {v : VoiceNo} (t : Now) (r : Region) (calm : (p.voice v).finishDue = false) : p.finishVoice t r v = p := by
  obtain ⟨item, release⟩ := Bool.or_eq_false_iff.1 calm
  unfold Play.finishVoice
  rw [if_neg (by rw [item]; nofun), if_neg (by rw [release]; nofun)]

theorem finishVoice_release {p : Play} {v : VoiceNo} (t : Now) (r : Region) (item : (p.voice v).itemEndDue = false)
    (release : (p.voice v).releaseDue = true) :
    p.finishVoice t r v = ((p.closeVoiceEntry t r v .trimmed).releaseVoice v).completeLeadOut t r := by
  unfold Play.finishVoice
  rw [if_neg (by rw [item]; nofun), if_pos release]
  rfl

/-- Where no voice before it in run order ends, a voice ends alone. -/
theorem finishBefore_calm {p : Play} {r : Region} {v : VoiceNo} (t : Now)
    (first : ∀ u ∈ (p.voicesInRunOrder r).takeWhile (· != v), (p.voice u).finishDue = false) : p.finishBefore t r v = p :=
  foldl_fixed _ fun u inside => finishVoice_idle t r (first u inside)

theorem finishBefore_second {p : Play} {r : Region} {u v : VoiceNo} (t : Now) (order : p.voicesInRunOrder r = [u, v]) (apart : u ≠ v) :
    p.finishBefore t r v = p.finishVoice t r u := by
  unfold Play.finishBefore
  rw [order, List.takeWhile_cons_of_pos (by simpa using apart), List.takeWhile_cons_of_neg (by simp)]
  rfl

/-! ## A release ramp's end -/

section
variable {p : Play} {r : Region} {b : OpenBreak} {e : RunEntry} {v : VoiceNo}

theorem EntryEnded.runsOn {t : Now} {st : EntryStatus} {q : Play} (ended : EntryEnded t r b e v st p q)
    (runsOn : (p.region r).state ≠ .leadout ∨ (p.region r).bed.ramp ≠ none) : ¬ q.leadOutDone r = true := by
  obtain ⟨pool, lead, own⟩ := ended.own
  rw [leadOutDone_iff, own]
  rintro ⟨state, ramp, -⟩
  exact runsOn.elim (fun not => not state) fun not => not ramp

theorem EntryEnded.done {t : Now} {st : EntryStatus} {q : Play} (ended : EntryEnded t r b e v st p q)
    (state : (p.region r).state = .leadout) (ramp : (p.region r).bed.ramp = none)
    (still : ∀ u ∈ p.voicesOf r, u ≠ v → (p.voice u).active = false) : q.leadOutDone r = true := by
  obtain ⟨pool, lead, own⟩ := ended.own
  rw [leadOutDone_iff]
  refine ⟨by rw [own]; exact state, by rw [own]; exact ramp, fun u inside => ?_⟩
  by_cases same : u = v
  · rw [same]
    exact ended.voice
  · rw [ended.voices u same]
    exact still u (ended.winds.mem_voicesOf inside) same

end

section
variable {s : State} {r : Region} {v : VoiceNo}

theorem exec_bedRamp (assembling : s.assembling = true) (complete : (s.play.region r).bed.complete = true) :
    exec (.rampCompletion (.bed r)) s = .next (s.after (s.play.bedRampEnd s.now r)) := congrArg Host.Outcome.next (event_due _ assembling complete)

theorem exec_voiceRamp (assembling : s.assembling = true) (holder : (s.play.voice v).holder = some r)
    (playing : (s.play.voice v).state = .playing) (complete : (s.play.voice v).fader.complete = true) :
    exec (.rampCompletion (.voice v)) s = .next (s.after (s.play.voiceRampEnd s.now r v)) := by
  have due : (s.play.voice v).rampDue = true := by rw [Voice.rampDue, playing, complete]; rfl
  have arm : exec (.rampCompletion (.voice v)) s = .next (match (s.play.voice v).holder with
      | some r => s.event (s.play.voice v).rampDue fun p t => p.voiceRampEnd t r v
      | none => s) := rfl
  rw [arm, holder]
  exact congrArg Host.Outcome.next (event_due _ assembling due)

/-- The bed of a region with its ramp ended. -/
def RegionRec.bedEnded (x : RegionRec) : RegionRec := { x with bed := ⟨x.bed.level, none⟩ }

theorem bedRampEnd_leadin {p : Play} (t : Now) (leadin : (p.region r).state = .leadin) :
    p.bedRampEnd t r = p.setRegion r { (p.region r).bedEnded with state := .localPlay } := by
  have region : (p.setBed r Fader.finish).region r = (p.region r).bedEnded := by
    unfold Play.setBed
    rw [Play.region_modRegion, if_pos rfl]
    rfl
  have state : ((p.setBed r Fader.finish).region r).state = .leadin := by rw [region]; exact leadin
  unfold Play.bedRampEnd
  simp only [state]
  unfold Play.setState
  rw [Play.modRegion_eq, region]
  exact Play.setRegion_setRegion p r _ _

theorem bedRampEnd_leadout {p : Play} (t : Now) (leadout : (p.region r).state = .leadout) :
    p.bedRampEnd t r = (p.setRegion r (p.region r).bedEnded).completeLeadOut t r := by
  have state : ((p.setBed r Fader.finish).region r).state = .leadout := by
    unfold Play.setBed
    rw [Play.region_modRegion, if_pos rfl]
    exact leadout
  unfold Play.bedRampEnd
  simp only [state]
  rfl

theorem bedRampEnd_other {p : Play} (t : Now) (leadin : (p.region r).state ≠ .leadin) (leadout : (p.region r).state ≠ .leadout) :
    p.bedRampEnd t r = p.setRegion r (p.region r).bedEnded := by
  have state : ((p.setBed r Fader.finish).region r).state = (p.region r).state := by
    unfold Play.setBed
    rw [Play.region_modRegion, if_pos rfl]
  unfold Play.bedRampEnd
  dsimp only
  split
  · rename_i is
    exact absurd (state.symm.trans is) leadin
  · rename_i is
    exact absurd (state.symm.trans is) leadout
  · rfl

end

/-- Settles O20: a bed ramp's end by the region's state, and a voice's by what stands before it in run order and what ends with it. -/
theorem rampCompletion : Obligations.RampCompletion := by
  refine ⟨fun s g => ?_, fun s r assembling complete leadin => ?_, fun s r assembling complete => ?_,
    fun s v r assembling holder playing complete => ⟨fun keeps => ?_, fun releases head notEnd => ?_⟩,
    fun s v r b e assembling holder release notEnd isOpen run found => ?_⟩
  · by_cases zero : g = 0
    · refine ⟨s.levels, congrArg _ (if_pos zero), fun _ _ => rfl, ?_⟩
      rw [if_neg fun both => both.1 zero]
    · refine ⟨setGroup s.levels g s.levels[g].finishRamp, congrArg _ (if_neg zero), fun h other => setGroup_other _ _ _ _ (Ne.symm other), ?_⟩
      rw [setGroup_same]
      exact if_congr (by simp [zero]) rfl rfl
  · rw [exec_bedRamp assembling complete, bedRampEnd_leadin s.now leadin]
    rfl
  · intro ended still
    rw [exec_bedRamp assembling complete]
    refine ⟨fun leadin leadout => by rw [bedRampEnd_other s.now leadin leadout]; rfl, fun b leadout isOpen => ?_⟩
    rw [bedRampEnd_leadout s.now leadout]
    have region : (s.play.setRegion r (s.play.region r).bedEnded).region r = ended := (Play.region_setRegion _ r r _).trans (if_pos rfl)
    have isOpen' : ((s.play.setRegion r (s.play.region r).bedEnded).region r).brk = some b := by rw [region]; exact isOpen
    have done : (s.play.setRegion r (s.play.region r).bedEnded).leadOutDone r = true ↔ still := by
      rw [leadOutDone_iff, region]
      have voices : (s.play.setRegion r (s.play.region r).bedEnded).voicesOf r = s.play.voicesOf r := by
        unfold Play.voicesOf
        rw [region]
      rw [voices]
      exact ⟨fun all => all.2.2, fun all => ⟨leadout, rfl, all⟩⟩
    refine ⟨fun runsOn => ?_, fun isStill early => ?_, fun isStill closing => ?_⟩
    · rw [completeLeadOut_runsOn s.now fun isDone => runsOn (done.1 isDone)]
      rfl
    · rw [completeLeadOut_returns s.now (done.2 isStill) isOpen' early, Play.setRegion_setRegion, region]
    · rw [completeLeadOut_closes s.now (done.2 isStill) isOpen' closing]
      have shut := closeBreak_spec s.now .network isOpen'
      obtain ⟨pool, own⟩ := shut.own
      obtain ⟨l, records⟩ := records_appendRecord (s.play.setRegion r (s.play.region r).bedEnded) s.now (.brk (breakRecord s.now r b))
      rw [region] at own
      rw [← shut.log] at records
      exact ⟨_, rfl, by rw [own]; rfl, by rw [own]; rfl, by rw [own]; rfl, by rw [own]; rfl, l, breakRecord s.now r b, records, rfl, rfl,
        fun k cause => by simp only [breakRecord, cause, Option.getD_some], fun y split => by simp only [breakRecord, split], rfl, rfl, rfl, rfl⟩
  · rw [exec_voiceRamp assembling holder playing complete]
    refine congrArg (fun p => Host.Outcome.next (s.after p)) ?_
    unfold Play.voiceRampEnd
    rw [if_neg (by rw [keeps]; nofun)]
    rfl
  · refine ⟨_, exec_voiceRamp assembling holder playing complete, ?_⟩
    have due : (s.play.voice v).releaseDue = true := by rw [Voice.releaseDue, playing, complete, releases]; rfl
    have none' : (s.play.voicesInRunOrder r).takeWhile (· != v) = [] := by
      cases order : s.play.voicesInRunOrder r with
      | nil => rfl
      | cons u l =>
        rw [order] at head
        cases head
        exact List.takeWhile_cons_of_neg (by simp)
    unfold Play.voiceRampEnd
    rw [if_pos releases, finishBefore_calm s.now (by rw [none']; nofun), finishVoice_release s.now r notEnd due]
    exact (completeLeadOut_voices _ s.now r v).inactive ((Play.voice_releaseVoice _ v v).1 rfl)
  · intro item runsOn first
    obtain ⟨both, releases⟩ := Bool.and_eq_true_iff.1 release
    obtain ⟨playing, complete⟩ := Bool.and_eq_true_iff.1 both
    refine ⟨_, exec_voiceRamp assembling holder (beq_iff_eq.1 playing) complete, ?_⟩
    have ended := entryEnded s.now .trimmed isOpen run found
    have alone : first → s.play.voiceRampEnd s.now r v =
        ((s.play.closeVoiceEntry s.now r v .trimmed).releaseVoice v).completeLeadOut s.now r := by
      intro isFirst
      unfold Play.voiceRampEnd
      rw [if_pos releases, finishBefore_calm s.now isFirst, finishVoice_release s.now r notEnd release]
    have log : ((s.play.closeVoiceEntry s.now r v .trimmed).releaseVoice v).log = (s.play.appendItem s.now r (item e)).log := ended.log
    refine ⟨fun isFirst => ?_, fun isFirst isOn => ?_, fun isFirst isOff still => ?_, fun u d order apart release' notEnd' run' found' other isOn => ?_⟩
    · rw [alone isFirst]
      exact (completeLeadOut_voices _ s.now r v).inactive ended.voice
    · rw [alone isFirst, completeLeadOut_runsOn s.now (ended.runsOn isOn)]
      obtain ⟨pool, lead, own⟩ := ended.own
      exact ⟨log, by rw [own], _, ended.brk, rfl, fun x inside index => mem_entryClosed inside index⟩
    · rw [alone isFirst]
      obtain ⟨leadout, ramp⟩ := not_or.1 isOff
      have done := ended.done (not_not.1 leadout) (not_not.1 ramp) still
      obtain ⟨pool, lead, own⟩ := ended.own
      refine ⟨fun early => ?_, fun closing => ?_⟩
      · rw [completeLeadOut_returns s.now done ended.brk early]
        exact ⟨log, by rw [Play.region_setRegion, if_pos rfl]⟩
      · rw [completeLeadOut_closes s.now done ended.brk closing]
        have shut := closeBreak_spec s.now .network ended.brk
        obtain ⟨pool', own'⟩ := shut.own
        refine ⟨by rw [own']; rfl, by rw [own']; rfl, _, shut.log.trans (Play.log_appendRecord _ _ _ _ log), rfl, rfl, fun k cause => ?_, rfl, rfl⟩
        show b.endCause.getD .bypass = k
        rw [cause]
        rfl
    · have first' := entryEnded s.now .trimmed isOpen run' found'
      have shape : s.play.voiceRampEnd s.now r v =
          ((((s.play.closeVoiceEntry s.now r u .trimmed).releaseVoice u).closeVoiceEntry s.now r v .trimmed).releaseVoice v).completeLeadOut s.now r := by
        unfold Play.voiceRampEnd
        rw [if_pos releases, finishBefore_second s.now order apart, finishVoice_release s.now r notEnd' release',
          completeLeadOut_runsOn s.now (first'.runsOn isOn), finishVoice_release s.now r
            (by rw [first'.voices v (Ne.symm apart)]; exact notEnd) (by rw [first'.voices v (Ne.symm apart)]; exact release)]
      obtain ⟨pool, lead, own⟩ := first'.own
      have second := entryEnded s.now .trimmed first'.brk (by rw [first'.voices v (Ne.symm apart)]; exact run)
        ((findEntry_entryClosed (Ne.symm other) _ _).trans found)
      have isOn' : (((s.play.closeVoiceEntry s.now r u .trimmed).releaseVoice u).region r).state ≠ .leadout ∨
          (((s.play.closeVoiceEntry s.now r u .trimmed).releaseVoice u).region r).bed.ramp ≠ none := by
        rw [own]
        exact isOn
      rw [shape, completeLeadOut_runsOn s.now (second.runsOn isOn')]
      refine ⟨?_, second.voice, ?_⟩
      · rw [second.voices u apart]
        exact first'.voice
      · obtain ⟨a, form, -⟩ := appendItem_of s.now (item d) isOpen
        have isOpen' : ((s.play.appendItem s.now r (item d)).region r).brk = some { b with logged := some (b.noteAppend s.now s.play.log) } := by
          rw [form, Play.region_setRegion, if_pos rfl]
        exact second.log.trans (log_appendItem_same s.now (item e) isOpen' first'.brk first'.log rfl)

end Sys2Proof.Machine

/-! # A region wound down, and its closing lead-out (R31 to R33) -/

namespace Sys2Proof.Machine

theorem mem_voicesInRunOrder (p : Play) (r : Region) (v : VoiceNo) : v ∈ p.voicesInRunOrder r ↔ v ∈ p.voicesOf r := by
  unfold Play.voicesInRunOrder
  split
  · rename_i x y order
    rw [order]
    split
    · split
      · rfl
      · exact List.Perm.mem_iff (List.Perm.swap _ _ _)
    · exact List.Perm.mem_iff (List.Perm.swap _ _ _)
    · rfl
  · rfl

/-! ## The starts of the sample undone (R32, log 60) -/

section
variable {p : Play} {r : Region} {vs : VoiceNo → Prop}

/-- The entry that a voice has started is PENDING again. -/
def Play.unstarted (p : Play) (r : Region) (v : VoiceNo) : Play := match (p.voice v).run with
  | none => p
  | some i => p.modBreak r fun b => { b with run := modEntry b.run i RunEntry.unstart, itemsAired := b.itemsAired - 1 }

theorem undoStart_eq (p : Play) (t : Now) (r : Region) (v : VoiceNo) : p.undoStart t r v =
    if ((p.voice v).state == .playing && (p.voice v).startedAt == some t.count) = true then (p.unstarted r v).releaseVoice v else p := by
  unfold Play.undoStart Play.unstarted
  refine if_congr Iff.rfl ?_ rfl
  cases (p.voice v).run <;> rfl

theorem winds_unstarted (p : Play) (v : VoiceNo) : Winds r vs (p.region r).bed p (p.unstarted r v) := by
  unfold Play.unstarted
  split
  · exact .refl r vs p
  · rename_i i run
    cases isOpen : (p.region r).brk with
    | none =>
      have same : (p.modBreak r fun b => { b with run := modEntry b.run i RunEntry.unstart, itemsAired := b.itemsAired - 1 }) = p := by
        unfold Play.modBreak Play.modRegion
        dsimp only
        rw [isOpen, Option.map_none, ← isOpen]
        exact Play.setRegion_same p r
      rw [same]
      exact .refl r vs p
    | some b =>
      have wound : b.Wound { b with run := modEntry b.run i RunEntry.unstart, itemsAired := b.itemsAired - 1 } :=
        ⟨fun e => if e.index = i then e.unstart else e, b.logged, b.itemsAired - 1, rfl, Nat.sub_le _ _,
          fun e => by dsimp only; split <;> rfl⟩
      rw [modBreak_of _ isOpen]
      exact winds_break isOpen wound p.log (.refl p.agent)

theorem winds_undoStart (p : Play) (t : Now) {v : VoiceNo} (inside : vs v) : Winds r vs (p.region r).bed p (p.undoStart t r v) := by
  rw [undoStart_eq]
  split
  · have first := winds_unstarted (r := r) (vs := vs) p v
    have second := winds_releaseVoice (r := r) (p.unstarted r v) inside
    rw [first.bed_eq] at second
    exact first.trans second
  · exact .refl r vs p

theorem voice_unstarted (p : Play) (r : Region) (v u : VoiceNo) : (p.unstarted r v).voice u = p.voice u := by
  unfold Play.unstarted
  split <;> rfl

theorem winds_restoreStart {b : OpenBreak} (t : Now) (isOpen : (p.region r).brk = some b) :
    Winds r vs (b.bedBefore t.count (p.region r).bed) p (p.restoreStart t r) := by
  have unchanged (bed : Fader) (same : bed = (p.region r).bed) : Winds r vs bed p p := same ▸ .refl r vs p
  unfold Play.restoreStart OpenBreak.bedBefore
  rw [withBreak_of _ isOpen]
  cases before : b.before with
  | none => exact unchanged _ rfl
  | some k =>
    dsimp only
    by_cases here : k.count = t.count
    · simp only [if_pos here]
      have region : (p.modRegion r fun x => { x with bed := k.bed, lead := k.lead }).region r =
          { p.region r with bed := k.bed, lead := k.lead } := by rw [Play.region_modRegion, if_pos rfl]
      have first : Winds r vs k.bed p (p.modRegion r fun x => { x with bed := k.bed, lead := k.lead }) := by
        refine ⟨⟨_, _, _, region⟩, fun b isOpen => ⟨b, by rw [region]; exact isOpen, .refl b⟩, .inl (by rw [region]), fun _ => .inl rfl,
          fun _ => .inl rfl, fun _ y other => ?_, rfl, rfl, rfl, rfl, .refl _⟩
        rw [Play.region_modRegion, if_neg (Ne.symm other)]
      split
      · rename_i v f out
        split
        · rename_i playing
          have second : Winds r vs ((p.modRegion r fun x => { x with bed := k.bed, lead := k.lead }).region r).bed _ _ :=
            winds_modVoice (p.modRegion r fun x => { x with bed := k.bed, lead := k.lead }) (v := v) (f := fun x => { x with fader := f }) rfl
              (beq_iff_eq.1 playing) rfl rfl
          rw [first.bed_eq] at second
          exact first.trans second
        · exact first
      · exact first
    · simp only [if_neg here]
      exact unchanged _ rfl

/-! ## The PENDING entries trimmed (R32) -/

theorem winds_trimPending (p : Play) (t : Now) : Winds r vs (p.region r).bed p (p.trimPending t r) := by
  unfold Play.trimPending Play.withBreak
  split
  · exact .refl r vs p
  · exact Winds.foldl _ (fun e _ q => winds_closeEntry q t e.index .trimmed t.air) p

theorem voice_trimPending (p : Play) (t : Now) (r : Region) (v : VoiceNo) : (p.trimPending t r).voice v = p.voice v := by
  have fold : ∀ (l : List RunEntry) (q : Play), (l.foldl (fun q e => q.closeEntry t r e.index .trimmed t.air) q).voice v = q.voice v := by
    intro l
    induction l with
    | nil => exact fun _ => rfl
    | cons e l ih => exact fun q => (ih _).trans (voice_closeEntry q t r e.index .trimmed t.air v)
  unfold Play.trimPending Play.withBreak
  split
  · rfl
  · exact fold _ p

/-- The entries of a region's break that are PENDING are among those of some indices. -/
def PendingWithin (r : Region) (is : List Nat) (p : Play) : Prop :=
  ∀ b, (p.region r).brk = some b → ∀ e ∈ b.run, e.status = .pending → e.index ∈ is

theorem pendingWithin_closeEntry {i : Nat} {is : List Nat} (t : Now) (start : AirTime) (within : PendingWithin r (i :: is) p) :
    PendingWithin r is (p.closeEntry t r i .trimmed start) := by
  intro c isOpen x inside pending
  cases isOpen' : (p.region r).brk with
  | none =>
    unfold Play.closeEntry Play.withBreak at isOpen
    simp only [isOpen'] at isOpen
    cases isOpen
  | some b =>
    cases found : findEntry b.run i with
    | none =>
      rw [closeEntry_none t .trimmed start isOpen' found] at isOpen
      rcases List.mem_cons.1 (within c isOpen x inside pending) with index | later
      · rw [isOpen] at isOpen'
        cases isOpen'
        exact absurd (beq_iff_eq.2 index) (List.find?_eq_none.1 found x inside)
      · exact later
    | some e =>
      obtain ⟨a, form, -⟩ := closeEntry_of t .trimmed start isOpen' found
      rw [form, Play.region_setRegion, if_pos rfl] at isOpen
      cases isOpen
      by_cases index : x.index = i
      · rw [mem_entryClosed inside index] at pending
        cases pending
      · obtain ⟨y, member, rfl⟩ := List.mem_map.1 inside
        by_cases own : y.index = i
        · rw [if_pos own] at index
          exact absurd own index
        · rw [if_neg own] at pending ⊢
          exact (List.mem_cons.1 (within b isOpen' y member pending)).resolve_left own

theorem trimPending_none (p : Play) (t : Now) (r : Region) : PendingWithin r [] (p.trimPending t r) := by
  have fold : ∀ (l : List RunEntry) (q : Play), PendingWithin r (l.map RunEntry.index) q →
      PendingWithin r [] (l.foldl (fun q e => q.closeEntry t r e.index .trimmed t.air) q) := by
    intro l
    induction l with
    | nil => exact fun q within => within
    | cons e l ih => exact fun q within => ih _ (pendingWithin_closeEntry t t.air within)
  unfold Play.trimPending Play.withBreak
  split
  · rename_i closed
    intro b isOpen
    rw [closed] at isOpen
    cases isOpen
  · rename_i b isOpen
    refine fold _ p fun c isOpen' e inside pending => ?_
    rw [isOpen] at isOpen'
    cases isOpen'
    exact List.mem_map_of_mem (List.mem_filter.2 ⟨inside, beq_iff_eq.2 pending⟩)

/-! ## The voices ramped out (R32, R71) -/

/-- A playing voice begins its ramp out, or is released at once where that is complete at its start. -/
theorem rampOut_playing {v : VoiceNo} (t : Now) (r : Region) (ms : Nat) (playing : (p.voice v).state = .playing) : p.rampOut t r ms v =
    if ms = 0 ∨ (p.voice v).fader.level = 0 then
      ((p.modVoice v fun x => x.rampingOut ms).closeVoiceEntry t r v .trimmed).releaseVoice v
    else p.modVoice v fun x => x.rampingOut ms := by
  unfold Play.rampOut
  rw [if_pos (beq_iff_eq.2 playing)]
  refine if_congr ?_ rfl rfl
  have fader : ((p.modVoice v fun x => x.rampingOut ms).voice v).fader = (p.voice v).fader.begin 0 ms := by
    obtain ⟨u, ring, pending, form⟩ := rampingOut_form (p.voice v) ms
    rw [Play.voice_modVoice, if_pos rfl, form]
  rw [Option.isNone_iff_eq_none, ← begin_done (p.voice v).fader 0 ms, ← fader]
  rfl

theorem rampOut_stops (p : Play) (t : Now) (r : Region) {ms : Nat} {v : VoiceNo} (stops : ms = 0 ∨ (p.voice v).state ≠ .playing) :
    ((p.rampOut t r ms v).voice v).active = false := by
  by_cases playing : (p.voice v).state = .playing
  · rw [rampOut_playing t r ms playing, if_pos (.inl (stops.resolve_right fun not => not playing))]
    exact (Play.voice_releaseVoice _ v v).1 rfl
  · unfold Play.rampOut
    rw [if_neg fun is => playing (beq_iff_eq.1 is)]
    exact (Play.voice_releaseVoice _ v v).1 rfl

/-- Voices that do not play, or that ramp out at once, are inactive when all have been ramped out. -/
theorem rampOuts_stop (t : Now) (r : Region) (ms : Nat) (l : List VoiceNo) (p : Play)
    (stops : ∀ v ∈ l, ms = 0 ∨ (p.voice v).state ≠ .playing) :
    ∀ v ∈ l, ((l.foldl (fun q v => q.rampOut t r ms v) p).voice v).active = false := by
  induction l generalizing p with
  | nil => nofun
  | cons w l ih =>
    intro v inside
    have first : Winds r (fun _ => True) (p.region r).bed p (p.rampOut t r ms w) := winds_rampOut p t ms trivial
    have rest : Winds r (fun _ => True) _ (p.rampOut t r ms w) (l.foldl (fun q v => q.rampOut t r ms v) (p.rampOut t r ms w)) :=
      Winds.foldl l (fun u _ q => winds_rampOut q t ms trivial) _
    rcases List.mem_cons.1 inside with rfl | later
    · exact (rest.voices v).inactive (rampOut_stops p t r (stops v List.mem_cons_self))
    · refine ih (p.rampOut t r ms w) (fun u within => (stops u (List.mem_cons_of_mem _ within)).imp_right fun not playing => ?_) v later
      exact not ((first.voices u).playing playing).1

/-! ## A voice that ramps out (R32) -/

/-- A voice that a lead-out of a sample ramps out over some time, as `RampsOut` says it of a voice record. -/
def Voice.RampsOn (x : Voice) (count : Nat) : Prop :=
  x.state = .playing ∧ x.itemEndDue = false ∧ x.startedAt ≠ some count ∧ x.fader.level ≠ 0

theorem RampsOn.active {x : Voice} {count : Nat} (ramps : x.RampsOn count) : x.active = true := by
  rw [Voice.active, ramps.1]
  rfl

theorem rampsOn_finishAtEnd {v : VoiceNo} (t : Now) (ramps : (p.voice v).RampsOn t.count) (w : VoiceNo) :
    ((p.finishAtEnd t r w).voice v).RampsOn t.count := by
  unfold Play.finishAtEnd
  split
  · rename_i ends
    have apart : w ≠ v := by
      rintro rfl
      rw [ramps.2.1] at ends
      cases ends
    rw [(Play.voice_releaseVoice _ w v).2 apart, voice_closeVoiceEntry]
    exact ramps
  · exact ramps

theorem rampsOn_undoStart {v : VoiceNo} (t : Now) (ramps : (p.voice v).RampsOn t.count) (w : VoiceNo) :
    ((p.undoStart t r w).voice v).RampsOn t.count := by
  rw [undoStart_eq]
  split
  · rename_i starts
    have apart : w ≠ v := by
      rintro rfl
      exact ramps.2.2.1 (beq_iff_eq.1 (Bool.and_eq_true_iff.1 starts).2)
    rw [(Play.voice_releaseVoice _ w v).2 apart, voice_unstarted]
    exact ramps
  · exact ramps

theorem begin_level (f : Fader) (target : Nat) {ms : Nat} (takes : ms ≠ 0) (far : f.level ≠ target) : (f.begin target ms).level = f.level := by
  unfold Fader.begin
  dsimp only
  rw [if_neg (by omega)]

theorem rampsOn_rampOut {v : VoiceNo} {ms : Nat} (t : Now) (takes : ms ≠ 0) (ramps : (p.voice v).RampsOn t.count) (w : VoiceNo) :
    ((p.rampOut t r ms w).voice v).RampsOn t.count := by
  obtain ⟨playing, notEnd, notStart, level⟩ := ramps
  have other (apart : w ≠ v) (q : Play) (same : q.voice v = p.voice v) : ((q.releaseVoice w).voice v).RampsOn t.count := by
    rw [(Play.voice_releaseVoice _ w v).2 apart, same]
    exact ⟨playing, notEnd, notStart, level⟩
  by_cases plays : (p.voice w).state = .playing
  · by_cases same : w = v
    · subst same
      obtain ⟨u, ring, pending, form⟩ := rampingOut_form (p.voice w) ms
      rw [rampOut_playing t r ms plays, if_neg (not_or.2 ⟨takes, level⟩), Play.voice_modVoice, if_pos rfl, form]
      exact ⟨playing, notEnd, notStart, fun zero => level ((begin_level _ 0 takes level).symm.trans zero)⟩
    · have moved : (p.modVoice w fun x => x.rampingOut ms).voice v = p.voice v := by rw [Play.voice_modVoice, if_neg same]
      rw [rampOut_playing t r ms plays]
      split
      · exact other same _ ((voice_closeVoiceEntry _ t r w .trimmed v).trans moved)
      · rw [moved]
        exact ⟨playing, notEnd, notStart, level⟩
  · have apart : w ≠ v := fun same => plays (same ▸ playing)
    unfold Play.rampOut
    rw [if_neg fun is => plays (beq_iff_eq.1 is)]
    exact other apart p rfl

theorem rampsOn_foldl {v : VoiceNo} {count : Nat} {f : Play → VoiceNo → Play}
    (each : ∀ q w, (q.voice v).RampsOn count → ((f q w).voice v).RampsOn count) (l : List VoiceNo) (ramps : (p.voice v).RampsOn count) :
    ((l.foldl f p).voice v).RampsOn count := by
  induction l generalizing p with
  | nil => exact ramps
  | cons w l ih => exact ih (each p w ramps)

end

end Sys2Proof.Machine

/-! # Break ends (O19, O45) -/

namespace Sys2Proof.Machine

/-! ## A region wound down (R32) -/

theorem winds_of_bed {r : Region} {vs : VoiceNo → Prop} {bed : Fader} {p q u : Play} (first : Winds r vs bed p q)
    (second : Winds r vs (q.region r).bed q u) : Winds r vs bed p u := by
  rw [first.bed_eq] at second
  exact first.trans second

/-- What a region wound down over `ms` leaves, before its place in the waiting list goes: no entry PENDING, its voices inactive but those
that ramp out. -/
structure WoundDown (t : Now) (r : Region) (ms : Nat) (undo : Bool) (b : OpenBreak) (p q : Play) : Prop where
  winds : ∀ vs : VoiceNo → Prop, (∀ v ∈ p.voicesOf r, vs v) →
    Winds r vs (if undo then b.bedBefore t.count (p.region r).bed else (p.region r).bed) p q
  pending : PendingWithin r [] q
  stopped : ms = 0 ∨ (∀ v ∈ p.voicesOf r, (p.voice v).state ≠ .playing) → ∀ v ∈ p.voicesOf r, (q.voice v).active = false
  ramps : ms ≠ 0 → (∀ k, b.before = some k → k.count ≠ t.count) → ∀ v ∈ p.voicesOf r, (p.voice v).RampsOn t.count →
    (q.voice v).active = true ∧ v ∈ q.voicesOf r

theorem restoreStart_stays {p : Play} {r : Region} {b : OpenBreak} (t : Now) (isOpen : (p.region r).brk = some b)
    (old : ∀ k, b.before = some k → k.count ≠ t.count) : p.restoreStart t r = p := by
  unfold Play.restoreStart
  rw [withBreak_of _ isOpen]
  cases before : b.before with
  | none => rfl
  | some k => exact if_neg (old k before)

theorem OpenBreak.Wound.before {b c : OpenBreak} (wound : b.Wound c) : c.before = b.before := by
  obtain ⟨g, logged, aired, rfl, -⟩ := wound.form
  rfl

theorem windDown_spec {p : Play} {r : Region} {b : OpenBreak} (t : Now) (ms : Nat) (undo : Bool) (isOpen : (p.region r).brk = some b) :
    ∃ q, p.windDown t r ms undo = q.withdraw r ∧ WoundDown t r ms undo b p q := by
  let p1 := (p.voicesInRunOrder r).foldl (fun q v => q.finishAtEnd t r v) p
  let p2 := if undo then p1.undoStarts t r else p1
  let p3 := (p2.voicesInRunOrder r).foldl (fun q v => q.rampOut t r ms v) p2
  have first (vs : VoiceNo → Prop) (inside : ∀ v ∈ p.voicesOf r, vs v) : Winds r vs (p.region r).bed p p1 :=
    Winds.foldl _ (fun v within q => winds_finishAtEnd q t (inside v ((mem_voicesInRunOrder p r v).1 within))) p
  obtain ⟨b1, isOpen1, wound1⟩ := (first (fun _ => True) fun _ _ => trivial).brk b isOpen
  have second (vs : VoiceNo → Prop) (inside : ∀ v ∈ p.voicesOf r, vs v) :
      Winds r vs (if undo then b.bedBefore t.count (p.region r).bed else (p.region r).bed) p p2 := by
    have first' := first vs inside
    cases undo with
    | false => exact first'
    | true =>
      let q := (p1.voicesInRunOrder r).foldl (fun q v => q.undoStart t r v) p1
      have undone : Winds r vs (p1.region r).bed p1 q := Winds.foldl _ (fun v within u =>
        winds_undoStart u t (inside v (first'.mem_voicesOf ((mem_voicesInRunOrder p1 r v).1 within)))) p1
      have both := winds_of_bed first' undone
      obtain ⟨c, isOpen', wound⟩ := both.brk b isOpen
      have restored : Winds r vs (c.bedBefore t.count (q.region r).bed) q (q.restoreStart t r) := winds_restoreStart t isOpen'
      rw [both.bed_eq, OpenBreak.bedBefore, wound.before] at restored
      exact both.trans restored
  have within2 {v : VoiceNo} (inside : v ∈ p2.voicesInRunOrder r) : v ∈ p.voicesOf r :=
    (second (fun _ => True) fun _ _ => trivial).mem_voicesOf ((mem_voicesInRunOrder p2 r v).1 inside)
  have third (vs : VoiceNo → Prop) (inside : ∀ v ∈ p.voicesOf r, vs v) : Winds r vs (p2.region r).bed p2 p3 :=
    Winds.foldl _ (fun v within q => winds_rampOut q t ms (inside v (within2 within))) p2
  have fourth (vs : VoiceNo → Prop) : Winds r vs (p3.region r).bed p3 (p3.trimPending t r) := winds_trimPending p3 t
  have whole (vs : VoiceNo → Prop) (inside : ∀ v ∈ p.voicesOf r, vs v) := winds_of_bed (winds_of_bed (second vs inside) (third vs inside)) (fourth vs)
  refine ⟨p3.trimPending t r, rfl, whole, trimPending_none p3 t r, fun stops v inside => ?_, fun takes old v inside ramps => ?_⟩
  · have all := second (fun _ => True) fun _ _ => trivial
    refine ((fourth (fun _ => True)).voices v).inactive ?_
    by_cases still : (p2.voice v).active = true
    · refine rampOuts_stop t r ms _ p2 (fun u within => stops.imp_right fun not playing => ?_) v
        ((mem_voicesInRunOrder p2 r v).2 (all.mem_voicesOf_active inside still))
      exact not u (within2 within) ((all.voices u).playing playing).1
    · exact ((third (fun _ => True) fun _ _ => trivial).voices v).inactive (Bool.not_eq_true _ ▸ still)
  · have ramps1 : (p1.voice v).RampsOn t.count := rampsOn_foldl (fun q w ramps => rampsOn_finishAtEnd t ramps w) _ ramps
    have ramps2 : (p2.voice v).RampsOn t.count := by
      cases undo with
      | false => exact ramps1
      | true =>
        let q := (p1.voicesInRunOrder r).foldl (fun q v => q.undoStart t r v) p1
        have undone : Winds r (fun _ => True) (p1.region r).bed p1 q := Winds.foldl _ (fun v _ u => winds_undoStart u t trivial) p1
        obtain ⟨c, isOpen', wound⟩ := undone.brk b1 isOpen1
        have stays : p2 = q := restoreStart_stays t isOpen' (by rw [wound.before, wound1.before]; exact old)
        rw [stays]
        exact rampsOn_foldl (fun u w ramps => rampsOn_undoStart t ramps w) _ ramps1
    have ramps3 : (p3.voice v).RampsOn t.count := rampsOn_foldl (fun q w ramps => rampsOn_rampOut t takes ramps w) _ ramps2
    have active : ((p3.trimPending t r).voice v).active = true := by
      rw [voice_trimPending]
      exact RampsOn.active ramps3
    exact ⟨active, (whole (fun _ => True) fun _ _ => trivial).mem_voicesOf_active inside active⟩

/-! ## The closing lead-out (R31 to R33) -/

/-- The lead-out begun by a break end, before its completion is tested: the bed ramps to 231 from `bed`, the break is ended, its entries
and voices are wound down. -/
structure ClosingBegun (t : Now) (r : Region) (b : OpenBreak) (cause : EndCause) (ms : Nat) (p q : Play) : Prop where
  state : (q.region r).state = .leadout
  bed : (q.region r).bed = (b.bedBefore t.count (p.region r).bed).begin 231 ms
  brk : ∃ c, (q.region r).brk = some (c.ended t cause) ∧ b.Wound c ∧ ∀ e ∈ c.run, e.status ≠ .pending
  stopped : ms = 0 ∨ (∀ v ∈ p.voicesOf r, (p.voice v).state ≠ .playing) → ∀ v ∈ q.voicesOf r, (q.voice v).active = false
  ramps : ms ≠ 0 → (∀ k, b.before = some k → k.count ≠ t.count) → ∀ v ∈ p.voicesOf r, (p.voice v).RampsOn t.count →
    (q.voice v).active = true ∧ v ∈ q.voicesOf r

theorem closingLeadOut_begins {p : Play} {r : Region} {b : OpenBreak} (t : Now) (cause : EndCause) (rejoins : Bool)
    (isOpen : (p.region r).brk = some b) : ∃ q, ClosingBegun t r b cause (p.heldPlan r b).leadOutMs p q ∧
    p.closingLeadOut t r cause rejoins =
      if (rejoins && decide (0 < (p.heldPlan r b).leadOutMs)) = true then q else q.completeLeadOut t r := by
  obtain ⟨u, form, wound⟩ := windDown_spec t (p.heldPlan r b).leadOutMs true isOpen
  have winds := wound.winds (fun _ => True) fun _ _ => trivial
  obtain ⟨c, isOpen', isWound⟩ := winds.brk b isOpen
  unfold Play.closingLeadOut
  rw [withBreak_of _ isOpen]
  dsimp only
  rw [form, modBreak_of (p := u.withdraw r) _ isOpen', Play.modRegion_eq, Play.setRegion_setRegion, Play.region_setRegion, if_pos rfl]
  generalize (p.heldPlan r b).leadOutMs = ms at wound ⊢
  let x : RegionRec := { u.region r with
    brk := some (c.ended t cause), state := .leadout, bed := (u.region r).bed.begin 231 ms, arriving := none, opening := none }
  obtain ⟨gates, left⟩ := leaveGates_form ((u.withdraw r).setRegion r x) r
  have shape : ((u.withdraw r).setRegion r { (u.withdraw r).region r with
    brk := some (c.ended t cause), state := .leadout, bed := ((u.withdraw r).region r).bed.begin 231 ms, arriving := none
    opening := none }).leaveGates r = { (u.withdraw r).setRegion r x with gates := gates } := left
  rw [shape]
  have record : Play.region { (u.withdraw r).setRegion r x with gates := gates } r = x :=
    (Play.region_setRegion (u.withdraw r) r r x).trans (if_pos rfl)
  have voicesOf : Play.voicesOf { (u.withdraw r).setRegion r x with gates := gates } r = u.voicesOf r := by
    unfold Play.voicesOf
    rw [record]
  refine ⟨_, ⟨congrArg RegionRec.state record, (congrArg RegionRec.bed record).trans ?_, ⟨c, congrArg RegionRec.brk record, isWound,
    fun e inside pending => ?_⟩, fun stops v inside => ?_, fun takes old v inside ramps => ?_⟩, rfl⟩
  · have bed : (u.region r).bed = b.bedBefore t.count (p.region r).bed := winds.bed_eq
    rw [← bed]
  · exact absurd (wound.pending c isOpen' e inside pending) List.not_mem_nil
  · rw [voicesOf] at inside
    exact wound.stopped stops v (winds.mem_voicesOf inside)
  · rw [voicesOf]
    exact wound.ramps takes old v inside ramps

/-! ## A break end by the region's state (R31, R34) -/

section
variable {p : Play} {r : Region} {b : OpenBreak} {t : Now} {cause : EndCause} {rejoins : Bool}

theorem breakEnd_running (isOpen : (p.region r).brk = some b)
    (running : (p.region r).state ∈ [RegionState.leadin, .localPlay, .gated, .fill]) :
    p.breakEnd t r cause rejoins = p.closingLeadOut t r cause rejoins := by
  unfold Play.breakEnd
  rw [withBreak_of _ isOpen]
  simp only [List.mem_cons, List.not_mem_nil, or_false] at running
  rcases running with is | is | is | is
  all_goals simp only [is]

theorem breakEnd_leadout (isOpen : (p.region r).brk = some b) (leadout : (p.region r).state = .leadout) :
    p.breakEnd t r cause rejoins =
      if !b.closing then
        p.modBreak r fun b => { b with endCause := some cause, closing := true, timerRuns := false, endedAt := some t.count }
      else if cause == .rejoinCue && b.endCause == some .timeout && b.endedAt == some t.count then
        (p.modBreak r fun b => { b with endCause := some .rejoinCue }).completeLeadOut t r
      else p := by
  unfold Play.breakEnd
  rw [withBreak_of _ isOpen]
  simp only [leadout]

theorem breakEnd_early (isOpen : (p.region r).brk = some b) (leadout : (p.region r).state = .leadout) (early : b.closing = false) :
    p.breakEnd t r cause rejoins = p.setRegion r { p.region r with
      brk := some { b with endCause := some cause, closing := true, timerRuns := false, endedAt := some t.count } } := by
  rw [breakEnd_leadout isOpen leadout, early]
  exact modBreak_of _ isOpen

theorem breakEnd_closing (isOpen : (p.region r).brk = some b) (leadout : (p.region r).state = .leadout) (closing : b.closing = true) :
    p.breakEnd t r cause rejoins =
      if cause = .rejoinCue ∧ b.endCause = some .timeout ∧ b.endedAt = some t.count then
        (p.setRegion r { p.region r with brk := some { b with endCause := some .rejoinCue } }).completeLeadOut t r
      else p := by
  rw [breakEnd_leadout isOpen leadout]
  refine (if_neg (by rw [closing]; nofun)).trans ?_
  rw [modBreak_of _ isOpen]
  exact if_congr (by simp [and_assoc]) rfl rfl

theorem breakEnd_returned (isOpen : (p.region r).brk = some b) (returned : (p.region r).state = .returned) :
    p.breakEnd t r cause rejoins =
      (p.setRegion r { p.region r with brk := some { b with endCause := some cause, timerRuns := false } }).closeBreak t r .network := by
  have arm : p.breakEnd t r cause rejoins =
      (p.modBreak r fun b => { b with endCause := some cause, timerRuns := false }).closeBreak t r .network := by
    unfold Play.breakEnd
    rw [withBreak_of _ isOpen]
    simp only [returned]
  rw [arm, modBreak_of _ isOpen]

/-- A break closed: its region in NETWORK with the bed as it was, its record at the tail. -/
theorem closeBreak_tail (st : RegionState) (isOpen : (p.region r).brk = some b) : let q := p.closeBreak t r st
    (q.region r).state = st ∧ (q.region r).brk = none ∧ (q.region r).lead = none ∧ (q.region r).bed = (p.region r).bed ∧
      ∃ l, q.log.records = l ++ [⟨p.log.appended.toNat % 2 ^ 32, .brk (breakRecord t r b)⟩] := by
  have shut := closeBreak_spec t st isOpen
  obtain ⟨pool, own⟩ := shut.own
  obtain ⟨l, records⟩ := records_appendRecord p t (.brk (breakRecord t r b))
  rw [← shut.log] at records
  exact ⟨by rw [own]; rfl, by rw [own]; rfl, by rw [own]; rfl, by rw [own]; rfl, l, records⟩

theorem breakEnd_returned_tail (isOpen : (p.region r).brk = some b) (returned : (p.region r).state = .returned) :
    let q := p.breakEnd t r cause rejoins
    (q.region r).state = .network ∧ (q.region r).brk = none ∧ (q.region r).bed = (p.region r).bed ∧
      ∃ l x, q.log.records = l ++ [⟨p.log.appended.toNat % 2 ^ 32, .brk x⟩] ∧ x.region = r ∧ x.breakId = b.breakId ∧ x.cause = cause ∧
        x.close = t.air ∧ x.lateStart = b.lateStart ∧ x.fillSamples = b.fillSamples ∧ x.itemsAired = b.itemsAired := by
  intro q
  have region : (p.setRegion r { p.region r with brk := some { b with endCause := some cause, timerRuns := false } }).region r =
      { p.region r with brk := some { b with endCause := some cause, timerRuns := false } } :=
    (Play.region_setRegion p r r _).trans (if_pos rfl)
  obtain ⟨state, brk, -, bed, l, records⟩ := closeBreak_tail (t := t) .network (congrArg RegionRec.brk region)
  rw [← breakEnd_returned (rejoins := rejoins) isOpen returned] at state brk bed records
  rw [region] at bed
  exact ⟨state, brk, bed, l, _, records, rfl, rfl, rfl, rfl, rfl, rfl, rfl⟩

end

section
variable {s : State} {r : Region} {b : OpenBreak} {cause : EndCause}

/-- The lead-out begun is not complete while its bed ramps. -/
theorem ClosingBegun.ramping {ms : Nat} {q : Play} (begun : ClosingBegun s.now r b cause ms s.play q) (takes : 0 < ms)
    (far : (b.bedBefore s.link.count (s.play.region r).bed).level ≠ 231) : ¬ q.leadOutDone r = true := by
  rw [leadOutDone_iff, begun.bed]
  rintro ⟨-, ramp, -⟩
  exact ((begin_done _ 231 ms).1 ramp).elim (Nat.pos_iff_ne_zero.1 takes) far

/-- The lead-out begun, its fields. -/
theorem ClosingBegun.fields {ms : Nat} {q : Play} (begun : ClosingBegun s.now r b cause ms s.play q) :
    (q.region r).state = .leadout ∧ (q.region r).bed = (b.bedBefore s.link.count (s.play.region r).bed).begin 231 ms ∧
      ∃ b', (q.region r).brk = some b' ∧ b'.endCause = some cause ∧ b'.closing = true ∧ b'.timerRuns = false ∧
        ∀ e ∈ b'.run, e.status ≠ .pending := by
  obtain ⟨c, isOpen, -, none'⟩ := begun.brk
  exact ⟨begun.state, begun.bed, _, isOpen, rfl, rfl, rfl, none'⟩

theorem begin_at (f : Fader) (target ms : Nat) (done : ms = 0 ∨ f.level = target) : f.begin target ms = ⟨target, none⟩ := by
  unfold Fader.begin
  dsimp only
  rw [if_pos (by omega)]

/-- The lead-out begun is complete where its bed stands at 231 and its voices are inactive, and closes the break. -/
theorem ClosingBegun.closes {ms : Nat} {q : Play} (begun : ClosingBegun s.now r b cause ms s.play q)
    (done : ms = 0 ∨ (b.bedBefore s.link.count (s.play.region r).bed).level = 231)
    (still : ms = 0 ∨ ∀ v ∈ s.play.voicesOf r, (s.play.voice v).state ≠ .playing) :
    BreakClosed s (q.completeLeadOut s.now r) r b cause := by
  obtain ⟨c, isOpen, wound, -⟩ := begun.brk
  have stands : (q.region r).bed = ⟨231, none⟩ := begun.bed.trans (begin_at _ 231 ms done)
  have isDone : q.leadOutDone r = true := (leadOutDone_iff q r).2 ⟨begun.state, by rw [stands], begun.stopped still⟩
  obtain ⟨state, brk, -, bed, l, records⟩ := closeBreak_tail (t := s.now) .network isOpen
  rw [completeLeadOut_closes s.now isDone isOpen rfl]
  obtain ⟨g, logged, aired, rfl, -⟩ := wound.form
  exact ⟨state, brk, bed.trans stands, l, _, _, records, rfl, rfl, rfl, rfl⟩

theorem rampsOut_iff (v : VoiceNo) : RampsOut s b v ↔
    (s.play.voice v).RampsOn s.now.count ∧ ∀ k, b.before = some k → k.count ≠ s.now.count :=
  ⟨fun ⟨playing, notEnd, notStart, level, old⟩ => ⟨⟨playing, notEnd, notStart, level⟩, old⟩,
    fun ⟨⟨playing, notEnd, notStart, level⟩, old⟩ => ⟨playing, notEnd, notStart, level, old⟩⟩

/-- The lead-out begun stays open while a voice ramps out. -/
theorem ClosingBegun.stays {ms : Nat} {q : Play} (begun : ClosingBegun s.now r b cause ms s.play q) (takes : 0 < ms)
    (there : (b.bedBefore s.link.count (s.play.region r).bed).level = 231) {v : VoiceNo} (inside : v ∈ s.play.voicesOf r)
    (ramps : RampsOut s b v) : LeadOutOpen (q.completeLeadOut s.now r) r cause := by
  obtain ⟨rampsOn, old⟩ := (rampsOut_iff v).1 ramps
  obtain ⟨active, within⟩ := begun.ramps (Nat.pos_iff_ne_zero.1 takes) old v inside rampsOn
  have runsOn : ¬ q.leadOutDone r = true := by
    rw [leadOutDone_iff]
    rintro ⟨-, -, still⟩
    rw [still v within] at active
    cases active
  obtain ⟨state, bed, rest⟩ := begun.fields
  rw [completeLeadOut_runsOn s.now runsOn]
  exact ⟨state, bed.trans (begin_at _ 231 ms (.inr there)), rest⟩

/-- A break end in a running state, as O19 and O27 state it. -/
theorem breakEnd_running_spec (rejoins : Bool) (isOpen : (s.play.region r).brk = some b)
    (running : (s.play.region r).state ∈ [RegionState.leadin, .localPlay, .gated, .fill]) :
    let q := s.play.breakEnd s.now r cause rejoins
    let ms := (s.play.heldPlan r b).leadOutMs
    let bed := b.bedBefore s.link.count (s.play.region r).bed
    (0 < ms → bed.level ≠ 231 ∨ rejoins = true → (q.region r).state = .leadout ∧ (q.region r).bed = bed.begin 231 ms ∧
      ∃ b', (q.region r).brk = some b' ∧ b'.endCause = some cause ∧ b'.closing = true ∧ b'.timerRuns = false ∧
        ∀ e ∈ b'.run, e.status ≠ .pending) ∧
    (0 < ms → bed.level = 231 → rejoins = false →
      ((∀ v ∈ s.play.voicesOf r, (s.play.voice v).state ≠ .playing) → BreakClosed s q r b cause) ∧
      ∀ v ∈ s.play.voicesOf r, RampsOut s b v → LeadOutOpen q r cause) ∧
    (ms = 0 → BreakClosed s q r b cause) := by
  intro q ms bed
  obtain ⟨u, begun, form⟩ := closingLeadOut_begins s.now cause rejoins isOpen
  have shape : q = if (rejoins && decide (0 < ms)) = true then u else u.completeLeadOut s.now r :=
    (breakEnd_running isOpen running).trans form
  refine ⟨fun takes open' => ?_, fun takes there not => ⟨fun still => ?_, fun v inside ramps => ?_⟩, fun instant => ?_⟩
  · have stays : q = u := by
      rw [shape]
      split
      · rfl
      · rename_i not
        refine completeLeadOut_runsOn s.now (begun.ramping takes (open'.resolve_right fun rejoins' => not ?_))
        rw [rejoins', decide_eq_true takes]
        rfl
    rw [stays]
    exact begun.fields
  · rw [shape, if_neg (by rw [not]; nofun)]
    exact begun.closes (.inr there) (.inr still)
  · rw [shape, if_neg (by rw [not]; nofun)]
    exact begun.stays takes there inside ramps
  · rw [shape, if_neg (by rw [instant, Bool.and_comm]; nofun)]
    exact begun.closes (.inl instant) (.inl instant)

end

theorem exec_breakTimerExpiry {s : State} {r : Region} (assembling : s.assembling = true) (due : s.play.breakDue s.now r = true) :
    exec (.breakTimerExpiry r) s = .next (s.after (s.play.breakEnd s.now r .timeout (s.rejoinDue r))) :=
  congrArg Host.Outcome.next (event_due _ assembling due)

/-- Settles O19: the break end by the region's state, the closing lead-out as it begins. -/
theorem breakExpiryEnds : Obligations.BreakExpiryEnds := by
  intro s r b assembling due isOpen
  refine ⟨_, exec_breakTimerExpiry assembling due, fun running takes open' => ?_, fun running takes there not => ?_, fun running instant => ?_,
    fun leadout early => breakEnd_early isOpen leadout early, fun returned => breakEnd_returned_tail isOpen returned⟩
  · exact (breakEnd_running_spec (s.rejoinDue r) isOpen running).1 takes open'
  · exact (breakEnd_running_spec (s.rejoinDue r) isOpen running).2.1 takes there not
  · exact (breakEnd_running_spec (s.rejoinDue r) isOpen running).2.2 instant

end Sys2Proof.Machine

/-! # Force Network (O45) -/

namespace Sys2Proof.Machine

section
variable {p : Play} {r : Region} {b : OpenBreak}

/-- What Force Network leaves of a region in any state, and of the others (R35). -/
structure Bypassed (r : Region) (p q : Play) : Prop where
  state : (q.region r).state = .bypass
  brk : (q.region r).brk = none
  config : (q.region r).config = (p.region r).config
  replies : RepliesKept p.agent q.agent
  others : (∀ v ∈ p.voicesOf r, (p.voice v).holder = some r) → ∀ y, y ≠ r → q.region y = p.region y

/-- A running break closed by Force Network. -/
structure BreakBypassed (t : Now) (r : Region) (b : OpenBreak) (p q : Play) : Prop where
  bypassed : Bypassed r p q
  bed : (q.region r).bed = ⟨231, none⟩
  lead : (q.region r).lead = none
  voices : ∀ v ∈ p.voicesOf r, (q.voice v).active = false
  waiters : ∀ w ∈ q.waiters, w.region ≠ r
  record : ∃ l z n, q.log.records = l ++ [⟨n, .brk z⟩] ∧ z.region = r ∧ z.cause = .bypass ∧ z.close = t.air ∧ z.breakId = b.breakId ∧
    z.itemsAired ≤ b.itemsAired

theorem bypassBreak_spec (t : Now) (isOpen : (p.region r).brk = some b) : BreakBypassed t r b p (p.bypassBreak t r) := by
  obtain ⟨u, form, wound⟩ := windDown_spec t 0 true isOpen
  have winds := wound.winds (· ∈ p.voicesOf r) fun _ inside => inside
  obtain ⟨c, isOpen', isWound⟩ := winds.brk b isOpen
  let d : OpenBreak := { c with endCause := some .bypass, lateStart := c.lateAtEnd t }
  let x : RegionRec := { u.region r with brk := some d, bed := ⟨231, none⟩ }
  have shape : p.bypassBreak t r = ((u.withdraw r).setRegion r x).closeBreak t r .bypass := by
    unfold Play.bypassBreak Play.setBed
    rw [form, modBreak_of (p := u.withdraw r) _ isOpen', Play.modRegion_eq, Play.setRegion_setRegion, Play.region_setRegion, if_pos rfl]
    rfl
  have region : ((u.withdraw r).setRegion r x).region r = x := (Play.region_setRegion (u.withdraw r) r r x).trans (if_pos rfl)
  have shut := closeBreak_spec t .bypass (congrArg RegionRec.brk region)
  obtain ⟨state, brk, lead, bed, l, records⟩ := closeBreak_tail (t := t) .bypass (congrArg RegionRec.brk region)
  rw [← shape] at shut state brk lead bed records
  obtain ⟨pool, own⟩ := shut.own
  rw [region] at own bed
  obtain ⟨pool', lead', brk', before⟩ := winds.own
  refine ⟨⟨state, brk, ?_, ?_, fun held y other => ?_⟩, bed, lead, fun v inside => ?_, fun w inside => ?_, l, _, _, records, rfl, rfl, rfl, ?_, ?_⟩
  · rw [own]
    show (u.region r).config = _
    rw [before]
  · exact winds.replies.trans shut.replies
  · have own' : ∀ v ∈ p.voicesOf r, ∀ h, (p.voice v).holder = some h → h = r := fun v inside h holder => by
      rw [held v inside] at holder
      exact (Option.some.inj holder).symm
    have rest : ((u.withdraw r).setRegion r x).region y = p.region y :=
      (Play.region_setRegion (u.withdraw r) r y x).trans ((if_neg (Ne.symm other)).trans (winds.others own' y other))
    refine (shut.others (fun v isPool h holder => ?_) y other).trans rest
    have inside : v ∈ p.voicesOf r := by
      refine winds.mem_voicesOf ((mem_voicesOf u r v).2 (.inr ?_))
      rw [region] at isPool
      exact isPool
    rcases winds.holders v with same | gone
    · exact own' v inside h (same.symm.trans holder)
    · exact absurd (gone.symm.trans holder) nofun
  · exact (shut.voices v).inactive (wound.stopped (.inl rfl) v inside)
  · rw [shut.waiters] at inside
    simpa using (List.mem_filter.1 inside).2
  · obtain ⟨g, logged, aired, rfl, -⟩ := isWound.form
    rfl
  · obtain ⟨g, logged, aired, rfl, fewer, -⟩ := isWound.form
    exact fewer

theorem disarm_bypassed (isOpen : (p.region r).brk = some b) : Bypassed r p (p.disarm r .bypass) := by
  have disarmed := disarm_spec .bypass isOpen
  obtain ⟨pool, lead, own⟩ := disarmed.own
  refine ⟨by rw [own]; rfl, by rw [own]; rfl, by rw [own]; rfl, by rw [disarmed.agent]; exact .refl _, fun held y other => ?_⟩
  have first := winds_releaseVoice (r := r) (vs := (· ∈ p.voicesOf r)) (p.withdraw r) ((mem_voicesOf p r (homeVoice r)).2 (.inl rfl))
  have second := winds_giveBackPool (r := r) (vs := (· ∈ p.voicesOf r)) ((p.withdraw r).releaseVoice (homeVoice r)) fun v isPool =>
    first.mem_voicesOf ((mem_voicesOf _ r v).2 (.inr isPool))
  have both := winds_of_bed first second
  have same := both.others (fun v inside h holder => (Option.some.inj ((held v inside).symm.trans holder)).symm) y other
  unfold Play.disarm
  rw [withBreak_of _ isOpen, giveBack_eq]
  generalize ((p.withdraw r).releaseVoice (homeVoice r)).giveBackPool r = q at same ⊢
  obtain ⟨gates, left⟩ := leaveGates_form (q.setSlot r b.slot (q.slotBack r b.slot false)) r
  rw [left, Play.region_modRegion, if_neg (Ne.symm other)]
  exact same

/-- Force Network in a running state closes the break. -/
theorem forceNetwork_running (t : Now) (p : Play) (r : Region) (running : (p.region r).state ∉ [RegionState.network, .bypass, .primed]) :
    p.forceNetwork t r = p.bypassBreak t r := by
  unfold Play.forceNetwork
  cases state : (p.region r).state with
  | network => exact absurd (state ▸ running) (by decide)
  | bypass => exact absurd (state ▸ running) (by decide)
  | primed => exact absurd (state ▸ running) (by decide)
  | leadin => rfl
  | localPlay => rfl
  | gated => rfl
  | fill => rfl
  | leadout => rfl
  | returned => rfl

theorem forceNetwork_off (t : Now) (p : Play) (r : Region) (off : (p.region r).state = .network ∨ (p.region r).state = .bypass) :
    p.forceNetwork t r = p.setRegion r { p.region r with state := .bypass } := by
  unfold Play.forceNetwork
  rcases off with is | is
  · simp only [is]
    rfl
  · simp only [is]
    have same : ({ p.region r with state := .bypass } : RegionRec) = p.region r := by rw [← is]
    rw [same, Play.setRegion_same]

theorem forceNetwork_primed (t : Now) (p : Play) (r : Region) (primed : (p.region r).state = .primed) :
    p.forceNetwork t r = p.disarm r .bypass := by
  unfold Play.forceNetwork
  simp only [primed]

end

theorem exec_forceNetwork {s : State} {m : Message} {rest : List Message} (takes : Takes s 0x12 m rest) (r : Region) :
    exec (.forceNetwork (some r.val)) s =
      .next (s.between (({ s.play with agent := s.agentAfter m rest .ok .none } : Play).forceNetwork s.now r)) := by
  have head : s.headOf (fun k => k == 0x12) = some (m, rest) := head_of_takes takes _ rfl
  have taken : (s.took m rest).answer m .ok .none = { s with play := { s.play with agent := s.agentAfter m rest .ok .none } } :=
    answer_of_took .ok .none rfl rfl
  have arm : exec (.forceNetwork (some r.val)) s = execForceNetwork (some r.val) s := rfl
  rw [arm]
  unfold execForceNetwork
  simp only [Option.bind_some, regionOf_val, head]
  rw [taken]
  rfl

/-- Settles O45: the regions without a running break change their state alone, and the break of the others is wound down and closed. -/
theorem forceNetworkBypasses : Obligations.ForceNetworkBypasses := by
  intro s m rest r takes x closed isOpen
  have replies (a : Agent) (kept : RepliesKept (s.agentAfter m rest .ok .none) a) : (repliesTo s m .ok .none).Sublist a.returns := by
    have inside (y : QueueEntry) (own : y ∈ repliesTo s m .ok .none) : y ∈ (s.agentAfter m rest .ok .none).returns :=
      List.mem_append_right _ own
    unfold repliesTo at inside ⊢
    split
    · exact List.nil_sublist _
    · rename_i addressed
      rw [if_neg addressed] at inside
      exact List.singleton_sublist.2 (kept _ (inside _ (List.mem_singleton.2 rfl)) rfl)
  let p : Play := { s.play with agent := s.agentAfter m rest .ok .none }
  have whole (q : Play) (is : q = p.forceNetwork s.now r) : exec (.forceNetwork (some r.val)) s = .next (s.between q) := by
    rw [is]
    exact exec_forceNetwork takes r
  by_cases off : x.state = .network ∨ x.state = .bypass
  · have form := forceNetwork_off s.now p r off
    have region : (p.setRegion r { p.region r with state := .bypass }).region r = { p.region r with state := .bypass } :=
      (Play.region_setRegion p r r _).trans (if_pos rfl)
    refine ⟨_, whole _ form.symm, by rw [region], by rw [region]; exact closed off, by rw [region]; rfl, replies _ (.refl _), fun _ => rfl,
      fun primed => ?_, fun not => ?_, fun _ q other => (Play.region_setRegion p r q _).trans (if_neg (Ne.symm other))⟩
    · rcases off with is | is <;> (rw [is] at primed; cases primed)
    · rcases off with is | is <;> (rw [is] at not; exact absurd not (by decide))
  · obtain ⟨notNetwork, notBypass⟩ := not_or.1 off
    obtain ⟨b, isOpen⟩ := Option.ne_none_iff_exists'.1 (isOpen notNetwork notBypass)
    have isOpen' : (p.region r).brk = some b := isOpen
    by_cases primed : x.state = .primed
    · have form := forceNetwork_primed s.now p r primed
      have bypassed := disarm_bypassed isOpen'
      have disarmed := disarm_spec .bypass isOpen'
      obtain ⟨pool, lead, own⟩ := disarmed.own
      refine ⟨_, whole _ form.symm, bypassed.state, bypassed.brk, bypassed.config, replies _ bypassed.replies, fun is => absurd is off,
        fun _ => ⟨disarmed.log, by rw [own]; rfl, disarmed.home⟩, fun not => ?_, fun held => bypassed.others held⟩
      rw [primed] at not
      exact absurd not (by decide)
    · have running : (p.region r).state ∉ [RegionState.network, .bypass, .primed] := by
        simp only [List.mem_cons, List.not_mem_nil, or_false, not_or]
        exact ⟨notNetwork, notBypass, primed⟩
      have form := forceNetwork_running s.now p r running
      have closes := bypassBreak_spec s.now isOpen'
      obtain ⟨l, z, n, records, region, cause, air, breakId, aired⟩ := closes.record
      refine ⟨_, whole _ form.symm, closes.bypassed.state, closes.bypassed.brk, closes.bypassed.config, replies _ closes.bypassed.replies,
        fun is => absurd is off, fun is => absurd is primed, fun _ => ⟨closes.bed, closes.lead, closes.voices, closes.waiters, l, z, n, records,
          region, cause, air, fun c is => ?_⟩, fun held => closes.bypassed.others held⟩
      cases isOpen.symm.trans is
      exact ⟨breakId, aired⟩

end Sys2Proof.Machine

/-! # What follows an item end (R64 to R70) -/

namespace Sys2Proof.Machine

/-! ## The entry of an item end -/

section
variable {p : Play} {r : Region} {b : OpenBreak} {e : RunEntry} {v : VoiceNo}

/-- An entry closed on its voice, which is not touched. -/
structure EntryDone (t : Now) (r : Region) (b : OpenBreak) (e : RunEntry) (st : EntryStatus) (p q : Play) : Prop where
  log : q.log = (p.appendItem t r (itemRecord r b.breakId { e with status := st } (e.startAir.getD t.air))).log
  own : q.region r = { p.region r with brk := some (b.entryClosed e.index st (b.noteAppend t p.log)) }
  voices : q.voices = p.voices
  plans : q.plans = p.plans
  gates : q.gates = p.gates
  dir : q.dir = p.dir

theorem entryDone (t : Now) (st : EntryStatus) (isOpen : (p.region r).brk = some b) (run : (p.voice v).run = some e.index)
    (found : findEntry b.run e.index = some e) : EntryDone t r b e st p (p.closeVoiceEntry t r v st) := by
  obtain ⟨a, closed, -⟩ := closeEntry_of t st (e.startAir.getD t.air) isOpen found
  rw [closeVoiceEntry_of t st isOpen run found, closed]
  exact ⟨rfl, (Play.region_setRegion _ r r _).trans (if_pos rfl), rfl, rfl, rfl, rfl⟩

theorem EntryDone.brk {t : Now} {st : EntryStatus} {q : Play} (done : EntryDone t r b e st p q) :
    (q.region r).brk = some (b.entryClosed e.index st (b.noteAppend t p.log)) := by rw [done.own]

theorem EntryDone.voice {t : Now} {st : EntryStatus} {q : Play} (done : EntryDone t r b e st p q) (u : VoiceNo) : q.voice u = p.voice u := by
  unfold Play.voice
  rw [done.voices]

theorem EntryDone.linkedTo {t : Now} {st : EntryStatus} {q : Play} (done : EntryDone t r b e st p q) (x : RunEntry) :
    q.linkedTo r x = p.linkedTo r x := by
  unfold Play.linkedTo Play.gate
  rw [done.gates]

theorem EntryDone.heldPlan {t : Now} {st : EntryStatus} {q : Play} (done : EntryDone t r b e st p q) {c : OpenBreak} (slot : c.slot = b.slot) :
    q.heldPlan r c = p.heldPlan r b := by
  unfold Play.heldPlan
  rw [slot, slot_of_plans done.plans]

theorem itemEnd_hands {t : Now} {q : Play} {u : Successor} (is : p.closeVoiceEntry t r v .done = q) {c : OpenBreak}
    (isOpen : (q.region r).brk = some c) (lead : (q.region r).lead = some v) (next : (q.voice v).successor = some u) :
    p.itemEnd t r v = q.handOver t r v u c := by
  unfold Play.itemEnd
  dsimp only
  rw [is, withBreak_of _ isOpen, if_pos (beq_iff_eq.2 lead)]
  simp only [next]

theorem itemEnd_ends {t : Now} {q : Play} (is : p.closeVoiceEntry t r v .done = q) {c : OpenBreak}
    (isOpen : (q.region r).brk = some c) (lead : (q.region r).lead = some v) (last : (q.voice v).successor = none) :
    p.itemEnd t r v = q.leadEnds t r v c := by
  unfold Play.itemEnd
  dsimp only
  rw [is, withBreak_of _ isOpen, if_pos (beq_iff_eq.2 lead)]
  simp only [last]

theorem itemEnd_outgoing {t : Now} {q : Play} (is : p.closeVoiceEntry t r v .done = q) {c : OpenBreak}
    (isOpen : (q.region r).brk = some c) (lead : (q.region r).lead ≠ some v) : p.itemEnd t r v = q.outgoingEnds t r v c := by
  unfold Play.itemEnd
  dsimp only
  rw [is, withBreak_of _ isOpen, if_neg fun same => lead (beq_iff_eq.1 same)]

end

/-! ## The successor takes over (R64) -/

/-- A voice that has gone over to a staged successor. -/
structure PlaysNext (x : Voice) (u : Prime) (st : VoiceState) (since : Option Nat) : Prop where
  state : x.state = st
  clip : x.clip = some u.clip
  pos : x.pos = u.startPos
  endPos : x.endPos = u.endPos
  fader : x.fader = ⟨u.level, none⟩
  group : x.group = u.group
  loop : x.loop = u.loop
  startedAt : x.startedAt = since

theorem playsNext_take (x : Voice) (u : Successor) (st : VoiceState) (since : Option Nat) :
    PlaysNext (x.takeSuccessor u st since) u.prime st since := by
  obtain ⟨ring, q, form⟩ := x.takeSuccessor_form u st since
  rw [form]
  exact ⟨rfl, rfl, rfl, rfl, rfl, rfl, rfl, rfl⟩

theorem PlaysNext.prepared {r : Region} {p q : Play} {v : VoiceNo} {u : Prime} {st : VoiceState} {since : Option Nat}
    (prepared : Prepared r p q) (plays : PlaysNext (p.voice v) u st since) : PlaysNext (q.voice v) u st since := by
  obtain ⟨w, pend, voice⟩ := prepared.voices v
  rw [voice]
  exact ⟨plays.state, plays.clip, plays.pos, plays.endPos, plays.fader, plays.group, plays.loop, plays.startedAt⟩

section
variable {p : Play} {r : Region} {b : OpenBreak} {v : VoiceNo} {u : Successor}

/-- The next entry taken over as it is due. -/
theorem handOver_entry {j : Nat} {x : RunEntry} (t : Now) (isOpen : (p.region r).brk = some b) (run : u.prime.run = some j)
    (found : findEntry b.run j = some x) (free : p.linkedTo r x = none) : let q := p.handOver t r v u b
    q.log = p.log ∧ PlaysNext (q.voice v) u.prime .playing (some t.count) ∧
      ∃ prep tested, q.region r = { p.region r with brk := some { b.entryStarted t j with prep := prep, fillerTested := tested } } := by
  let y : RegionRec := { p.region r with brk := some ({ b with prep := .none }.entryStarted t j) }
  have shape : p.handOver t r v u b = ((p.modVoice v fun x => x.takeSuccessor u .playing (some t.count)).setRegion r y).prepare t r := by
    have isOpen' : ((p.modVoice v fun x => x.takeSuccessor u .playing (some t.count)).region r).brk = some b := isOpen
    unfold Play.handOver
    simp only [run, found, Option.bind_some, free]
    rw [Play.setPrep, modBreak_of _ isOpen', startEntry_of (b := { b with prep := .none }) t j
      (by rw [Play.region_setRegion, if_pos rfl]), Play.setRegion_setRegion, Play.region_setRegion, if_pos rfl]
    rfl
  have prepared := ((p.modVoice v fun x => x.takeSuccessor u .playing (some t.count)).setRegion r y).prepare_form t r
  have region : ((p.modVoice v fun x => x.takeSuccessor u .playing (some t.count)).setRegion r y).region r = y :=
    (Play.region_setRegion _ r r y).trans (if_pos rfl)
  obtain ⟨prep, tested, own⟩ := prepared.region (congrArg RegionRec.brk region)
  rw [region] at own
  obtain ⟨-, -, -, -, log, -⟩ := prepared.rest
  intro q
  rw [← shape] at own log prepared
  refine ⟨log, PlaysNext.prepared prepared ?_, prep, tested, own⟩
  show PlaysNext ((p.modVoice v fun x => x.takeSuccessor u .playing (some t.count)).voice v) _ _ _
  rw [Play.voice_modVoice, if_pos rfl]
  exact playsNext_take _ _ _ _

/-- The next entry held for its gate. -/
theorem handOver_held {j : Nat} {x : RunEntry} {g : LinkGroup} (t : Now) (isOpen : (p.region r).brk = some b) (run : u.prime.run = some j)
    (found : findEntry b.run j = some x) (linked : p.linkedTo r x = some g) : let q := p.handOver t r v u b
    q.log = p.log ∧ PlaysNext (q.voice v) u.prime .ready none ∧ q.region r = { p.region r with
      state := .gated, arriving := some g, bed := (p.region r).bed.begin (p.region r).config.duckLevel (p.heldPlan r b).leadInMs,
      brk := some { b with prep := .none } } := by
  have isOpen' : ((p.modVoice v fun x => x.takeSuccessor u .ready none).region r).brk = some b := isOpen
  have shape : p.handOver t r v u b = (p.modVoice v fun x => x.takeSuccessor u .ready none).arrive r g := by
    unfold Play.handOver
    simp only [run, found, Option.bind_some, linked]
  intro q
  have form : q = _ := shape.trans (arrive_of g isOpen')
  rw [form]
  refine ⟨rfl, ?_, (Play.region_setRegion _ r r _).trans (if_pos rfl)⟩
  show PlaysNext ((p.modVoice v fun x => x.takeSuccessor u .ready none).voice v) _ _ _
  rw [Play.voice_modVoice, if_pos rfl]
  exact playsNext_take _ _ _ _

/-- The staged filler plays on. -/
theorem handOver_filler (t : Now) (run : u.prime.run = none) : let q := p.handOver t r v u b
    q.log = p.log ∧ PlaysNext (q.voice v) u.prime .playing (some t.count) ∧ q.region r = { p.region r with state := .fill } := by
  have shape : p.handOver t r v u b = (p.modVoice v fun x => x.takeSuccessor u .playing (some t.count)).setState r .fill := by
    unfold Play.handOver
    simp only [run]
  intro q
  have form : q = _ := shape
  rw [form]
  refine ⟨rfl, ?_, (Play.region_modRegion _ r r _).trans (if_pos rfl)⟩
  show PlaysNext ((p.modVoice v fun x => x.takeSuccessor u .playing (some t.count)).voice v) _ _ _
  rw [Play.voice_modVoice, if_pos rfl]
  exact playsNext_take _ _ _ _

end

/-! ## A region that plays nothing wound down (R30) -/

section
variable {p : Play} {r : Region} {b : OpenBreak}

theorem released_rampOuts (t : Now) (r : Region) (ms : Nat) (l : List VoiceNo) (p : Play) (still : ∀ v ∈ l, (p.voice v).state ≠ .playing) :
    Released p (l.foldl (fun q v => q.rampOut t r ms v) p) := by
  induction l generalizing p with
  | nil => exact .refl p
  | cons v l ih =>
    have stops : p.rampOut t r ms v = p.releaseVoice v := if_neg fun is => still v List.mem_cons_self (beq_iff_eq.1 is)
    rw [List.foldl_cons, stops]
    have first := released_releaseVoice p v
    refine first.trans (ih _ fun u inside playing => ?_)
    rcases first.voices u with same | inactive
    · rw [same] at playing
      exact still u (List.mem_cons_of_mem _ inside) playing
    · rw [Voice.active, playing] at inactive
      cases inactive

/-- Nothing is recorded where no voice plays and no entry is PENDING. -/
theorem windDown_still (t : Now) (ms : Nat) (isOpen : (p.region r).brk = some b) (still : ∀ v ∈ p.voicesOf r, (p.voice v).state ≠ .playing)
    (done : ∀ e ∈ b.run, e.status ≠ .pending) : ∃ q, p.windDown t r ms false = q.withdraw r ∧ Released p q := by
  have first : (p.voicesInRunOrder r).foldl (fun q v => q.finishAtEnd t r v) p = p := foldl_fixed _ fun v inside => if_neg fun ends => by
    have playing := (Bool.and_eq_true_iff.1 (Bool.and_eq_true_iff.1 ends).1).1
    exact still v ((mem_voicesInRunOrder p r v).1 inside) (beq_iff_eq.1 playing)
  have released := released_rampOuts t r ms (p.voicesInRunOrder r) p fun v inside => still v ((mem_voicesInRunOrder p r v).1 inside)
  refine ⟨_, ?_, released⟩
  unfold Play.windDown
  dsimp only
  rw [first, if_neg nofun]
  generalize (p.voicesInRunOrder r).foldl (fun q v => q.rampOut t r ms v) p = q at released
  obtain ⟨pool, lead, own⟩ := released.regions r
  have none' : b.run.filter (fun e => e.status == .pending) = [] := List.filter_eq_nil_iff.2 fun e inside pending =>
    done e inside (beq_iff_eq.1 pending)
  unfold Play.trimPending
  rw [withBreak_of (b := b) _ (by rw [own]; exact isOpen), none']
  rfl

/-- An early-network lead-out of a region that plays nothing (R30). -/
theorem earlyLeadOut_still (t : Now) (isOpen : (p.region r).brk = some b) (still : ∀ v ∈ p.voicesOf r, (p.voice v).state ≠ .playing)
    (done : ∀ e ∈ b.run, e.status ≠ .pending) : let q := p.earlyLeadOut t r
    q.log = p.log ∧ (∀ v, q.voice v = p.voice v ∨ (q.voice v).active = false) ∧ (q.region r).bed = (p.region r).bed.begin 231 (p.heldPlan r b).leadOutMs ∧
      (q.region r).brk = some { b with closing := false, prep := .none, mixLate := false } ∧
      (0 < (p.heldPlan r b).leadOutMs → (p.region r).bed.level ≠ 231 → (q.region r).state = .leadout) := by
  obtain ⟨u, form, released⟩ := windDown_still t (p.heldPlan r b).leadOutMs isOpen still done
  obtain ⟨pool, lead, own⟩ := released.regions r
  have isOpen' : ((u.withdraw r).region r).brk = some b := by
    show (u.region r).brk = some b
    rw [own]
    exact isOpen
  let x : RegionRec := { u.region r with
    brk := some { b with closing := false, prep := .none, mixLate := false }, state := .leadout
    bed := (u.region r).bed.begin 231 (p.heldPlan r b).leadOutMs, arriving := none, opening := none }
  have shape : p.earlyLeadOut t r = ((u.withdraw r).setRegion r x).completeLeadOut t r := by
    unfold Play.earlyLeadOut
    rw [withBreak_of _ isOpen]
    dsimp only
    rw [form, modBreak_of _ isOpen', Play.modRegion_eq, Play.setRegion_setRegion, Play.region_setRegion, if_pos rfl]
    rfl
  have region : ((u.withdraw r).setRegion r x).region r = x := (Play.region_setRegion _ r r x).trans (if_pos rfl)
  have bed : x.bed = (p.region r).bed.begin 231 (p.heldPlan r b).leadOutMs := by
    have same : (u.region r).bed = (p.region r).bed := by rw [own]
    rw [← same]
  intro q
  have is : q = ((u.withdraw r).setRegion r x).completeLeadOut t r := shape
  by_cases complete : ((u.withdraw r).setRegion r x).leadOutDone r = true
  · rw [completeLeadOut_returns t complete (congrArg RegionRec.brk region) rfl, Play.setRegion_setRegion, region] at is
    have own' : q.region r = { x with state := .returned } := by
      rw [is]
      exact (Play.region_setRegion _ r r _).trans (if_pos rfl)
    have same : (q.region r).bed = x.bed := by rw [own']
    refine ⟨?_, fun v => ?_, same.trans bed, by rw [own'], fun takes far => ?_⟩
    · rw [is]
      exact released.log
    · rw [is]
      exact released.voices v
    · obtain ⟨-, ramp, -⟩ := (leadOutDone_iff _ r).1 complete
      rw [region, bed] at ramp
      exact absurd ((begin_done _ 231 _).1 ramp) (not_or.2 ⟨Nat.pos_iff_ne_zero.1 takes, far⟩)
  · rw [completeLeadOut_runsOn t complete] at is
    have own' : q.region r = x := by
      rw [is]
      exact region
    have same : (q.region r).bed = x.bed := by rw [own']
    refine ⟨?_, fun v => ?_, same.trans bed, by rw [own'], fun _ _ => by rw [own']⟩
    · rw [is]
      exact released.log
    · rw [is]
      exact released.voices v

end

end Sys2Proof.Machine

/-! # Item ends (O21) -/

namespace Sys2Proof.Machine

/-! ## The next entry, and what is staged -/

section
variable {p : Play} {r : Region} {b : OpenBreak} {v : VoiceNo}

theorem find_modEntry {run : List RunEntry} {i : Nat} {f : RunEntry → RunEntry} {x : RunEntry} (settled : ∀ e, (f e).status ≠ .pending)
    (next : nextPending run = some x) (other : x.index ≠ i) : nextPending (modEntry run i f) = some x := by
  unfold nextPending modEntry at *
  induction run with
  | nil => cases next
  | cons e run ih =>
    rw [List.map_cons, List.find?_cons]
    rw [List.find?_cons] at next
    by_cases pending : (e.status == .pending) = true
    · rw [pending] at next
      cases next
      rw [if_neg other, pending]
    · rw [Bool.not_eq_true] at pending
      rw [pending] at next
      have notPending : ((if e.index = i then f e else e).status == .pending) = false := by
        split
        · exact beq_eq_false_iff_ne.2 (settled e)
        · exact pending
      rw [notPending]
      exact ih next

theorem nextPending_entryClosed {i : Nat} {st : EntryStatus} {note : AppendNote} {x : RunEntry} (settled : st ≠ .pending)
    (next : nextPending b.run = some x) (other : x.index ≠ i) : nextPending (b.entryClosed i st note).run = some x :=
  find_modEntry (fun _ => settled) next other

/-- An entry that is left unfinished in a break with one entry closed. -/
theorem mem_entryClosed_other {i : Nat} {st : EntryStatus} {note : AppendNote} {x : RunEntry} (inside : x ∈ (b.entryClosed i st note).run)
    (other : x.index ≠ i) : x ∈ b.run := by
  obtain ⟨y, member, rfl⟩ := List.mem_map.1 inside
  by_cases own : y.index = i
  · rw [if_pos own] at other
    exact absurd own other
  · rw [if_neg own]
    exact member

/-- Nothing is prepared outside LEADIN and LOCAL. -/
theorem prepare_away (t : Now) (leadin : (p.region r).state ≠ .leadin) (localPlay : (p.region r).state ≠ .localPlay) : p.prepare t r = p := by
  unfold Play.prepare Play.withBreak
  split
  · rfl
  · split
    · rfl
    · exact if_neg fun moving => (Bool.or_eq_true_iff.1 (Bool.and_eq_true_iff.1 moving).1).elim (fun is => leadin (beq_iff_eq.1 is))
        fun is => localPlay (beq_iff_eq.1 is)

/-- Nothing is prepared while the next entry is prepared already. -/
theorem prepare_staged {x : RunEntry} (t : Now) (isOpen : (p.region r).brk = some b) (next : nextPending b.run = some x)
    (staged : b.prep ≠ .none) : p.prepare t r = p := by
  unfold Play.prepare
  rw [withBreak_of _ isOpen]
  split
  · rfl
  · split
    · simp only [next]
      refine if_neg fun free => staged ?_
      exact beq_iff_eq.1 (Bool.and_eq_true_iff.1 (Bool.and_eq_true_iff.1 free).1).1
    · rfl

theorem active_prepared {q : Play} (prepared : Prepared r p q) (v : VoiceNo) : (q.voice v).active = (p.voice v).active ∧
    (q.voice v).state = (p.voice v).state := by
  obtain ⟨u, pend, form⟩ := prepared.voices v
  rw [form]
  exact ⟨rfl, rfl⟩

/-! ## The end of an outgoing voice (R66, R67) -/

theorem outgoingEnds_released (t : Now) (free : b.prep ≠ .awaiting v) :
    p.outgoingEnds t r v b = ((p.releaseVoice v).completeLeadOut t r).prepare t r := by
  unfold Play.outgoingEnds
  exact if_neg fun waits => free (beq_iff_eq.1 waits)

/-- The voice that an entry waits for is primed with it at once, or when its read in flight is delivered. -/
theorem outgoingEnds_primes {x : RunEntry} (t : Now) (isOpen : (p.region r).brk = some b) (waits : b.prep = .awaiting v)
    (next : nextPending b.run = some x) (active : (p.voice v).active = true) : let q := p.outgoingEnds t r v b
    q.log = p.log ∧ q.region r = { p.region r with brk := some { b with prep := .incoming v } } ∧
      (∀ u, u ≠ v → q.voice u = p.voice u) ∧ (q.voice v).state ≠ .playing ∧
      ((p.voice v).reading = false → PrimedAs (q.voice v) (p.primeOf x 0)) ∧
      ((p.voice v).reading = true → (q.voice v).state = .releasing ∧ (q.voice v).waiting = some (p.primeOf x 0)) := by
  let y : Voice := (p.voice v).release.prime (p.primeOf x 0)
  have primes : p.outgoingEnds t r v b = ((p.modVoice v Voice.release).primeVoice v (p.primeOf x 0)).setPrep r (.incoming v) := by
    unfold Play.outgoingEnds
    refine (if_pos (beq_iff_eq.2 waits)).trans ?_
    simp only [next]
  have isOpen' : (((p.modVoice v Voice.release).primeVoice v (p.primeOf x 0)).region r).brk = some b := isOpen
  have shape : p.outgoingEnds t r v b = ((p.modVoice v Voice.release).primeVoice v (p.primeOf x 0)).setRegion r
      { p.region r with brk := some { b with prep := .incoming v } } :=
    primes.trans (modBreak_of (fun b : OpenBreak => { b with prep := .incoming v }) isOpen')
  have voices (u : VoiceNo) : ((p.modVoice v Voice.release).primeVoice v (p.primeOf x 0)).voice u = if v = u then y else p.voice u := by
    unfold Play.primeVoice
    rw [Play.voice_modVoice, Play.voice_modVoice, Play.voice_modVoice, if_pos rfl]
    split <;> rfl
  intro q
  have is : q = _ := shape
  have voice (u : VoiceNo) : q.voice u = if v = u then y else p.voice u := by
    rw [is]
    exact voices u
  have release : (p.voice v).release = { Voice.idle (p.voice v).holder with
      state := if (p.voice v).reading then .releasing else .idle, pending := if (p.voice v).reading then (p.voice v).pending else none } :=
    if_pos active
  have own : (q.voice v) = y := by rw [voice, if_pos rfl]
  have idle (not : (p.voice v).reading = false) : y = (p.voice v).release.take (p.primeOf x 0) := by
    refine prime_eq_take _ ?_
    rw [release, not]
    nofun
  have reading (reads : (p.voice v).reading = true) : y = { (p.voice v).release with waiting := some (p.primeOf x 0) } := by
    refine if_pos ?_
    rw [release, reads]
    rfl
  refine ⟨by rw [is]; rfl, by rw [is]; exact (Play.region_setRegion _ r r _).trans (if_pos rfl), fun u apart => by rw [voice, if_neg (Ne.symm apart)],
    ?_, fun not => ?_, fun reads => ?_⟩
  · rw [own]
    cases reads : (p.voice v).reading with
    | false =>
      rw [idle reads, (primedAs_take _ _).1.state]
      nofun
    | true =>
      rw [reading reads, release, reads]
      nofun
  · rw [own, idle not]
    exact (primedAs_take _ _).1
  · rw [own, reading reads, release, reads]
    exact ⟨rfl, rfl⟩

end

/-! ## The item end of the lead voice, and of an outgoing one -/

theorem exec_itemEnd {s : State} {r : Region} {v : VoiceNo} (assembling : s.assembling = true) (holder : (s.play.voice v).holder = some r)
    (ends : (s.play.voice v).itemEndDue = true) :
    exec (.itemEnd v) s = .next (s.after ((s.play.finishBefore s.now r v).finishVoice s.now r v)) := by
  have arm : exec (.itemEnd v) s = .next (match (s.play.voice v).holder with
      | some r => s.event (s.play.voice v).itemEndDue fun p t => (p.finishBefore t r v).finishVoice t r v
      | none => s) := rfl
  rw [arm, holder]
  exact congrArg Host.Outcome.next (event_due _ assembling ends)

theorem finishVoice_itemEnd {p : Play} {v : VoiceNo} (t : Now) (r : Region) (ends : (p.voice v).itemEndDue = true) :
    p.finishVoice t r v = p.itemEnd t r v := if_pos ends

/-- The log with the ITEM record of an item end, as O21 states it. -/
def ItemRecorded (p : Play) (t : Now) (r : Region) (b : OpenBreak) (x : ItemRecord) (l : AsRunLog) : Prop :=
  l = (p.appendItem t r x).log ∧ ((∀ k, b.logged = some k → k.count ≠ t.count) → l = (p.appendRecord t (.item x)).log)

theorem itemRecorded_of {p : Play} {r : Region} {b : OpenBreak} {x : ItemRecord} {l : AsRunLog} (t : Now) (isOpen : (p.region r).brk = some b)
    (log : l = (p.appendItem t r x).log) : ItemRecorded p t r b x l :=
  ⟨log, fun first => log.trans (p.log_appendItem t r x b isOpen first)⟩

theorem exhausted_entryClosed {b : OpenBreak} {i : Nat} {note : AppendNote} (rest : ∀ x ∈ b.run, x.index ≠ i → x.status ≠ .pending ∧ x.status ≠ .playing) :
    exhausted (b.entryClosed i .done note).run = true ∧ ∀ x ∈ (b.entryClosed i .done note).run, x.status ≠ .pending := by
  have all : ∀ x ∈ (b.entryClosed i .done note).run, x.status ≠ .pending ∧ x.status ≠ .playing := by
    intro x inside
    by_cases own : x.index = i
    · rw [mem_entryClosed inside own]
      exact ⟨nofun, nofun⟩
    · exact rest x (mem_entryClosed_other inside own) own
  refine ⟨List.all_eq_true.2 fun x inside => ?_, fun x inside => (all x inside).1⟩
  rw [Bool.and_eq_true, bne_iff_ne, bne_iff_ne]
  exact all x inside

section
variable {p : Play} {r : Region} {b : OpenBreak} {e : RunEntry} {v : VoiceNo} (t : Now)
  (isOpen : (p.region r).brk = some b) (run : (p.voice v).run = some e.index) (found : findEntry b.run e.index = some e)
include isOpen run found

/-- The ITEM record that the end of the entry appends. -/
abbrev RunEntry.doneRecord (e : RunEntry) (t : Now) (r : Region) (breakId : Nat) : ItemRecord :=
  itemRecord r breakId { e with status := .done } (e.startAir.getD t.air)

theorem itemEnd_entry {u : Successor} {x : RunEntry} (lead : (p.region r).lead = some v) (next : (p.voice v).successor = some u)
    (runs : u.prime.run = some x.index) (found' : findEntry b.run x.index = some x) (free : p.linkedTo r x = none)
    (other : x.index ≠ e.index) : let q := p.itemEnd t r v
    ItemRecorded p t r b (e.doneRecord t r b.breakId) q.log ∧ PlaysNext (q.voice v) u.prime .playing (some t.count) ∧
      (q.region r).lead = some v ∧ ∃ c, (q.region r).brk = some c ∧ c.itemsAired = b.itemsAired + 1 ∧
        ∀ y ∈ c.run, (y.index = e.index → y.status = .done) ∧ (y.index = x.index → y.status = .playing ∧ y.start = some t.pos) := by
  have done := entryDone t .done isOpen run found
  have hands := itemEnd_hands (t := t) rfl done.brk (by rw [done.own]; exact lead) (by rw [done.voice]; exact next)
  obtain ⟨log, plays, prep, tested, own⟩ := handOver_entry t done.brk (v := v) runs
    ((findEntry_entryClosed other _ _).trans found') ((done.linkedTo x).trans free)
  rw [← hands] at log plays own
  refine ⟨itemRecorded_of t isOpen (log.trans done.log), plays, by rw [own, done.own]; exact lead, _, by rw [own], rfl, fun y inside => ?_⟩
  refine ⟨fun index => ?_, fun index => ?_⟩
  · obtain ⟨z, member, form⟩ := List.mem_map.1 inside
    by_cases own' : z.index = x.index
    · rw [if_pos own'] at form
      rw [← form] at index
      exact absurd (own'.symm.trans index) other
    · rw [if_neg own'] at form
      rw [← form] at index ⊢
      exact mem_entryClosed member index
  · obtain ⟨z, -, -, late, rfl⟩ := mem_entryStarted (b := b.entryClosed e.index .done (b.noteAppend t p.log)) inside index
    exact ⟨rfl, rfl⟩

theorem itemEnd_held {u : Successor} {x : RunEntry} {g : LinkGroup} (lead : (p.region r).lead = some v)
    (next : (p.voice v).successor = some u) (runs : u.prime.run = some x.index) (found' : findEntry b.run x.index = some x)
    (linked : p.linkedTo r x = some g) (other : x.index ≠ e.index) : let q := p.itemEnd t r v
    ItemRecorded p t r b (e.doneRecord t r b.breakId) q.log ∧ PlaysNext (q.voice v) u.prime .ready none ∧ (q.region r).lead = some v ∧
      (q.region r).state = .gated ∧ (q.region r).arriving = some g ∧
      (q.region r).bed = (p.region r).bed.begin (p.region r).config.duckLevel (p.heldPlan r b).leadInMs ∧
      ∃ c, (q.region r).brk = some c ∧ c.itemsAired = b.itemsAired ∧ ∀ y ∈ c.run, y.index = e.index → y.status = .done := by
  have done := entryDone t .done isOpen run found
  have hands := itemEnd_hands (t := t) rfl done.brk (by rw [done.own]; exact lead) (by rw [done.voice]; exact next)
  obtain ⟨log, plays, own⟩ := handOver_held t done.brk (v := v) runs
    ((findEntry_entryClosed other _ _).trans found') ((done.linkedTo x).trans linked)
  rw [← hands] at log plays own
  rw [done.heldPlan (c := b.entryClosed e.index .done (b.noteAppend t p.log)) rfl] at own
  have before := done.own
  have brk : ((p.itemEnd t r v).region r).brk = some { b.entryClosed e.index .done (b.noteAppend t p.log) with prep := .none } := by rw [own]
  refine ⟨itemRecorded_of t isOpen (log.trans done.log), plays, by rw [own, before]; exact lead, by rw [own], by rw [own], ?_, _, brk, rfl,
    fun y inside index => mem_entryClosed (b := b) (note := b.noteAppend t p.log) inside index⟩
  rw [own, before]

theorem itemEnd_filler {u : Successor} (lead : (p.region r).lead = some v) (next : (p.voice v).successor = some u)
    (runs : u.prime.run = none) : let q := p.itemEnd t r v
    ItemRecorded p t r b (e.doneRecord t r b.breakId) q.log ∧ PlaysNext (q.voice v) u.prime .playing (some t.count) ∧
      (q.region r).state = .fill ∧ (q.region r).lead = some v ∧ (q.region r).bed = (p.region r).bed ∧
      ∃ c, (q.region r).brk = some c ∧ c.itemsAired = b.itemsAired ∧ ∀ y ∈ c.run, y.index = e.index → y.status = .done := by
  have done := entryDone t .done isOpen run found
  have hands := itemEnd_hands (t := t) rfl done.brk (by rw [done.own]; exact lead) (by rw [done.voice]; exact next)
  obtain ⟨log, plays, own⟩ := handOver_filler (p := p.closeVoiceEntry t r v .done) (r := r) (v := v)
    (b := b.entryClosed e.index .done (b.noteAppend t p.log)) t runs
  rw [← hands] at log plays own
  have before := done.own
  have brk : ((p.itemEnd t r v).region r).brk = some (b.entryClosed e.index .done (b.noteAppend t p.log)) := by
    rw [own]
    exact done.brk
  exact ⟨itemRecorded_of t isOpen (log.trans done.log), plays, by rw [own], by rw [own, before]; exact lead, by rw [own, before], _, brk, rfl,
    fun y inside index => mem_entryClosed (b := b) (note := b.noteAppend t p.log) inside index⟩

theorem itemEnd_exhausted (lead : (p.region r).lead = some v) (last : (p.voice v).successor = none)
    (moving : (p.region r).state = .leadin ∨ (p.region r).state = .localPlay)
    (still : ∀ u ∈ p.voicesOf r, u ≠ v → (p.voice u).active = false)
    (rest : ∀ x ∈ b.run, x.index ≠ e.index → x.status ≠ .pending ∧ x.status ≠ .playing) (takes : 0 < (p.heldPlan r b).leadOutMs)
    (far : (p.region r).bed.level ≠ 231) : let q := p.itemEnd t r v
    ItemRecorded p t r b (e.doneRecord t r b.breakId) q.log ∧ (q.voice v).active = false ∧ (q.region r).state = .leadout ∧
      (q.region r).bed = (p.region r).bed.begin 231 (p.heldPlan r b).leadOutMs ∧
      ∃ c, (q.region r).brk = some c ∧ c.closing = false ∧ c.endCause = b.endCause ∧ c.timerRuns = b.timerRuns ∧ c.deadline = b.deadline ∧
        ∀ y ∈ c.run, y.index = e.index → y.status = .done := by
  have done := entryDone t .done isOpen run found
  have ended := entryEnded t .done isOpen run found
  obtain ⟨whole, settled⟩ := exhausted_entryClosed (note := b.noteAppend t p.log) rest
  have out : ¬ ((p.closeVoiceEntry t r v .done).region r).state = .leadout := by
    rw [done.own]
    rintro is
    rcases moving with is' | is' <;> (rw [is'] at is; cases is)
  have shape : p.itemEnd t r v = ((p.closeVoiceEntry t r v .done).releaseVoice v).earlyLeadOut t r := by
    rw [itemEnd_ends (t := t) rfl done.brk (by rw [done.own]; exact lead) (by rw [done.voice]; exact last)]
    unfold Play.leadEnds
    dsimp only
    rw [if_neg fun is => out (beq_iff_eq.1 is), if_pos whole]
  have calm : ∀ u ∈ ((p.closeVoiceEntry t r v .done).releaseVoice v).voicesOf r,
      (((p.closeVoiceEntry t r v .done).releaseVoice v).voice u).state ≠ .playing := by
    intro u inside playing
    have inactive : (((p.closeVoiceEntry t r v .done).releaseVoice v).voice u).active = false := by
      by_cases same : u = v
      · rw [same]
        exact ended.voice
      · rw [ended.voices u same]
        exact still u (ended.winds.mem_voicesOf inside) same
    rw [Voice.active, playing] at inactive
    cases inactive
  obtain ⟨log, voices, bed, brk, state⟩ := earlyLeadOut_still t ended.brk calm settled
  have bedBefore : (((p.closeVoiceEntry t r v .done).releaseVoice v).region r).bed = (p.region r).bed := ended.winds.bed_eq
  have plan : Play.heldPlan ((p.closeVoiceEntry t r v .done).releaseVoice v) r (b.entryClosed e.index .done (b.noteAppend t p.log)) =
      p.heldPlan r b := by
    unfold Play.heldPlan
    rw [slot_of_plans ended.winds.plans]
    rfl
  rw [← shape] at log voices bed brk state
  rw [bedBefore, plan] at bed state
  refine ⟨itemRecorded_of t isOpen (log.trans ended.log), ?_, state takes far, bed, _, brk, rfl, rfl, rfl, rfl,
    fun y inside index => mem_entryClosed (b := b) (note := b.noteAppend t p.log) inside index⟩
  rcases voices v with same | inactive
  · rw [same]
    exact ended.voice
  · exact inactive

theorem itemEnd_free (notLead : (p.region r).lead ≠ some v) (free : b.prep ≠ .awaiting v) :
    p.itemEnd t r v = ((((p.closeVoiceEntry t r v .done).releaseVoice v).completeLeadOut t r).prepare t r) := by
  have done := entryDone t .done isOpen run found
  rw [itemEnd_outgoing (t := t) rfl done.brk (by rw [done.own]; exact notLead)]
  exact outgoingEnds_released t free

theorem itemEnd_waited {x : RunEntry} (active : (p.voice v).active = true) (notLead : (p.region r).lead ≠ some v)
    (waits : b.prep = .awaiting v) (next : nextPending b.run = some x) (other : x.index ≠ e.index) : let q := p.itemEnd t r v
    ItemRecorded p t r b (e.doneRecord t r b.breakId) q.log ∧
      q.region r = { p.region r with brk := some { b.entryClosed e.index .done (b.noteAppend t p.log) with prep := .incoming v } } ∧
      (∀ u, u ≠ v → q.voice u = p.voice u) ∧ (q.voice v).state ≠ .playing ∧
      ((p.voice v).reading = false → PrimedAs (q.voice v) (p.primeOf x 0)) ∧
      ((p.voice v).reading = true → (q.voice v).state = .releasing ∧ (q.voice v).waiting = some (p.primeOf x 0)) := by
  have done := entryDone t .done isOpen run found
  have outgoing := itemEnd_outgoing (t := t) rfl done.brk (by rw [done.own]; exact notLead)
  obtain ⟨log, own, voices, state, primed, waiting⟩ := outgoingEnds_primes t done.brk (v := v) waits
    (nextPending_entryClosed (by nofun) next other) (by rw [done.voice]; exact active)
  rw [← outgoing] at log own voices state primed waiting
  rw [done.own] at own
  rw [done.voice, primeOf_of_dir done.dir] at primed waiting
  exact ⟨itemRecorded_of t isOpen (log.trans done.log), own, fun u apart => (voices u apart).trans (done.voice u), state, primed, waiting⟩

/-- The item end of a voice in LEADOUT, where no entry follows it. -/
theorem itemEnd_leadout (leadout : (p.region r).state = .leadout)
    (last : (p.region r).lead = some v ∧ (p.voice v).successor = none ∨ (p.region r).lead ≠ some v ∧ b.prep ≠ .awaiting v) :
    p.itemEnd t r v = ((p.closeVoiceEntry t r v .done).releaseVoice v).completeLeadOut t r := by
  have done := entryDone t .done isOpen run found
  rcases last with ⟨lead, none'⟩ | ⟨notLead, free⟩
  · rw [itemEnd_ends (t := t) rfl done.brk (by rw [done.own]; exact lead) (by rw [done.voice]; exact none')]
    unfold Play.leadEnds
    dsimp only
    rw [if_pos (by rw [done.own]; exact beq_iff_eq.2 leadout)]
  · rw [itemEnd_free t isOpen run found notLead free]
    have ended := entryEnded t .done isOpen run found
    have away : ∀ q : Play, q = ((p.closeVoiceEntry t r v .done).releaseVoice v).completeLeadOut t r →
        (q.region r).state ≠ .leadin ∧ (q.region r).state ≠ .localPlay := by
      rintro q rfl
      obtain ⟨pool, lead, own⟩ := ended.own
      by_cases complete : ((p.closeVoiceEntry t r v .done).releaseVoice v).leadOutDone r = true
      · cases closing : b.closing with
        | false =>
          rw [completeLeadOut_returns t complete ended.brk closing, Play.region_setRegion, if_pos rfl]
          exact ⟨nofun, nofun⟩
        | true =>
          rw [completeLeadOut_closes t complete ended.brk closing]
          obtain ⟨state, -⟩ := closeBreak_tail (t := t) .network ended.brk
          rw [state]
          exact ⟨nofun, nofun⟩
      · rw [completeLeadOut_runsOn t complete, own, leadout]
        exact ⟨nofun, nofun⟩
    exact prepare_away t (away _ rfl).1 (away _ rfl).2

end

/-! ## Two voices that end at one sample (R149) -/

section
variable {p : Play} {r : Region} {b : OpenBreak} {v : VoiceNo}

theorem handOver_calm {u : Successor} (t : Now) (isOpen : (p.region r).brk = some b) (lead : (p.region r).lead = some v) :
    (p.handOver t r v u b).log = p.log ∧ ∀ w, w ≠ v → (p.handOver t r v u b).voice w = p.voice w := by
  have other (f : Voice → Voice) {w : VoiceNo} (apart : w ≠ v) : (p.modVoice v f).voice w = p.voice w := by
    rw [Play.voice_modVoice, if_neg (Ne.symm apart)]
  unfold Play.handOver
  split
  · exact ⟨rfl, fun w apart => other (fun x => x.takeSuccessor u .playing (some t.count)) apart⟩
  · rename_i j run
    split
    · rw [arrive_of (b := b) _ (by exact isOpen)]
      exact ⟨rfl, fun w apart => other (fun x => x.takeSuccessor u .ready none) apart⟩
    · rename_i none'
      have prepared := Play.prepare_form (((p.modVoice v fun x => x.takeSuccessor u .playing (some t.count)).setPrep r .none).startEntry t r j) t r
      obtain ⟨-, -, -, -, log, -⟩ := prepared.rest
      refine ⟨log, fun w apart => (prepared.notLead w fun isLead => ?_).trans
        (other (fun x => x.takeSuccessor u .playing (some t.count)) apart)⟩
      unfold Play.startEntry Play.setPrep Play.modBreak at isLead
      rw [Play.region_modRegion, if_pos rfl, Play.region_modRegion, if_pos rfl] at isLead
      exact apart (Option.some.inj (isLead.symm.trans lead))

theorem leadEnds_calm (t : Now) (isOpen : (p.region r).brk = some b) (out : (p.region r).state ≠ .leadout)
    (still : ∀ w ∈ p.voicesOf r, w ≠ v → (p.voice w).state ≠ .playing) :
    (p.leadEnds t r v b).log = p.log ∧ ∀ w, w ≠ v → (p.leadEnds t r v b).voice w = p.voice w ∨ ((p.leadEnds t r v b).voice w).active = false := by
  obtain ⟨-, -, -, -, log, -⟩ := p.rest_releaseVoice v
  have other {w : VoiceNo} (apart : w ≠ v) := (p.voice_releaseVoice v w).2 (Ne.symm apart)
  unfold Play.leadEnds
  dsimp only
  rw [if_neg fun is => out (beq_iff_eq.1 is)]
  split
  · rename_i whole
    have winds : Winds r (fun _ => True) (p.region r).bed p (p.releaseVoice v) := winds_releaseVoice p trivial
    obtain ⟨pool, lead, own, -⟩ := p.region_releaseVoice v r
    have calm : ∀ w ∈ (p.releaseVoice v).voicesOf r, ((p.releaseVoice v).voice w).state ≠ .playing := by
      intro w inside playing
      by_cases same : w = v
      · have inactive := (p.voice_releaseVoice v w).1 same.symm
        rw [Voice.active, playing] at inactive
        cases inactive
      · rw [other same] at playing
        exact still w (winds.mem_voicesOf inside) same playing
    have settled : ∀ e ∈ b.run, e.status ≠ .pending := fun e inside pending =>
      absurd (List.all_eq_true.1 whole e inside) (by rw [pending]; nofun)
    obtain ⟨early, voices, -⟩ := earlyLeadOut_still (p := p.releaseVoice v) t (by rw [own]; exact isOpen) calm settled
    exact ⟨early.trans log, fun w apart => (voices w).imp_left fun same => same.trans (other apart)⟩
  · exact ⟨log, fun w apart => .inl (other apart)⟩

end

section
variable {p : Play} {r : Region} {b : OpenBreak} {e : RunEntry} {v : VoiceNo} (t : Now)
  (isOpen : (p.region r).brk = some b) (run : (p.voice v).run = some e.index) (found : findEntry b.run e.index = some e)
include isOpen run found

/-- The item end of the lead voice of a region in LOCAL whose other voice does not play: its record alone is appended. -/
theorem itemEnd_lead_calm (lead : (p.region r).lead = some v) (out : (p.region r).state ≠ .leadout)
    (still : ∀ w ∈ p.voicesOf r, w ≠ v → (p.voice w).state ≠ .playing) :
    (p.itemEnd t r v).log = (p.appendItem t r (e.doneRecord t r b.breakId)).log ∧
      ∀ w, w ≠ v → (p.itemEnd t r v).voice w = p.voice w ∨ ((p.itemEnd t r v).voice w).active = false := by
  have done := entryDone t .done isOpen run found
  have lead' : ((p.closeVoiceEntry t r v .done).region r).lead = some v := by rw [done.own]; exact lead
  have voicesOf : (p.closeVoiceEntry t r v .done).voicesOf r = p.voicesOf r := by
    unfold Play.voicesOf
    rw [done.own]
  cases next : (p.voice v).successor with
  | some u =>
    rw [itemEnd_hands (t := t) rfl done.brk lead' (by rw [done.voice]; exact next)]
    obtain ⟨log, voices⟩ := handOver_calm (u := u) t done.brk lead'
    exact ⟨log.trans done.log, fun w apart => .inl ((voices w apart).trans (done.voice w))⟩
  | none =>
    rw [itemEnd_ends (t := t) rfl done.brk lead' (by rw [done.voice]; exact next)]
    obtain ⟨log, voices⟩ := leadEnds_calm (v := v) t done.brk (by rw [done.own]; exact out) fun w inside apart => by
      rw [done.voice]
      exact still w (voicesOf ▸ inside) apart
    exact ⟨log.trans done.log, fun w apart => (voices w apart).imp_left fun same => same.trans (done.voice w)⟩

/-- The item end of the outgoing voice of a region in LOCAL. -/
structure OutgoingEnded (t : Now) (r : Region) (b : OpenBreak) (e : RunEntry) (v : VoiceNo) (p q : Play) : Prop where
  log : q.log = (p.appendItem t r (e.doneRecord t r b.breakId)).log
  brk : ∃ c, (q.region r).brk = some c ∧ c.run = (b.entryClosed e.index .done (b.noteAppend t p.log)).run ∧
    c.logged = some (b.noteAppend t p.log) ∧ c.breakId = b.breakId
  state : (q.region r).state = .localPlay
  lead : (q.region r).lead = (p.region r).lead
  voice : (q.voice v).state ≠ .playing
  released : b.prep ≠ .awaiting v → (q.voice v).active = false
  voices : ∀ w, w ≠ v → ∃ next pend, q.voice w = { p.voice w with successor := next, pending := pend }
  staged : b.prep = .staged → (∃ x ∈ b.run, x.status = .pending ∧ x.index ≠ e.index) → ∀ w, w ≠ v → q.voice w = p.voice w
  within : ∀ w ∈ q.voicesOf r, w ∈ p.voicesOf r
  gates : q.gates = p.gates

theorem outgoingEnded (active : (p.voice v).active = true) (notLead : (p.region r).lead ≠ some v) (inLocal : (p.region r).state = .localPlay) :
    OutgoingEnded t r b e v p (p.itemEnd t r v) := by
  have done := entryDone t .done isOpen run found
  have ended := entryEnded t .done isOpen run found
  obtain ⟨pool, lead, own⟩ := ended.own
  have stays : ∀ w, w ≠ v → ∃ next pend, Play.voice ((p.closeVoiceEntry t r v .done).releaseVoice v) w =
      { p.voice w with successor := next, pending := pend } := fun w apart => ⟨_, _, ended.voices w apart⟩
  have notPlaying {x : Voice} (inactive : x.active = false) : x.state ≠ .playing := fun playing => by
    rw [Voice.active, playing] at inactive
    cases inactive
  by_cases waits : b.prep = .awaiting v
  · have outgoing := itemEnd_outgoing (t := t) rfl done.brk (by rw [done.own]; exact notLead)
    cases next : nextPending (b.entryClosed e.index .done (b.noteAppend t p.log)).run with
    | some x =>
      obtain ⟨log, own', voices, state, -, -⟩ := outgoingEnds_primes t done.brk (v := v) waits next (by rw [done.voice]; exact active)
      have gates : ((p.closeVoiceEntry t r v .done).outgoingEnds t r v (b.entryClosed e.index .done (b.noteAppend t p.log))).gates = p.gates := by
        have primes : (p.closeVoiceEntry t r v .done).outgoingEnds t r v (b.entryClosed e.index .done (b.noteAppend t p.log)) = _ :=
          (if_pos (beq_iff_eq.2 waits))
        rw [primes]
        simp only [next]
        exact done.gates
      rw [← outgoing] at log own' voices state gates
      rw [done.own] at own'
      refine ⟨log.trans done.log,
        ⟨{ b.entryClosed e.index .done (b.noteAppend t p.log) with prep := .incoming v }, by rw [own'], rfl, rfl, rfl⟩, by rw [own']; exact inLocal, by rw [own'], state, fun free => absurd waits free,
        fun w apart => ⟨_, _, (voices w apart).trans (done.voice w)⟩, fun is => absurd (waits.symm.trans is) nofun, fun w inside => ?_, gates⟩
      rw [mem_voicesOf] at inside ⊢
      rw [own'] at inside
      exact inside
    | none =>
      have releases : p.itemEnd t r v = (p.closeVoiceEntry t r v .done).releaseVoice v := by
        rw [outgoing]
        refine (if_pos (beq_iff_eq.2 waits)).trans ?_
        simp only [next]
      rw [releases]
      exact ⟨ended.log, ⟨_, ended.brk, rfl, rfl, rfl⟩, by rw [own]; exact inLocal, ended.lead notLead, notPlaying ended.voice, fun _ => ended.voice,
        stays, fun is => absurd (waits.symm.trans is) nofun, fun w inside => ended.winds.mem_voicesOf inside, ended.winds.gates⟩
  · have runsOn := ended.runsOn (.inl (by rw [inLocal]; nofun))
    have prepared := Play.prepare_form ((p.closeVoiceEntry t r v .done).releaseVoice v) t r
    have free := itemEnd_free t isOpen run found notLead waits
    rw [completeLeadOut_runsOn t runsOn] at free
    obtain ⟨-, -, gates, -, log, -⟩ := prepared.rest
    obtain ⟨prep, tested, region⟩ := prepared.region ended.brk
    have shown (w : VoiceNo) := active_prepared prepared w
    rw [← free] at log region gates shown
    have inactive : ((p.itemEnd t r v).voice v).active = false := (shown v).1.trans ended.voice
    refine ⟨log.trans ended.log,
      ⟨{ b.entryClosed e.index .done (b.noteAppend t p.log) with prep := prep, fillerTested := tested }, by rw [region], rfl, rfl, rfl⟩, by rw [region, own]; exact inLocal, ?_, notPlaying inactive, fun _ => inactive,
      fun w apart => ?_, fun is ⟨x, inside, pending, other⟩ w apart => ?_, fun w inside => ?_, gates.trans ended.winds.gates⟩
    · rw [region]
      exact ended.lead notLead
    · obtain ⟨next, pend, form⟩ := prepared.voices w
      rw [free, form, ended.voices w apart]
      exact ⟨_, _, rfl⟩
    · have isNext : ∃ y, nextPending (b.entryClosed e.index .done (b.noteAppend t p.log)).run = some y := by
        refine Option.isSome_iff_exists.1 (List.find?_isSome.2 ⟨x, ?_, beq_iff_eq.2 pending⟩)
        exact List.mem_map.2 ⟨x, inside, if_neg other⟩
      obtain ⟨y, isNext⟩ := isNext
      rw [free, prepare_staged t ended.brk isNext (by show b.prep ≠ _; rw [is]; nofun)]
      exact ended.voices w apart
    · refine ended.winds.mem_voicesOf ?_
      rw [mem_voicesOf] at inside ⊢
      rw [region] at inside
      exact inside

end

/-- Settles O21: what follows the item end by what is staged, and the two voices of a region that end at one sample. -/
theorem itemEndCloses : Obligations.ItemEndCloses := by
  intro s v r b e assembling holder ends inside isOpen run found done item recorded first
  have playing : (s.play.voice v).state = .playing := by
    have atEnd := (Bool.and_eq_true_iff.1 ends).1
    exact beq_iff_eq.1 (Bool.and_eq_true_iff.1 atEnd).1
  have active : (s.play.voice v).active = true := by
    rw [Voice.active, playing]
    rfl
  refine ⟨_, exec_itemEnd assembling holder ends, fun isFirst => ?_, fun u d order apart ends' run' found' other inLocal lead => ?_⟩
  · rw [finishBefore_calm s.now isFirst, finishVoice_itemEnd s.now r ends]
    refine ⟨fun u x lead next runs found' free other => ?_, fun u x g lead next runs found' linked other => ?_, fun u lead next runs => ?_,
      fun lead last moving still rest takes far => itemEnd_exhausted s.now isOpen run found lead last moving still rest takes far,
      fun notLead free inLocal => ?_, fun x notLead waits next other => ?_, fun leadout last => ?_⟩
    · obtain ⟨log, plays, rest⟩ := itemEnd_entry s.now isOpen run found lead next runs found' free other
      exact ⟨log, plays.state, plays.clip, plays.pos, plays.endPos, plays.fader, plays.group, plays.startedAt, rest⟩
    · obtain ⟨log, plays, rest⟩ := itemEnd_held s.now isOpen run found lead next runs found' linked other
      exact ⟨log, plays.state, plays.clip, plays.pos, plays.endPos, plays.fader, rest⟩
    · obtain ⟨log, plays, rest⟩ := itemEnd_filler s.now isOpen run found lead next runs
      exact ⟨log, plays.state, plays.clip, plays.pos, plays.endPos, plays.loop, plays.fader, rest⟩
    · have ended := outgoingEnded s.now isOpen run found active notLead inLocal
      exact ⟨itemRecorded_of s.now isOpen ended.log, ended.released free⟩
    · obtain ⟨log, own, -, -, primed, waiting⟩ := itemEnd_waited s.now isOpen run found active notLead waits next other
      obtain ⟨format, trim, page, prime⟩ := primeOf_fields s.play x 0
      rw [prime] at primed waiting
      have brk : ((s.play.itemEnd s.now r v).region r).brk =
          some { b.entryClosed e.index .done (b.noteAppend s.now s.play.log) with prep := .incoming v } := by rw [own]
      refine ⟨log, by rw [own], by rw [own],
        ⟨_, brk, rfl, rfl, fun y within index => mem_entryClosed (b := b) (note := b.noteAppend s.now s.play.log) within index⟩,
        fun idle => ?_, fun reads => ?_⟩
      · have as := primed idle
        exact ⟨as.state, as.clip, as.pos, as.endPos, as.fader, as.group, as.run, as.ring⟩
      · exact ⟨(waiting reads).1, _, (waiting reads).2, rfl, rfl, rfl, rfl, rfl, rfl⟩
    · intro runsOn
      have ended := entryEnded s.now .done isOpen run found
      obtain ⟨pool, lead, own⟩ := ended.own
      have complete : ((s.play.closeVoiceEntry s.now r v .done).releaseVoice v).leadOutDone r = true ↔ ¬ runsOn := by
        refine ⟨fun complete => ?_, fun still => ?_⟩
        · obtain ⟨-, ramp, still⟩ := (leadOutDone_iff _ r).1 complete
          rw [own] at ramp
          rintro (moves | ⟨u, among, apart, plays⟩)
          · exact moves ramp
          · rw [← ended.voices u apart] at plays
            rw [still u (ended.winds.mem_voicesOf_active among plays)] at plays
            cases plays
        · obtain ⟨ramp, still⟩ := not_or.1 still
          exact ended.done leadout (not_not.1 ramp) fun u among apart => Bool.eq_false_iff.2 fun plays => still ⟨u, among, apart, plays⟩
      rw [itemEnd_leadout s.now isOpen run found leadout last]
      refine ⟨(completeLeadOut_voices _ s.now r v).inactive ended.voice, fun open' => ?_, fun still closing => ?_⟩
      · by_cases moves : runsOn
        · rw [completeLeadOut_runsOn s.now fun is => complete.1 is moves, if_pos moves]
          exact ⟨itemRecorded_of s.now isOpen ended.log, by rw [own]; exact leadout, by rw [own], _, ended.brk, rfl, rfl,
            fun y within index => mem_entryClosed within index⟩
        · have early := open'.resolve_left moves
          rw [completeLeadOut_returns s.now (complete.2 moves) ended.brk early, if_neg moves, Play.region_setRegion, if_pos rfl]
          exact ⟨itemRecorded_of s.now isOpen ended.log, rfl, by rw [own], _, ended.brk, rfl, rfl,
            fun y within index => mem_entryClosed within index⟩
      · rw [completeLeadOut_closes s.now (complete.2 still) ended.brk closing]
        have shut := closeBreak_spec s.now .network ended.brk
        obtain ⟨pool', own'⟩ := shut.own
        refine ⟨by rw [own']; rfl, by rw [own']; rfl, _, shut.log.trans (Play.log_appendRecord _ _ _ _ ended.log), rfl, rfl,
          fun k cause => ?_, rfl, rfl⟩
        show b.endCause.getD .bypass = k
        rw [cause]
        rfl
  · have playing' : (s.play.voice u).state = .playing :=
      beq_iff_eq.1 (Bool.and_eq_true_iff.1 (Bool.and_eq_true_iff.1 ends').1).1
    have active' : (s.play.voice u).active = true := by
      rw [Voice.active, playing']
      rfl
    have notLead : (s.play.region r).lead ≠ some u := fun is => apart (Option.some.inj (is.symm.trans lead))
    have one := outgoingEnded s.now isOpen run' found' active' notLead inLocal
    obtain ⟨c, isOpenC, runs, logged, breakId⟩ := one.brk
    obtain ⟨next, pend, voiceV⟩ := one.voices v (Ne.symm apart)
    have ends2 : ((s.play.itemEnd s.now r u).voice v).itemEndDue = true := by rw [voiceV]; exact ends
    have run2 : ((s.play.itemEnd s.now r u).voice v).run = some e.index := by rw [voiceV]; exact run
    have found2 : findEntry c.run e.index = some e := by
      rw [runs]
      exact (findEntry_entryClosed (Ne.symm other) _ _).trans found
    have lead2 : ((s.play.itemEnd s.now r u).region r).lead = some v := one.lead.trans lead
    have shape : (s.play.finishBefore s.now r v).finishVoice s.now r v = (s.play.itemEnd s.now r u).itemEnd s.now r v := by
      rw [finishBefore_second s.now order apart, finishVoice_itemEnd s.now r ends', finishVoice_itemEnd s.now r ends2]
    have two := itemEnd_lead_calm s.now isOpenC run2 found2 lead2 (by rw [one.state]; nofun) fun w among other => by
      have member : w ∈ s.play.voicesInRunOrder r := (mem_voicesInRunOrder s.play r w).2 (one.within w among)
      rw [order] at member
      rcases List.mem_cons.1 member with rfl | last
      · exact one.voice
      · exact absurd (List.mem_singleton.1 last) other
    rw [shape]
    refine ⟨?_, fun free => ?_, fun w x free follows runs' staged foundX pending apartE apartD unlinked => ?_⟩
    · obtain ⟨a, form, -⟩ := appendItem_of s.now (done d) isOpen
      have isOpen2 : ((s.play.appendItem s.now r (done d)).region r).brk = some { b with logged := some (b.noteAppend s.now s.play.log) } := by
        rw [form, Play.region_setRegion, if_pos rfl]
      have log := two.1
      rw [breakId] at log
      exact log.trans (log_appendItem_same s.now item isOpen2 isOpenC one.log logged)
    · have inactive := one.released free
      rcases two.2 u apart with same | ended
      · rw [same]
        exact inactive
      · exact ended
    · have still := one.staged staged ⟨x, List.mem_of_find?_eq_some foundX, pending, apartD⟩ v (Ne.symm apart)
      have unlinked2 : (s.play.itemEnd s.now r u).linkedTo r x = none := by
        unfold Play.linkedTo Play.gate
        rw [one.gates]
        exact unlinked
      have foundX2 : findEntry c.run x.index = some x := by
        rw [runs]
        exact (findEntry_entryClosed apartD _ _).trans foundX
      obtain ⟨-, plays, -⟩ := itemEnd_entry s.now isOpenC run2 found2 lead2 (by rw [still]; exact follows) runs' foundX2 unlinked2 apartE
      exact ⟨plays.state, plays.clip, plays.pos⟩

end Sys2Proof.Machine

/-! # The settling of a sample (O13) -/

namespace Sys2Proof.Machine

/-! ## The arrivals of the other regions -/

/-- No region but one has come to a gate or left one. -/
def OthersStay (r : Region) (p q : Play) : Prop := ∀ y, y ≠ r → (q.region y).arriving = (p.region y).arriving

section
variable {r : Region} {p q u : Play}

theorem OthersStay.refl (r : Region) (p : Play) : OthersStay r p p := fun _ _ => rfl

theorem OthersStay.trans (first : OthersStay r p q) (second : OthersStay r q u) : OthersStay r p u :=
  fun y other => (second y other).trans (first y other)

theorem OthersStay.setRegion (before : OthersStay r p q) (x : RegionRec) : OthersStay r p (q.setRegion r x) := by
  intro y other
  rw [Play.region_setRegion, if_neg (Ne.symm other)]
  exact before y other

theorem Within.othersStay {vs : VoiceNo → Prop} (within : Within r vs p q) : OthersStay r p q := fun y other => by rw [within.regions y other]

theorem Released.othersStay (released : Released p q) (r : Region) : OthersStay r p q := by
  intro y _
  obtain ⟨pool, lead, own⟩ := released.regions y
  rw [own]

theorem OthersStay.foldl {α : Type} {f : Play → α → Play} (each : ∀ q x, OthersStay r q (f q x)) (l : List α) (p : Play) :
    OthersStay r p (l.foldl f p) := by
  induction l generalizing p with
  | nil => exact .refl r p
  | cons x l ih => exact (each p x).trans (ih _)

theorem othersStay_closeEntry (p : Play) (t : Now) (r : Region) (i : Nat) (st : EntryStatus) (start : AirTime) :
    OthersStay r p (p.closeEntry t r i st start) := by
  cases isOpen : (p.region r).brk with
  | none =>
    unfold Play.closeEntry Play.withBreak
    simp only [isOpen]
    exact .refl r p
  | some b =>
    cases found : findEntry b.run i with
    | none =>
      rw [closeEntry_none t st start isOpen found]
      exact .refl r p
    | some e =>
      obtain ⟨a, form, -⟩ := closeEntry_of t st start isOpen found
      rw [form]
      exact OthersStay.setRegion (p := p) (fun _ _ => rfl) _

theorem othersStay_closeVoiceEntry (p : Play) (t : Now) (r : Region) (v : VoiceNo) (st : EntryStatus) :
    OthersStay r p (p.closeVoiceEntry t r v st) := by
  rcases closeVoiceEntry_cases p t r v st with same | ⟨i, start, -, form⟩
  · rw [same]
    exact .refl r p
  · rw [form]
    exact othersStay_closeEntry p t r i st start

theorem othersStay_releaseVoice (p : Play) (r : Region) (v : VoiceNo) : OthersStay r p (p.releaseVoice v) := (released_releaseVoice p v).othersStay r

theorem othersStay_finishAtEnd (p : Play) (t : Now) (r : Region) (v : VoiceNo) : OthersStay r p (p.finishAtEnd t r v) := by
  unfold Play.finishAtEnd
  split
  · exact (othersStay_closeVoiceEntry p t r v .done).trans (othersStay_releaseVoice _ r v)
  · exact .refl r p

theorem othersStay_rampOut (p : Play) (t : Now) (r : Region) (ms : Nat) (v : VoiceNo) : OthersStay r p (p.rampOut t r ms v) := by
  by_cases playing : (p.voice v).state = .playing
  · rw [rampOut_playing t r ms playing]
    split
    · exact OthersStay.trans (q := p.modVoice v fun x => x.rampingOut ms) (fun _ _ => rfl)
        ((othersStay_closeVoiceEntry _ t r v .trimmed).trans (othersStay_releaseVoice _ r v))
    · exact fun _ _ => rfl
  · unfold Play.rampOut
    rw [if_neg fun is => playing (beq_iff_eq.1 is)]
    exact othersStay_releaseVoice p r v

theorem othersStay_trimPending (p : Play) (t : Now) (r : Region) : OthersStay r p (p.trimPending t r) := by
  unfold Play.trimPending Play.withBreak
  split
  · exact .refl r p
  · exact .foldl (fun q (e : RunEntry) => othersStay_closeEntry q t r e.index .trimmed t.air) _ p

end

/-! ## An entry that stays closed while its region is wound down -/

/-- The entries of an index are not PENDING, and, where that is so at all, still SKIPPED with reason GATE. -/
def StaysSkipped (r : Region) (i : Nat) (kept : Prop) (p : Play) : Prop :=
  ∃ b, (p.region r).brk = some b ∧ (∃ x ∈ b.run, x.index = i) ∧
    ∀ x ∈ b.run, x.index = i → x.status ≠ .pending ∧ (kept → x.status = .skipped .gate)

section
variable {r : Region} {i : Nat} {kept : Prop} {p q : Play}

theorem StaysSkipped.brk_run {b c : OpenBreak} (stays : StaysSkipped r i kept p) (isOpen : (p.region r).brk = some b)
    (isOpen' : (q.region r).brk = some c) (run : c.run = b.run) : StaysSkipped r i kept q := by
  obtain ⟨d, isOpen'', form⟩ := stays
  cases isOpen.symm.trans isOpen''
  exact ⟨c, isOpen', by rw [run]; exact form⟩

theorem StaysSkipped.region (stays : StaysSkipped r i kept p) (same : (q.region r).brk = (p.region r).brk) : StaysSkipped r i kept q := by
  obtain ⟨b, isOpen, form⟩ := stays
  exact ⟨b, same.trans isOpen, form⟩

theorem StaysSkipped.closeEntry {j : Nat} {st : EntryStatus} (stays : StaysSkipped r i kept p) (t : Now) (start : AirTime)
    (settled : st ≠ .pending) (other : kept → j ≠ i) : StaysSkipped r i kept (p.closeEntry t r j st start) := by
  obtain ⟨b, isOpen, ⟨x, inside, index⟩, all⟩ := stays
  cases found : findEntry b.run j with
  | none =>
    rw [closeEntry_none t st start isOpen found]
    exact ⟨b, isOpen, ⟨x, inside, index⟩, all⟩
  | some e =>
    obtain ⟨a, form, -⟩ := closeEntry_of t st start isOpen found
    rw [form]
    refine ⟨_, congrArg RegionRec.brk ((Play.region_setRegion _ r r _).trans (if_pos rfl)), ⟨_, List.mem_map_of_mem inside, ?_⟩,
      fun y within index' => ?_⟩
    · split <;> exact index
    · by_cases own : y.index = j
      · rw [mem_entryClosed within own]
        exact ⟨settled, fun is => absurd (own.symm.trans index') (other is)⟩
      · exact all y (mem_entryClosed_other within own) index'

theorem StaysSkipped.closeVoiceEntry {v : VoiceNo} {st : EntryStatus} (stays : StaysSkipped r i kept p) (t : Now) (settled : st ≠ .pending)
    (other : kept → (p.voice v).run ≠ some i) : StaysSkipped r i kept (p.closeVoiceEntry t r v st) := by
  rcases closeVoiceEntry_cases p t r v st with same | ⟨j, start, run, form⟩
  · rw [same]
    exact stays
  · rw [form]
    exact stays.closeEntry t start settled fun is same => other is (same ▸ run)

theorem StaysSkipped.releaseVoice (stays : StaysSkipped r i kept p) (v : VoiceNo) : StaysSkipped r i kept (p.releaseVoice v) := by
  obtain ⟨pool, lead, own, -⟩ := p.region_releaseVoice v r
  exact stays.region (by rw [own])

theorem StaysSkipped.finishAtEnd {v : VoiceNo} (stays : StaysSkipped r i kept p) (t : Now)
    (other : kept → (p.voice v).state = .playing → (p.voice v).run ≠ some i) : StaysSkipped r i kept (p.finishAtEnd t r v) := by
  unfold Play.finishAtEnd
  split
  · rename_i ends
    have playing := (Bool.and_eq_true_iff.1 (Bool.and_eq_true_iff.1 ends).1).1
    exact (stays.closeVoiceEntry (st := .done) t nofun fun is => other is (beq_iff_eq.1 playing)).releaseVoice v
  · exact stays

theorem StaysSkipped.rampOut {v : VoiceNo} (stays : StaysSkipped r i kept p) (t : Now) (ms : Nat)
    (other : kept → (p.voice v).state = .playing → (p.voice v).run ≠ some i) : StaysSkipped r i kept (p.rampOut t r ms v) := by
  by_cases playing : (p.voice v).state = .playing
  · have moved : StaysSkipped r i kept (p.modVoice v fun x => x.rampingOut ms) := stays
    rw [rampOut_playing t r ms playing]
    split
    · refine (moved.closeVoiceEntry (st := .trimmed) t nofun fun is => ?_).releaseVoice v
      obtain ⟨u, ring, pending, form⟩ := rampingOut_form (p.voice v) ms
      rw [Play.voice_modVoice, if_pos rfl, form]
      exact other is playing
    · exact moved
  · unfold Play.rampOut
    rw [if_neg fun is => playing (beq_iff_eq.1 is)]
    exact stays.releaseVoice v

/-- The entries trimmed are PENDING, so none of them is one that stays skipped. -/
theorem StaysSkipped.trimPending (stays : StaysSkipped r i kept p) (t : Now) : StaysSkipped r i kept (p.trimPending t r) := by
  have fold : ∀ (l : List RunEntry) (q : Play), (∀ e ∈ l, e.index ≠ i) → StaysSkipped r i kept q →
      StaysSkipped r i kept (l.foldl (fun q e => q.closeEntry t r e.index .trimmed t.air) q) := by
    intro l
    induction l with
    | nil => exact fun q _ stays => stays
    | cons e l ih =>
      exact fun q others stays => ih _ (fun x inside => others x (List.mem_cons_of_mem _ inside))
        (stays.closeEntry (st := .trimmed) t t.air nofun fun _ => others e List.mem_cons_self)
  obtain ⟨b, isOpen, member, all⟩ := stays
  unfold Play.trimPending
  rw [withBreak_of _ isOpen]
  refine fold _ p (fun e inside index => ?_) ⟨b, isOpen, member, all⟩
  obtain ⟨within, pending⟩ := List.mem_filter.1 inside
  exact (all e within index).1 (beq_iff_eq.1 pending)

/-- Steps of winding down over some voices of the region keep a skipped entry that none of them plays. -/
theorem StaysSkipped.foldl {f : Play → VoiceNo → Play} (l : List VoiceNo)
    (winds : ∀ v q, Winds r (fun _ => True) (q.region r).bed q (f q v))
    (each : ∀ v q, (kept → (q.voice v).state = .playing → (q.voice v).run ≠ some i) → StaysSkipped r i kept q → StaysSkipped r i kept (f q v))
    (other : kept → ∀ v ∈ l, (p.voice v).state = .playing → (p.voice v).run ≠ some i) (stays : StaysSkipped r i kept p) :
    StaysSkipped r i kept (l.foldl f p) := by
  induction l generalizing p with
  | nil => exact stays
  | cons v l ih =>
    refine ih (fun is w inside playing => ?_) (each v p (fun is => other is v List.mem_cons_self) stays)
    obtain ⟨playing', run⟩ := ((winds v p).voices w).playing playing
    rw [run]
    exact other is w (List.mem_cons_of_mem _ inside) playing'

end

/-! ## The early-network lead-out that follows a skip -/

section
variable {p : Play} {r : Region} {b : OpenBreak}

/-- An early-network lead-out: the gates stand, no other region has come to one, and an entry that was skipped stays so. -/
theorem earlyLeadOut_keeps {i : Nat} {kept : Prop} (t : Now) (isOpen : (p.region r).brk = some b) (stays : StaysSkipped r i kept p)
    (other : kept → ∀ v ∈ p.voicesOf r, (p.voice v).state = .playing → (p.voice v).run ≠ some i) : let q := p.earlyLeadOut t r
    q.gates = p.gates ∧ OthersStay r p q ∧ StaysSkipped r i kept q := by
  generalize isMs : (p.heldPlan r b).leadOutMs = ms
  let p1 := (p.voicesInRunOrder r).foldl (fun q v => q.finishAtEnd t r v) p
  let p2 := (p1.voicesInRunOrder r).foldl (fun q v => q.rampOut t r ms v) p1
  let u := p2.trimPending t r
  have first : Winds r (fun _ => True) (p.region r).bed p p1 := Winds.foldl _ (fun v _ q => winds_finishAtEnd q t trivial) p
  have second : Winds r (fun _ => True) (p1.region r).bed p1 p2 := Winds.foldl _ (fun v _ q => winds_rampOut q t ms trivial) p1
  have third : Winds r (fun _ => True) (p2.region r).bed p2 u := winds_trimPending p2 t
  have winds := winds_of_bed (winds_of_bed first second) third
  have stays1 : StaysSkipped r i kept p1 := stays.foldl _ (fun v q => winds_finishAtEnd q t trivial) (fun v q other stays => stays.finishAtEnd t other)
    fun is v inside => other is v ((mem_voicesInRunOrder p r v).1 inside)
  have stays2 : StaysSkipped r i kept p2 := stays1.foldl _ (fun v q => winds_rampOut q t ms trivial) (fun v q other stays => stays.rampOut t ms other)
    fun is v inside playing => by
      obtain ⟨playing', run⟩ := (first.voices v).playing playing
      rw [run]
      exact other is v (first.mem_voicesOf ((mem_voicesInRunOrder p1 r v).1 inside)) playing'
  have stays3 : StaysSkipped r i kept u := stays2.trimPending t
  have others : OthersStay r p u := ((OthersStay.foldl (fun q v => othersStay_finishAtEnd q t r v) _ p).trans
    (OthersStay.foldl (fun q v => othersStay_rampOut q t r ms v) _ p1)).trans (othersStay_trimPending p2 t r)
  have form : p.windDown t r ms false = u.withdraw r := rfl
  obtain ⟨c, isOpen', -⟩ := winds.brk b isOpen
  have isOpen'' : ((u.withdraw r).region r).brk = some c := isOpen'
  let x : RegionRec := { u.region r with
    brk := some { c with closing := false, prep := .none, mixLate := false }, state := .leadout
    bed := (u.region r).bed.begin 231 ms, arriving := none, opening := none }
  have shape : p.earlyLeadOut t r = ((u.withdraw r).setRegion r x).completeLeadOut t r := by
    unfold Play.earlyLeadOut
    rw [withBreak_of _ isOpen, isMs]
    dsimp only
    rw [form, modBreak_of _ isOpen'', Play.modRegion_eq, Play.setRegion_setRegion, Play.region_setRegion, if_pos rfl]
    rfl
  have region : ((u.withdraw r).setRegion r x).region r = x := (Play.region_setRegion _ r r x).trans (if_pos rfl)
  intro q
  have brk : x.brk = some { c with closing := false, prep := .none, mixLate := false } := rfl
  have ends : ∃ y : RegionRec, q = (u.withdraw r).setRegion r y ∧ y.brk = x.brk := by
    by_cases complete : ((u.withdraw r).setRegion r x).leadOutDone r = true
    · refine ⟨{ x with state := .returned }, shape.trans ?_, rfl⟩
      rw [completeLeadOut_returns t complete ((congrArg RegionRec.brk region).trans brk) rfl, Play.setRegion_setRegion, region]
    · exact ⟨x, shape.trans (completeLeadOut_runsOn t complete), rfl⟩
  obtain ⟨y, is, same⟩ := ends
  rw [is]
  have own : ((u.withdraw r).setRegion r y).region r = y := (Play.region_setRegion _ r r _).trans (if_pos rfl)
  exact ⟨winds.gates, OthersStay.setRegion (p := p) (q := u.withdraw r) others _,
    stays3.brk_run isOpen' (((congrArg RegionRec.brk own).trans same).trans brk) rfl⟩

end

/-! ## A GATE skip (R75, R99) -/

theorem findEntry_of_next {run : List RunEntry} {e : RunEntry} (next : nextPending run = some e) : ∃ d, findEntry run e.index = some d :=
  Option.isSome_iff_exists.1 (List.find?_isSome.2 ⟨e, List.mem_of_find?_eq_some next, beq_iff_eq.2 rfl⟩)

theorem skipGate_spec {p : Play} {r : Region} {b : OpenBreak} {v : VoiceNo} {e : RunEntry} (t : Now) (isOpen : (p.region r).brk = some b)
    (lead : (p.region r).lead = some v) (next : nextPending b.run = some e) : let q := p.skipGate t r
    q.gates = p.gates ∧ OthersStay r p q ∧ GateSkipped p q r e.index := by
  obtain ⟨d, found⟩ := findEntry_of_next next
  obtain ⟨a, closed, -⟩ := closeEntry_of t (.skipped .gate) t.air isOpen found
  let u := p.closeEntry t r e.index (.skipped .gate) t.air
  let c := b.entryClosed e.index (.skipped .gate) (b.noteAppend t p.log)
  have isOpenU : (u.region r).brk = some c := by
    show ((p.closeEntry t r e.index (.skipped .gate) t.air).region r).brk = _
    rw [closed, Play.region_setRegion, if_pos rfl]
  have gates : u.gates = p.gates := (congrArg Play.gates closed).trans rfl
  have others : OthersStay r p u := othersStay_closeEntry p t r _ _ _
  have voice (w : VoiceNo) : u.voice w = p.voice w := voice_closeEntry p t r _ _ _ w
  let kept : Prop := ∀ w ∈ p.voicesOf r, (p.voice w).state = .playing → (p.voice w).run ≠ some e.index
  have stays : StaysSkipped r e.index kept u := by
    refine ⟨c, isOpenU, ⟨_, List.mem_map_of_mem (List.mem_of_find?_eq_some next), ?_⟩, fun x inside index => ?_⟩
    · split <;> rfl
    · rw [mem_entryClosed inside index]
      exact ⟨nofun, fun _ => rfl⟩
  have shape : p.skipGate t r = match nextPending c.run with
      | some x => match u.linkedTo r x with
        | some g => (u.primeVoice v (u.primeOf x x.level)).arrive r g
        | none => (u.primeVoice v (u.primeOf x x.level)).setPrep r .afterSkip
      | none => if u.fillerUsable t r c then
          ((u.primeVoice v (u.fillerOf r)).modRegion r fun x => { x with state := .fill, bed := x.bed.cut 0 }).setPrep r .fillerAfterSkip
        else (u.releaseVoice v).earlyLeadOut t r := by
    unfold Play.skipGate
    rw [withBreak_of _ isOpen, lead, next]
    dsimp only
    refine (withBreak_of _ isOpenU).trans ?_
    cases nextPending c.run <;> rfl
  intro q
  have is : q = _ := shape
  have primed (z : Prime) : Within r (· = v) u (u.primeVoice v z) := within_modVoice u r _ _ rfl
  have ends (w : Play) (record : RegionRec) (before : Play) (form : w = before.setRegion r record) (within : Within r (· = v) u before)
      (run : ∃ d, record.brk = some d ∧ d.run = c.run) : w.gates = p.gates ∧ OthersStay r p w ∧ GateSkipped p w r e.index := by
    obtain ⟨d, brk, same⟩ := run
    rw [form]
    exact ⟨within.gates.trans gates, others.trans (within.othersStay.setRegion record),
      stays.brk_run isOpenU ((congrArg RegionRec.brk ((Play.region_setRegion _ r r _).trans (if_pos rfl))).trans brk) same⟩
  cases following : nextPending c.run with
  | some x =>
    rw [following] at is
    dsimp only at is
    have isOpenP : ((u.primeVoice v (u.primeOf x x.level)).region r).brk = some c := isOpenU
    cases linked : u.linkedTo r x with
    | some g =>
      rw [linked] at is
      exact ends q _ _ (is.trans (arrive_of g isOpenP)) (primed _) ⟨_, rfl, rfl⟩
    | none =>
      rw [linked] at is
      exact ends q _ _ (is.trans (modBreak_of _ isOpenP)) (primed _) ⟨_, rfl, rfl⟩
  | none =>
    rw [following] at is
    dsimp only at is
    by_cases usable : u.fillerUsable t r c = true
    · rw [if_pos usable] at is
      let y : RegionRec := { u.region r with state := .fill, bed := (u.region r).bed.cut 0 }
      have isOpenF : (((u.primeVoice v (u.fillerOf r)).setRegion r y).region r).brk = some c := by
        rw [Play.region_setRegion, if_pos rfl]
        exact isOpenU
      refine ends q _ _ (is.trans (modBreak_of (p := (u.primeVoice v (u.fillerOf r)).setRegion r y) _ isOpenF))
        ((primed _).trans (within_setRegion _ r _ y)) ⟨_, rfl, rfl⟩
    · rw [if_neg usable] at is
      obtain ⟨pool, lead', own, -⟩ := u.region_releaseVoice v r
      obtain ⟨-, -, gates', -⟩ := u.rest_releaseVoice v
      have winds : Winds r (fun _ => True) (u.region r).bed u (u.releaseVoice v) := winds_releaseVoice u trivial
      obtain ⟨gates'', others', stays'⟩ := earlyLeadOut_keeps (p := u.releaseVoice v) t (by rw [own]; exact isOpenU) (stays.releaseVoice v)
        fun is w inside playing => by
          obtain ⟨playing', run⟩ := (winds.voices w).playing playing
          rw [run, voice]
          refine is w ?_ (by rw [← voice]; exact playing')
          have member := winds.mem_voicesOf inside
          rw [mem_voicesOf] at member ⊢
          have same : (u.region r).pool = (p.region r).pool := by
            show ((p.closeEntry t r e.index (.skipped .gate) t.air).region r).pool = _
            rw [closed, Play.region_setRegion, if_pos rfl]
          rwa [same] at member
      rw [is]
      exact ⟨gates''.trans (gates'.trans gates), (others.trans (othersStay_releaseVoice u r v)).trans others', stays'⟩

/-! ## A held entry that joins its gate (R96, R98) -/

/-- A held entry started `skip` samples in, as O13 states it: its voice is as it was before the arrival, its record may have been flagged
since. -/
theorem startHeld_joined {p u : Play} {r : Region} {b : OpenBreak} {v : VoiceNo} {e d : RunEntry} {late : Bool} (t : Now) (skip : Nat)
    (isOpen : (u.region r).brk = some b) (lead : (u.region r).lead = some v) (next : nextPending b.run = some d) (same : d.index = e.index)
    (voices : u.voices = p.voices) (flags : ∀ x ∈ b.run, x.index = e.index → e.flags.joinedLate = false → x.flags.joinedLate = late) :
    let q := u.startHeld t r skip
    JoinedAt p q t r v e skip late ∧ q.gates = u.gates ∧ q.agent = u.agent := by
  obtain ⟨⟨before, prep, tested, own⟩, ⟨w, pend, voice⟩, within⟩ := startHeld_spec t skip isOpen lead next
  have started : u.voice v = p.voice v := by
    unfold Play.voice
    rw [voices]
  obtain ⟨state, -, pos, endPos, -⟩ := start_fields (p.voice v) t.count skip
  rw [started] at voice
  refine ⟨⟨by rw [own], by rw [own], by rw [own]; exact lead, by rw [voice]; exact state, by rw [voice]; exact pos, by rw [voice]; exact endPos,
    _, by rw [own], ⟨_, List.mem_map_of_mem (List.mem_of_find?_eq_some next), ?_⟩, fun x inside index => ?_⟩, within.gates, within.agent⟩
  · split <;> exact same
  · obtain ⟨y, member, index', isLate, rfl⟩ := mem_entryStarted (b := b) inside (index.trans same.symm)
    exact ⟨rfl, rfl, flags y member (index'.trans same)⟩

theorem othersStay_startHeld (p : Play) (t : Now) (r : Region) (skip : Nat) : OthersStay r p (p.startHeld t r skip) := by
  cases isOpen : (p.region r).brk with
  | none =>
    unfold Play.startHeld Play.withBreak
    simp only [isOpen]
    exact .refl r p
  | some b =>
    cases lead : (p.region r).lead with
    | none =>
      unfold Play.startHeld
      rw [withBreak_of _ isOpen, lead]
      exact .refl r p
    | some v =>
      cases next : nextPending b.run with
      | none =>
        unfold Play.startHeld
        rw [withBreak_of _ isOpen, lead, next]
        exact .refl r p
      | some e => exact (startHeld_spec t skip isOpen lead next).2.2.othersStay

theorem othersStay_skipGate (p : Play) (t : Now) (r : Region) : OthersStay r p (p.skipGate t r) := by
  cases isOpen : (p.region r).brk with
  | none =>
    unfold Play.skipGate Play.withBreak
    simp only [isOpen]
    exact .refl r p
  | some b =>
    cases lead : (p.region r).lead with
    | none =>
      unfold Play.skipGate
      rw [withBreak_of _ isOpen, lead]
      exact .refl r p
    | some v =>
      cases next : nextPending b.run with
      | none =>
        unfold Play.skipGate
        rw [withBreak_of _ isOpen, lead, next]
        exact .refl r p
      | some e => exact (skipGate_spec t isOpen lead next).2.1

/-! ## An arrival (R94 to R98) -/

/-- The gate once an arrival has taken its region out of the missed set. -/
def Gate.unmissed (x : Gate) (r : Region) : Gate := { x with missed := x.missed.filter fun m => m.1 != r }

/-- What every arrival leaves before the gate decides about it. -/
def Play.arrival (p : Play) (r : Region) (g : LinkGroup) : Play :=
  (p.setRegion r { p.region r with arriving := none }).modGate g fun x => x.unmissed r

section
variable {p : Play} {r : Region} {g : LinkGroup}

theorem gate_arrival (p : Play) (r : Region) (g h : LinkGroup) :
    (p.arrival r g).gate h = if g = h then (p.gate g).unmissed r else p.gate h :=
  Play.gate_modGate (p.setRegion r { p.region r with arriving := none }) g h _

theorem region_arrival (p : Play) (r : Region) (g : LinkGroup) : (p.arrival r g).region r = { p.region r with arriving := none } :=
  (Play.region_setRegion p r r _).trans (if_pos rfl)

theorem brk_arrival (p : Play) (r : Region) (g : LinkGroup) (y : Region) : ((p.arrival r g).region y).brk = (p.region y).brk := by
  by_cases same : r = y
  · rw [← same, region_arrival]
  · exact congrArg RegionRec.brk ((Play.region_setRegion p r y _).trans (if_neg same))

theorem othersStay_arrival (p : Play) (r : Region) (g : LinkGroup) : OthersStay r p (p.arrival r g) :=
  OthersStay.setRegion (.refl r p) _

/-- What the gate decides about an arrival, the region's next entry being held for it. -/
def Play.decided (p : Play) (t : Now) (r : Region) (g : LinkGroup) (breakId : Nat) (e : RunEntry) : Play :=
  if ((p.gate g).missed.any fun m => m.1 == r && m.2 == breakId) = true then (p.arrival r g).skipGate t r
  else match (p.gate g).state with
    | .closed => (p.arrival r g).firstArrival t r g breakId
    | .waiting => if (p.gate g).awaits r then (p.arrival r g).joinGate g r 0 else (p.arrival r g).unexpected t r g breakId
    | .opened => if (p.gate g).awaits r then (p.arrival r g).lateJoin t r g e else (p.arrival r g).unexpected t r g breakId

theorem resolveArrival_decided {b : OpenBreak} {e : RunEntry} (t : Now) (isOpen : (p.region r).brk = some b)
    (next : nextPending b.run = some e) : p.resolveArrival t r g = p.decided t r g b.breakId e := by
  have isOpen' : ((p.modRegion r fun x => { x with arriving := none }).region r).brk = some b := by
    rw [Play.region_modRegion, if_pos rfl]
    exact isOpen
  unfold Play.resolveArrival
  dsimp only
  rw [withBreak_of _ isOpen', next]
  rfl

theorem othersStay_lateJoin (p : Play) (t : Now) (r : Region) (g : LinkGroup) (e : RunEntry) : OthersStay r p (p.lateJoin t r g e) := by
  unfold Play.lateJoin
  dsimp only
  split
  · refine OthersStay.trans (q := (p.joinGate g r (t.count - (p.gate g).openPoint.getD t.count)).flagEntry r e.index fun f =>
      { f with joinedLate := f.joinedLate || 0 < t.count - (p.gate g).openPoint.getD t.count }) ?_ (othersStay_startHeld _ t r _)
    exact OthersStay.setRegion (.refl r p) _
  · exact OthersStay.trans (q := p.joinGate g r (t.count - (p.gate g).openPoint.getD t.count)) (.refl r p) (othersStay_skipGate _ t r)

theorem othersStay_unexpected (p : Play) (t : Now) (r : Region) (g : LinkGroup) (breakId : Nat) :
    OthersStay r p (p.unexpected t r g breakId) := othersStay_startHeld p t r 0

theorem othersStay_resolveArrival (p : Play) (t : Now) (r : Region) (g : LinkGroup) : OthersStay r p (p.resolveArrival t r g) := by
  have bare : OthersStay r p (p.modRegion r fun x => { x with arriving := none }) := OthersStay.setRegion (.refl r p) _
  cases isOpen : (p.region r).brk with
  | none =>
    have same : p.resolveArrival t r g = p.modRegion r fun x => { x with arriving := none } := by
      unfold Play.resolveArrival Play.withBreak
      dsimp only
      rw [Play.region_modRegion, if_pos rfl]
      simp only [isOpen]
    rw [same]
    exact bare
  | some b =>
    cases next : nextPending b.run with
    | none =>
      have same : p.resolveArrival t r g = p.modRegion r fun x => { x with arriving := none } := by
        unfold Play.resolveArrival
        dsimp only
        rw [withBreak_of (b := b) _ (by rw [Play.region_modRegion, if_pos rfl]; exact isOpen), next]
      rw [same]
      exact bare
    | some e =>
      rw [resolveArrival_decided t isOpen next]
      refine (othersStay_arrival p r g).trans ?_
      unfold Play.decided
      split
      · exact othersStay_skipGate _ t r
      · split
        · exact .refl r _
        · split
          · exact .refl r _
          · exact othersStay_unexpected _ t r g b.breakId
        · split
          · exact othersStay_lateJoin _ t r g e
          · exact othersStay_unexpected _ t r g b.breakId

end

/-- Of entries in rising order an index names one. -/
theorem entry_unique {run : List RunEntry} {x y : RunEntry} (rising : (run.map RunEntry.index).Pairwise (· < ·)) (first : x ∈ run)
    (second : y ∈ run) (same : x.index = y.index) : x = y :=
  List.inj_on_of_nodup_map (rising.imp fun less => Nat.ne_of_lt less) first second same

/-! ## The decisions of the Gate Unit -/

theorem awaits_iff (x : Gate) (r : Region) : x.awaits r = true ↔ inMask x.expected r = true ∧ (x.arrived.any fun a => a.1 == r) = false := by
  unfold Gate.awaits
  rw [Bool.and_eq_true_iff, Bool.not_eq_true']

section
variable {p : Play} {r : Region} {b : OpenBreak} {v : VoiceNo} {e : RunEntry} (t : Now) (g : LinkGroup)

theorem skipGate_arrival (isOpen : (p.region r).brk = some b) (lead : (p.region r).lead = some v) (next : nextPending b.run = some e)
    {u : Play} (region : u.region r = { p.region r with arriving := none }) (voices : u.voices = p.voices) :
    (u.skipGate t r).gates = u.gates ∧ GateSkipped p (u.skipGate t r) r e.index := by
  obtain ⟨gates, -, c, isOpen', member, all⟩ := skipGate_spec (p := u) t (by rw [region]; exact isOpen) (by rw [region]; exact lead) next
  refine ⟨gates, c, isOpen', member, fun x inside index => ⟨(all x inside index).1, fun free => (all x inside index).2 fun w within playing => ?_⟩⟩
  have voice : u.voice w = p.voice w := by
    unfold Play.voice
    rw [voices]
  rw [voice] at playing ⊢
  refine free w ?_ playing
  rw [mem_voicesOf] at within ⊢
  rwa [region] at within

/-- An arrival that is started at once, with its notice. -/
theorem unexpected_spec (isOpen : (p.region r).brk = some b) (lead : (p.region r).lead = some v) (next : nextPending b.run = some e)
    (distinct : (b.run.map RunEntry.index).Pairwise (· < ·)) : let q := (p.arrival r g).unexpected t r g b.breakId
    q.gates = (p.arrival r g).gates ∧ JoinedAt p q t r v e 0 false ∧ (p.agent.noticeRoom = true →
      (⟨t.address, 0, .notice (.gateUnexpected g r b.breakId (p.gate g).state (p.gate g).breakId), t.count⟩ : QueueEntry) ∈ q.agent.returns) := by
  obtain ⟨joined, gates, agent⟩ := startHeld_joined (p := p) (u := p.arrival r g) (e := e) (late := false) t 0
    ((brk_arrival p r g r).trans isOpen) (by rw [region_arrival]; exact lead) next rfl rfl fun x inside index fresh => by
      rw [entry_unique distinct inside (List.mem_of_find?_eq_some next) index]
      exact fresh
  refine ⟨gates, joined, fun room => ?_⟩
  have gate : (p.arrival r g).gate g = (p.gate g).unmissed r := (gate_arrival p r g g).trans (if_pos rfl)
  have raised : (p.arrival r g).unexpected t r g b.breakId =
      ((p.arrival r g).startHeld t r 0).raise t 0 (.gateUnexpected g r b.breakId (p.gate g).state (p.gate g).breakId) := by
    unfold Play.unexpected
    rw [gate]
    rfl
  rw [raised]
  exact Play.mem_raise _ t 0 _ (by rw [agent]; exact room)

/-- An expected arrival at an OPEN gate. -/
theorem lateJoin_spec (isOpen : (p.region r).brk = some b) (lead : (p.region r).lead = some v) (next : nextPending b.run = some e)
    (distinct : (b.run.map RunEntry.index).Pairwise (· < ·)) : let q := (p.arrival r g).lateJoin t r g e
    let elapsed := t.count - (p.gate g).openPoint.getD t.count
    q.gates = ((p.arrival r g).joinGate g r elapsed).gates ∧
      (elapsed < e.effective.getD 0 → JoinedAt p q t r v e elapsed (decide (0 < elapsed))) ∧
      (e.effective.getD 0 ≤ elapsed → GateSkipped p q r e.index) := by
  intro q elapsed
  have gate : (p.arrival r g).gate g = (p.gate g).unmissed r := (gate_arrival p r g g).trans (if_pos rfl)
  let f : RunFlags → RunFlags := fun f => { f with joinedLate := f.joinedLate || decide (0 < elapsed) }
  have shape : q = if elapsed < e.effective.getD 0 then
        (((p.arrival r g).joinGate g r elapsed).flagEntry r e.index f).startHeld t r elapsed
      else ((p.arrival r g).joinGate g r elapsed).skipGate t r := by
    show (p.arrival r g).lateJoin t r g e = _
    unfold Play.lateJoin
    rw [gate]
    rfl
  have region : ((p.arrival r g).joinGate g r elapsed).region r = { p.region r with arriving := none } := region_arrival p r g
  by_cases early : elapsed < e.effective.getD 0
  · rw [if_pos early] at shape
    have isOpen' : (((p.arrival r g).joinGate g r elapsed).region r).brk = some b := by rw [region]; exact isOpen
    have flagged : ((p.arrival r g).joinGate g r elapsed).flagEntry r e.index f = _ := modBreak_of _ isOpen'
    have next' : nextPending (modEntry b.run e.index fun e => { e with flags := f e.flags }) = some { e with flags := f e.flags } := by
      have moved : nextPending (modEntry b.run e.index fun e => { e with flags := f e.flags }) =
          (nextPending b.run).map fun x => if x.index = e.index then { x with flags := f x.flags } else x := by
        unfold nextPending modEntry
        rw [List.find?_map]
        congr 2
        funext x
        rw [Function.comp_apply]
        split <;> rfl
      rw [moved, next, Option.map_some, if_pos rfl]
    let c : OpenBreak := { b with run := modEntry b.run e.index fun e => { e with flags := f e.flags } }
    let u := ((p.arrival r g).joinGate g r elapsed).setRegion r { ((p.arrival r g).joinGate g r elapsed).region r with brk := some c }
    have is : q = u.startHeld t r elapsed := by rw [shape, flagged]
    have own : u.region r = { ((p.arrival r g).joinGate g r elapsed).region r with brk := some c } :=
      (Play.region_setRegion _ r r _).trans (if_pos rfl)
    obtain ⟨joined, gates, -⟩ := startHeld_joined (p := p) (u := u) (b := c) (e := e) (late := decide (0 < elapsed)) t elapsed
      (congrArg RegionRec.brk own) (by rw [own, region]; exact lead) next' rfl rfl fun x inside index fresh => by
        obtain ⟨y, member, same, rfl⟩ := mem_modEntry inside index
        rw [entry_unique distinct member (List.mem_of_find?_eq_some next) same]
        show (e.flags.joinedLate || _) = _
        rw [fresh, Bool.false_or]
    rw [is]
    exact ⟨gates, fun _ => joined, fun late => absurd early (Nat.not_lt.2 late)⟩
  · rw [if_neg early] at shape
    obtain ⟨gates, skipped⟩ := skipGate_arrival (p := p) t isOpen lead next (u := (p.arrival r g).joinGate g r elapsed) region rfl
    rw [shape]
    exact ⟨gates, fun in' => absurd in' early, fun _ => skipped⟩

end

section
variable {p : Play} {r : Region} {b : OpenBreak} {v : VoiceNo} {e : RunEntry} (t : Now) (g : LinkGroup)

theorem gate_of_gates {p q : Play} (gates : q.gates = p.gates) (h : LinkGroup) : q.gate h = p.gate h := by
  unfold Play.gate
  rw [gates]

/-- The gates once an arrival has been noted at one of them. -/
theorem gate_modGate_arrival (p : Play) (r : Region) (g : LinkGroup) (f : Gate → Gate) :
    ((p.arrival r g).modGate g f).gate g = f ((p.gate g).unmissed r) ∧ ∀ h, h ≠ g → ((p.arrival r g).modGate g f).gate h = p.gate h := by
  refine ⟨?_, fun h other => ?_⟩
  · rw [Play.gate_modGate, if_pos rfl, gate_arrival, if_pos rfl]
  · rw [Play.gate_modGate, if_neg (Ne.symm other), gate_arrival, if_neg (Ne.symm other)]

/-- The regions that the first arrival at a gate expects (R95). -/
theorem inMask_expects (p : Play) (r : Region) (g : LinkGroup) (breakId : Nat) (y : Region) :
    inMask (regionSet ((p.arrival r g).expects g breakId)) y = true ↔
      inMask (p.gate g).mask y = true ∧ (((p.gate g).missed.filter fun m => m.1 != r).any fun m => m.1 == y) = false ∧
        ∃ c, (p.region y).brk = some c ∧ c.breakId = breakId ∧ ∃ z ∈ c.run, z.status = .pending ∧ z.link = some g := by
  have gate : (p.arrival r g).gate g = (p.gate g).unmissed r := (gate_arrival p r g g).trans (if_pos rfl)
  rw [inMask_regionSet]
  unfold Play.expects
  rw [gate, brk_arrival, Bool.and_eq_true_iff, Bool.and_eq_true_iff, and_assoc, Bool.not_eq_true']
  refine and_congr Iff.rfl (and_congr Iff.rfl ?_)
  cases (p.region y).brk with
  | none => simp
  | some c => simp


/-- Whether the gate has missed the region with this break ID (R94). -/
abbrev Gate.skips (x : Gate) (r : Region) (breakId : Nat) : Prop := (x.missed.any fun m => m.1 == r && m.2 == breakId) = true

theorem decided_skips (isOpen : (p.region r).brk = some b) (lead : (p.region r).lead = some v) (next : nextPending b.run = some e)
    (skips : (p.gate g).skips r b.breakId) : let q := p.decided t r g b.breakId e
    q.gate g = (p.gate g).unmissed r ∧ (∀ h, h ≠ g → q.gate h = p.gate h) ∧ GateSkipped p q r e.index := by
  intro q
  have is : q = (p.arrival r g).skipGate t r := if_pos skips
  obtain ⟨gates, skipped⟩ := skipGate_arrival (p := p) t isOpen lead next (region_arrival p r g) rfl
  rw [← is] at gates skipped
  refine ⟨?_, fun h other => ?_, skipped⟩
  · rw [gate_of_gates gates, gate_arrival, if_pos rfl]
  · rw [gate_of_gates gates, gate_arrival, if_neg (Ne.symm other)]

theorem decided_first {breakId : Nat} (not : ¬ (p.gate g).skips r breakId) (closed : (p.gate g).state = .closed) :
    let q := p.decided t r g breakId e
    q.gate g = { (p.gate g).unmissed r with
        state := .waiting, breakId := some breakId, expected := regionSet ((p.arrival r g).expects g breakId), arrived := [(r, 0)]
        deadline := some (t.count + (p.gate g).waitMs * 48), openPoint := none, joinDeadline := none } ∧
      (∀ h, h ≠ g → q.gate h = p.gate h) ∧ q.voices = p.voices ∧ q.region r = { p.region r with arriving := none } ∧ q.agent = p.agent := by
  intro q
  have is : q = (p.arrival r g).firstArrival t r g breakId := by
    refine (if_neg not).trans ?_
    rw [closed]
  obtain ⟨own, others⟩ := gate_modGate_arrival p r g fun x =>
    { x with
      state := .waiting, breakId := some breakId, expected := regionSet ((p.arrival r g).expects g breakId), arrived := [(r, 0)],
      deadline := some (t.count + x.waitMs * 48), openPoint := none, joinDeadline := none }
  rw [is]
  exact ⟨own, others, rfl, region_arrival p r g, rfl⟩

theorem decided_joins {breakId : Nat} (not : ¬ (p.gate g).skips r breakId) (waiting : (p.gate g).state = .waiting)
    (awaits : (p.gate g).awaits r = true) : let q := p.decided t r g breakId e
    q.gate g = { (p.gate g).unmissed r with arrived := (p.gate g).arrived ++ [(r, 0)] } ∧
      (∀ h, h ≠ g → q.gate h = p.gate h) ∧ q.voices = p.voices ∧ q.region r = { p.region r with arriving := none } ∧ q.agent = p.agent := by
  intro q
  have is : q = (p.arrival r g).joinGate g r 0 := by
    refine (if_neg not).trans ?_
    rw [waiting]
    exact if_pos awaits
  obtain ⟨own, others⟩ := gate_modGate_arrival p r g fun x => { x with arrived := x.arrived ++ [(r, 0)] }
  rw [is]
  exact ⟨own, others, rfl, region_arrival p r g, rfl⟩

theorem decided_late (isOpen : (p.region r).brk = some b) (lead : (p.region r).lead = some v) (next : nextPending b.run = some e)
    (rising : (b.run.map RunEntry.index).Pairwise (· < ·)) (not : ¬ (p.gate g).skips r b.breakId) (opened : (p.gate g).state = .opened)
    (awaits : (p.gate g).awaits r = true) : let q := p.decided t r g b.breakId e
    let elapsed := t.count - (p.gate g).openPoint.getD t.count
    q.gate g = { (p.gate g).unmissed r with arrived := (p.gate g).arrived ++ [(r, elapsed)] } ∧ (∀ h, h ≠ g → q.gate h = p.gate h) ∧
      (elapsed < e.effective.getD 0 → JoinedAt p q t r v e elapsed (decide (0 < elapsed))) ∧
      (e.effective.getD 0 ≤ elapsed → GateSkipped p q r e.index) := by
  intro q elapsed
  have is : q = (p.arrival r g).lateJoin t r g e := by
    refine (if_neg not).trans ?_
    rw [opened]
    exact if_pos awaits
  obtain ⟨gates, rest⟩ := lateJoin_spec t g isOpen lead next rising
  obtain ⟨own, others⟩ := gate_modGate_arrival p r g fun x => { x with arrived := x.arrived ++ [(r, elapsed)] }
  rw [← is] at gates rest
  exact ⟨(gate_of_gates gates g).trans own, fun h other => (gate_of_gates gates h).trans (others h other), rest⟩

theorem decided_unexpected (isOpen : (p.region r).brk = some b) (lead : (p.region r).lead = some v) (next : nextPending b.run = some e)
    (rising : (b.run.map RunEntry.index).Pairwise (· < ·)) (not : ¬ (p.gate g).skips r b.breakId) (active : (p.gate g).state ≠ .closed)
    (away : ¬ (p.gate g).awaits r = true) : let q := p.decided t r g b.breakId e
    q.gate g = (p.gate g).unmissed r ∧ (∀ h, h ≠ g → q.gate h = p.gate h) ∧ JoinedAt p q t r v e 0 false ∧
      (p.agent.noticeRoom = true →
        (⟨t.address, 0, .notice (.gateUnexpected g r b.breakId (p.gate g).state (p.gate g).breakId), t.count⟩ : QueueEntry) ∈
          q.agent.returns) := by
  intro q
  have is : q = (p.arrival r g).unexpected t r g b.breakId := by
    refine (if_neg not).trans ?_
    cases state : (p.gate g).state with
    | closed => exact absurd state active
    | waiting => exact if_neg away
    | opened => exact if_neg away
  obtain ⟨gates, rest⟩ := unexpected_spec t g isOpen lead next rising
  rw [← is] at gates rest
  refine ⟨?_, fun h other => ?_, rest⟩
  · rw [gate_of_gates gates, gate_arrival, if_pos rfl]
  · rw [gate_of_gates gates, gate_arrival, if_neg (Ne.symm other)]

end

/-! ## The settled sample -/

/-- A single arrival of a sample is taken as it stands. -/
theorem settleArrivals_one {p : Play} {r : Region} {g : LinkGroup} (t : Now) (arriving : (p.region r).arriving = some g)
    (alone : ∀ q, q ≠ r → (p.region q).arriving = none) (done : ((p.resolveArrival t r g).region r).arriving = none) :
    p.settleArrivals t = p.resolveArrival t r g := by
  have settled : ∀ q, ((p.resolveArrival t r g).region q).arriving = none := fun q => by
    by_cases own : q = r
    · rw [own]
      exact done
    · exact (othersStay_resolveArrival p t r g q own).trans (alone q own)
  have fold : ∀ l : List Region, l.foldl (fun q r => Play.resolveRegion t r 13 q) p = if r ∈ l then p.resolveArrival t r g else p := by
    intro l
    induction l with
    | nil => exact (if_neg List.not_mem_nil).symm
    | cons q l ih =>
      rw [List.foldl_cons]
      by_cases own : q = r
      · subst own
        have first : Play.resolveRegion t q 13 p = p.resolveArrival t q g := by
          show (match (p.region q).arriving with
            | none => p
            | some g => Play.resolveRegion t q 12 (p.resolveArrival t q g)) = _
          rw [arriving]
          exact resolveRegion_stays t done 12
        rw [first, if_pos List.mem_cons_self]
        exact foldl_fixed _ fun q _ => resolveRegion_stays t (settled q) 13
      · rw [resolveRegion_stays t (alone q own) 13, ih]
        exact if_congr (by simp [Ne.symm own]) rfl rfl
  exact (fold allRegions).trans (if_pos (mem_allRegions r))

theorem after_settled (s : State) (p : Play) :
    (s.after p).settled = if ({ s with play := p, midSample := true } : State).quiet then true else s.settled := by
  have settled (u : State) : u.settleArray.settled = u.settled := by
    obtain ⟨cur, form, -⟩ := settleArray_form u
    rw [form]
  unfold State.after State.settle
  rw [settled]
  exact apply_ite State.settled _ _ _

theorem grantReturned_play (s : State) : s.grantReturned.play = if (s.midSample && !s.quiet) = true then s.play else s.play.grants := by
  unfold State.grantReturned
  by_cases stays : (s.midSample && !s.quiet) = true
  · rw [if_pos stays, if_pos stays]
  · rw [if_neg stays, if_neg stays]

/-- What the grants make of what is left between two samples. -/
theorem between_play (s : State) (p : Play) : (s.between p).play =
    if (s.midSample && !({ s with play := p } : State).quiet) = true then p else p.grants :=
  (settleArray_keeps _).1.trans (grantReturned_play { s with play := p })

/-- Nothing that waits for a READY voice falls at a settled sample (log 21). -/
theorem starts_not_settled {s : State} (p : Play) (r : Region) (settled : s.settled = true) : p.leadInDue s.now r = false ∧
    p.primedDue s.now r = false ∧ p.fillerDue s.now r = false ∧ p.lateMixDue s.now r = false := by
  have closed : s.now.opensFrame = false := by
    unfold Now.opensFrame
    rw [show s.now.settled = s.settled from rfl, settled, Bool.not_true, Bool.and_false]
  unfold Play.leadInDue Play.primedDue Play.fillerDue Play.lateMixDue
  simp [closed]

/-- The grant at the head of the waiting list. -/
theorem grantOne_head {p : Play} {v : VoiceNo} {free : List VoiceNo} {w : Waiter} {rest : List Waiter} {b : OpenBreak} {e : RunEntry}
    (pool : p.freePool = v :: free) (waiting : p.waiters = w :: rest) (isOpen : (p.region w.region).brk = some b)
    (found : findEntry b.run w.run = some e) : let q := p.grantOne
    24 ≤ v.val ∧ (∀ u ∈ free, v < u) ∧ q.waiters = rest ∧ q.freePool = free ∧
      q.region w.region = { p.region w.region with pool := some v, brk := some { b with prep := .incoming v } } ∧
      (q.voice v).holder = some w.region ∧ (q.voice v).state = .priming ∧ (q.voice v).clip = some e.clip ∧
      (q.voice v).fader = ⟨0, none⟩ ∧ (q.voice v).pos = 0 ∧ (q.voice v).endPos = e.effective.getD 0 ∧
      (∀ u, u ≠ v → q.voice u = p.voice u) ∧ (∀ y, y ≠ w.region → q.region y = p.region y) ∧ q.log = p.log ∧ q.gates = p.gates := by
  obtain ⟨waiters, freePool, voices, regions, log, gates, grant⟩ := grantOne_cons pool waiting
  obtain ⟨region, voice⟩ := grant b e isOpen found
  obtain ⟨format, trim, page, fields⟩ := primeOf_fields p e 0
  obtain ⟨primed, holder⟩ := primedAs_take ({ p.voice v with holder := some w.region } : Voice) (p.primeOf e 0)
  rw [← voice] at primed holder
  rw [fields] at primed
  have sorted := freePool_sorted p
  rw [pool] at sorted
  exact ⟨of_decide_eq_true ((mem_freePool p v).1 (pool ▸ List.mem_cons_self)).1, fun u inside => List.rel_of_pairwise_cons sorted inside, waiters, freePool,
    region, holder, primed.state, primed.clip, primed.fader, primed.pos, primed.endPos, voices, regions, log, gates⟩

/-- Settles O13: the settled sample and the settled return as equations, an arrival by the gate's state, and one grant. -/
theorem settlingFrame : Obligations.SettlingFrame := by
  refine ⟨fun s p => ?_, fun p t r g b v e isOpen lead next rising => ?_, fun s p => ?_,
    fun p v free w rest b e pool waiting isOpen found => grantOne_head pool waiting isOpen found,
    fun s p r settled => starts_not_settled p r settled⟩
  · obtain ⟨q, cur, done, form, same⟩ := taken_form s p
    have is : s.after p = _ := form
    have quietly (quiet : ({ s with play := p, midSample := true } : State).quiet = true) :
        (s.after p).play = (p.settleArrivals s.now).poolRound s.now := (after_play s p).trans (if_pos quiet)
    refine ⟨by rw [is], by rw [is], by rw [is], by rw [is], by rw [is], by rw [is], by rw [is], by rw [is], by rw [is], by rw [is],
      by rw [is], by rw [is], by rw [is], by rw [is], by rw [is], by rw [is], by rw [is]; exact same, by rw [is], by rw [is], by rw [is],
      by rw [is], by rw [is], fun away calm none' => ?_, fun loud => ⟨?_, ?_⟩, fun quiet => ⟨?_, quietly quiet, ?_,
        fun r g arriving alone resolved => ?_⟩⟩
    · rw [after_play, settleArrivals_stays s.now away, Play.poolRound, requests_stay s.now calm, grants_stay (.inr none')]
      exact ite_self p
    · exact (after_play s p).trans (if_neg (by rw [loud]; nofun))
    · exact (after_settled s p).trans (if_neg (by rw [loud]; nofun))
    · exact (after_settled s p).trans (if_pos quiet)
    · rw [quietly quiet]
      exact grants_exhaust _
    · rw [quietly quiet, settleArrivals_one s.now arriving alone resolved]
  · intro x missed skips awaited q
    have is : q = p.decided t r g b.breakId e := resolveArrival_decided t isOpen next
    have waits : x.awaits r = true ↔ awaited := awaits_iff x r
    have skip := decided_skips t g isOpen lead next
    have first := decided_first (e := e) (p := p) (r := r) (breakId := b.breakId) t g
    have joins := decided_joins (e := e) (p := p) (r := r) (breakId := b.breakId) t g
    have late := decided_late t g isOpen lead next rising
    have unexpected := decided_unexpected t g isOpen lead next rising
    rw [← is] at skip first joins late unexpected
    have gates : (∀ h, h ≠ g → q.gate h = p.gate h) ∧ (q.gate g).missed = missed := by
      by_cases skips' : skips
      · obtain ⟨gate, others, -⟩ := skip skips'
        exact ⟨others, by rw [gate]; rfl⟩
      · by_cases awaits : x.awaits r = true
        · cases state : x.state with
          | closed =>
            obtain ⟨gate, others, -⟩ := first skips' state
            exact ⟨others, by rw [gate]; rfl⟩
          | waiting =>
            obtain ⟨gate, others, -⟩ := joins skips' state awaits
            exact ⟨others, by rw [gate]; rfl⟩
          | opened =>
            obtain ⟨gate, others, -⟩ := late skips' state awaits
            exact ⟨others, by rw [gate]; rfl⟩
        · by_cases state : x.state = .closed
          · obtain ⟨gate, others, -⟩ := first skips' state
            exact ⟨others, by rw [gate]; rfl⟩
          · obtain ⟨gate, others, -⟩ := unexpected skips' state awaits
            exact ⟨others, by rw [gate]; rfl⟩
    refine ⟨gates.1, gates.2, fun skips => ?_, fun not state => ?_, fun not state awaits => ?_, fun not state awaits => ?_,
      fun not state away => ?_⟩
    · obtain ⟨gate, -, skipped⟩ := skip skips
      exact ⟨gate, skipped⟩
    · obtain ⟨gate, -, rest⟩ := first not state
      exact ⟨⟨_, gate, fun y => inMask_expects p r g b.breakId y⟩, rest⟩
    · obtain ⟨gate, -, rest⟩ := joins not state (waits.2 awaits)
      exact ⟨gate, rest⟩
    · obtain ⟨gate, -, rest⟩ := late not state (waits.2 awaits)
      exact ⟨gate, rest⟩
    · obtain ⟨gate, -, rest⟩ := unexpected not (fun closed => by rw [closed] at state; exact state.elim nofun nofun)
        fun awaits => away (waits.1 awaits)
      exact ⟨gate, rest⟩
  · obtain ⟨q, cur, form, same, -⟩ := between_form s p
    refine ⟨by rw [form], by rw [form]; exact same, fun none' => ?_, fun mid loud => ?_, fun free => ?_⟩
    · rw [between_play, grants_stay (.inr none')]
      exact ite_self p
    · exact (between_play s p).trans (if_pos (by rw [loud, mid]; rfl))
    · have granted : (s.between p).play = p.grants := (between_play s p).trans (if_neg fun both => by
        obtain ⟨mid, loud⟩ := Bool.and_eq_true_iff.1 both
        rcases free with not | quiet
        · rw [not] at mid
          cases mid
        · rw [quiet] at loud
          cases loud)
      rw [granted]
      exact ⟨rfl, grants_exhaust p⟩

end Sys2Proof.Machine

/-! # The split of a break (R21, R23) -/

namespace Sys2Proof.Machine

/-! ## ITEM records appended in run order (R21, R149) -/

theorem insertItem_last {x : ItemRecord} {l : List AsRunBody} (later : ∀ y ∈ l, x.precedes y = false) : insertItem x l = l ++ [.item x] := by
  induction l with
  | nil => rfl
  | cons y l ih =>
    unfold insertItem
    rw [if_neg (by rw [later y List.mem_cons_self]; nofun), ih fun z inside => later z (List.mem_cons_of_mem _ inside)]
    rfl

/-- A record is of no earlier run entry than those among the last `n` records that stay when it is appended. -/
def AsRunLog.Late (l : AsRunLog) (n : Nat) (x : ItemRecord) : Prop :=
  ∀ y ∈ l.room.drop (l.room.length - n), x.precedes y.body = false

theorem zip_bodies (l : List AsRunRecord) : (l.zip (l.map AsRunRecord.body)).map (fun y => { y.1 with body := y.2 }) = l := by
  induction l with
  | nil => rfl
  | cons y l ih => rw [List.map_cons, List.zip_cons_cons, List.map_cons, ih]

/-- A record that precedes none of the sample's stands at the tail of the log. -/
theorem insert_late {l : AsRunLog} {n : Nat} {x : ItemRecord} (late : l.Late n x) : l.insert n x = l.append (.item x) := by
  have records : (l.append (.item x)).records = l.room ++ [⟨l.appended.toNat % 2 ^ 32, .item x⟩] := congrArg AsRunLog.records (append_eq l (.item x))
  unfold AsRunLog.insert
  dsimp only
  rw [records, List.length_append, List.length_singleton, Nat.add_sub_add_right,
    List.drop_append_of_le_length (Nat.sub_le _ _), List.dropLast_concat, insertItem_last fun y inside => by
      obtain ⟨z, member, rfl⟩ := List.mem_map.1 inside
      exact late z member]
  have bodies : (l.room.drop (l.room.length - n)).map AsRunRecord.body ++ [.item x] =
      (l.room.drop (l.room.length - n) ++ [(⟨l.appended.toNat % 2 ^ 32, .item x⟩ : AsRunRecord)]).map AsRunRecord.body := by rw [List.map_append]; rfl
  rw [bodies, zip_bodies, List.take_append_of_le_length (Nat.sub_le _ _), ← List.append_assoc, List.take_append_drop, ← records]

/-- What an append leaves among the last records: the record appended, and what stood there before. -/
theorem late_append {l m : AsRunLog} {n k : Nat} {x y : ItemRecord} (late : l.Late n y) (behind : y.precedes (.item x) = false)
    (records : m.records = (l.append (.item x)).records) (fewer : k ≤ n + 1) : m.Late k y := by
  have appended : m.records = l.room ++ [⟨l.appended.toNat % 2 ^ 32, .item x⟩] :=
    records.trans (congrArg AsRunLog.records (append_eq l (.item x)))
  have all : ∀ z ∈ m.records.drop (m.records.length - k), y.precedes z.body = false := by
    intro z inside
    rw [appended] at inside
    have wider : z ∈ (l.room ++ [(⟨l.appended.toNat % 2 ^ 32, .item x⟩ : AsRunRecord)]).drop (l.room.length - n) := by
      refine (List.drop_sublist_drop_left _ ?_).subset inside
      rw [List.length_append, List.length_singleton]
      omega
    rw [List.drop_append_of_le_length (Nat.sub_le _ _)] at wider
    rcases List.mem_append.1 wider with old | new
    · exact late z old
    · rw [List.mem_singleton.1 new]
      exact behind
  intro z inside
  refine all z ?_
  unfold AsRunLog.room at inside
  split at inside
  · exact inside
  · rw [List.length_drop, List.drop_drop] at inside
    exact (List.drop_sublist_drop_left _ (by omega)).subset inside

section
variable {p : Play} {r : Region} {b : OpenBreak}

theorem noteAppend_count (b : OpenBreak) (t : Now) (l : AsRunLog) : (b.noteAppend t l).count = t.count := by
  unfold OpenBreak.noteAppend
  split
  · split
    · assumption
    · rfl
  · rfl

theorem noteAppend_noted (b : OpenBreak) (t : Now) (l m : AsRunLog) :
    ({ b with logged := some (b.noteAppend t l) } : OpenBreak).noteAppend t m = b.noteAppend t l :=
  if_pos (noteAppend_count b t l)

/-- Some ITEM records appended one behind the other. -/
def Play.appendItems (p : Play) (t : Now) (r : Region) (l : List ItemRecord) : Play := l.foldl (fun q x => q.appendItem t r x) p

theorem appendItems_form (t : Now) (l : List ItemRecord) (isOpen : (p.region r).brk = some b) : ∃ logged a,
    p.appendItems t r l = ({ p with log := (p.appendItems t r l).log, agent := a } : Play).setRegion r
      { p.region r with brk := some { b with logged := logged } } := by
  induction l generalizing p b with
  | nil =>
    refine ⟨b.logged, p.agent, ?_⟩
    have same : ({ p.region r with brk := some { b with logged := b.logged } } : RegionRec) = p.region r := by rw [← isOpen]
    rw [same]
    exact (Play.setRegion_same p r).symm
  | cons x l ih =>
    obtain ⟨a, form, -⟩ := appendItem_of t x isOpen
    have region : (p.appendItem t r x).region r = { p.region r with brk := some { b with logged := some (b.noteAppend t p.log) } } := by
      rw [form]
      exact (Play.region_setRegion _ r r _).trans (if_pos rfl)
    obtain ⟨logged, a', form'⟩ := ih (congrArg RegionRec.brk region)
    refine ⟨logged, a', ?_⟩
    show (p.appendItem t r x).appendItems t r l = _
    rw [region] at form'
    refine form'.trans ?_
    have log : (p.appendItems t r (x :: l)).log = ((p.appendItem t r x).appendItems t r l).log := rfl
    rw [log]
    generalize ((p.appendItem t r x).appendItems t r l).log = m
    rw [form]
    exact setRegion_logged _ r _ _ m a'

/-- The records appended so far by the sample's appends of the break. -/
def OpenBreak.sampleAppends (b : OpenBreak) (t : Now) (l : AsRunLog) : Nat := (l.appended - (b.noteAppend t l).first).toNat

theorem log_appendItem_late {x : ItemRecord} (t : Now) (isOpen : (p.region r).brk = some b)
    (late : p.log.Late (b.sampleAppends t p.log) x) : (p.appendItem t r x).log = (p.appendRecord t (.item x)).log := by
  rw [appendItem_taken t x isOpen]
  exact congrArg (fun l => (p.takeLog t l).log) (insert_late late)

theorem log_appendAll {q : Play} (t : Now) (l : List AsRunBody) (log : q.log = p.log) : (q.appendAll t l).log = (p.appendAll t l).log := by
  induction l generalizing p q with
  | nil => exact log
  | cons x l ih => exact ih (Play.log_appendRecord q p t x log)

/-- ITEM records in run order, none of which belongs before what the break has appended at the sample, stand at the tail of the log. -/
theorem log_appendItems (t : Now) (l : List ItemRecord) (isOpen : (p.region r).brk = some b)
    (late : ∀ x ∈ l, p.log.Late (b.sampleAppends t p.log) x) (order : l.Pairwise fun x y => y.precedes (.item x) = false) :
    (p.appendItems t r l).log = (p.appendAll t (l.map .item)).log := by
  induction l generalizing p b with
  | nil => rfl
  | cons x l ih =>
    obtain ⟨behind, order'⟩ := List.pairwise_cons.1 order
    have log := log_appendItem_late t isOpen (late x List.mem_cons_self)
    obtain ⟨a, form, -⟩ := appendItem_of t x isOpen
    have isOpen' : ((p.appendItem t r x).region r).brk = some { b with logged := some (b.noteAppend t p.log) } := by
      rw [form]
      exact congrArg RegionRec.brk ((Play.region_setRegion _ r r _).trans (if_pos rfl))
    have taken : (p.appendItem t r x).log = { p.log.append (.item x) with
        raised := (p.log.append (.item x)).raised || decide ((p.log.append (.item x)).records.length = 3072) } :=
      log.trans (log_takeLog p t _)
    have appended : (p.appendItem t r x).log.appended = p.log.appended + 1 := by rw [taken, append_eq]
    have few : ({ b with logged := some (b.noteAppend t p.log) } : OpenBreak).sampleAppends t (p.appendItem t r x).log ≤
        b.sampleAppends t p.log + 1 := by
      unfold OpenBreak.sampleAppends
      rw [noteAppend_noted, appended]
      bv_omega
    have rest := ih isOpen' (fun y inside => late_append (late y (List.mem_cons_of_mem _ inside)) (behind y inside) (by rw [taken]) few) order'
    exact rest.trans (log_appendAll t _ log)

end

/-! ## The region goes to LEADIN (R21, R22) -/

/-- The ITEM records of the entries that fitting skipped. -/
theorem skipRecords_eq (r : Region) (breakId : Nat) (run : List RunEntry) (air : AirTime) :
    skipRecords r breakId run air = ((run.filter fun e => !e.kept).map fun e => itemRecord r breakId e air).map .item := by
  unfold skipRecords
  rw [List.map_map]
  induction run with
  | nil => rfl
  | cons e run ih =>
    rw [List.filterMap_cons, List.filter_cons]
    unfold RunEntry.kept at *
    cases status : e.status with
    | skipped why =>
      rw [ih]
      simp [itemRecord, itemOutcome, RunFlags.forRecord, status]
    | pending => simpa using ih
    | playing => simpa using ih
    | done => simpa using ih
    | trimmed => simpa using ih

theorem skipped_order {run : List RunEntry} (r : Region) (breakId : Nat) (air : AirTime) (rising : (run.map RunEntry.index).Pairwise (· < ·)) :
    ((run.filter fun e => !e.kept).map fun e => itemRecord r breakId e air).Pairwise fun x y => y.precedes (.item x) = false := by
  rw [List.pairwise_map]
  refine ((List.pairwise_map.1 rising).filter _).imp fun less => ?_
  unfold ItemRecord.precedes itemRecord
  simp only [beq_self_eq_true, Bool.true_and, decide_eq_false_iff_not]
  omega

section
variable {p : Play} {r : Region} {b : OpenBreak}

/-- A region that has gone to LEADIN with its split recorded. -/
theorem enterLeadIn_spec (t : Now) (c : PendingCue) (lateness : Nat) (isOpen : (p.region r).brk = some b) :
    let q := p.enterLeadIn t r c lateness
    (∃ logged, q.region r = { p.region r with
      armDeadline := none, state := .leadin, brk := some { b.splitAt t (p.region r).config c lateness with logged := logged } }) ∧
    (∀ y, y ≠ r → q.region y = p.region y) ∧ q.voices = p.voices ∧ q.plans = p.plans ∧ q.gates = p.gates ∧ q.dir = p.dir ∧
    ((b.run.map RunEntry.index).Pairwise (· < ·) → b.logged = none →
      q.log = (p.appendAll t (skipRecords r b.breakId b.run (t.airAt lateness))).log) := by
  let d := b.splitAt t (p.region r).config c lateness
  let items := (b.run.filter fun e => !e.kept).map fun e => itemRecord r b.breakId e (t.airAt lateness)
  let p1 := p.setRegion r { p.region r with brk := some d }
  have region : p1.region r = { p.region r with brk := some d } := (Play.region_setRegion p r r _).trans (if_pos rfl)
  obtain ⟨logged, a, form⟩ := appendItems_form t items (congrArg RegionRec.brk region)
  rw [region] at form
  have skipped : p1.appendSkipped t r (t.airAt lateness) = p1.appendItems t r items := by
    unfold Play.appendSkipped Play.appendItems
    rw [withBreak_of _ (congrArg RegionRec.brk region), List.foldl_map]
    rfl
  let x : RegionRec := { p.region r with armDeadline := none, state := .leadin, brk := some { d with logged := logged } }
  have record : (p1.appendItems t r items).region r = { p.region r with brk := some { d with logged := logged } } := by
    rw [form]
    exact (Play.region_setRegion _ r r _).trans (if_pos rfl)
  have shape : p.enterLeadIn t r c lateness = (p1.appendItems t r items).setRegion r x := by
    unfold Play.enterLeadIn
    rw [modBreak_of _ isOpen]
    refine (congrArg (fun q : Play => q.modRegion r fun x => { x with armDeadline := none, state := .leadin }) skipped).trans ?_
    rw [Play.modRegion_eq, record]
  intro q
  have is : q = _ := shape
  rw [is]
  refine ⟨⟨logged, (Play.region_setRegion _ r r x).trans (if_pos rfl)⟩, fun y other => ?_, ?_, ?_, ?_, ?_, fun rising fresh => ?_⟩
  · rw [Play.region_setRegion, if_neg (Ne.symm other), form, Play.region_setRegion, if_neg (Ne.symm other)]
    exact (Play.region_setRegion p r y _).trans (if_neg (Ne.symm other))
  · exact (congrArg Play.voices form).trans rfl
  · exact (congrArg Play.plans form).trans rfl
  · exact (congrArg Play.gates form).trans rfl
  · exact (congrArg Play.dir form).trans rfl
  · show (p1.appendItems t r items).log = _
    have none' : d.sampleAppends t p1.log = 0 := by
      have note : d.noteAppend t p1.log = ⟨t.count, p1.log.appended⟩ := by
        unfold OpenBreak.noteAppend
        rw [show d.logged = none from fresh]
      unfold OpenBreak.sampleAppends
      rw [note, BitVec.sub_self]
      rfl
    have log := log_appendItems t items (congrArg RegionRec.brk region) (fun x _ y inside => by
      rw [none', Nat.sub_zero, List.drop_length] at inside
      cases inside) (skipped_order r b.breakId (t.airAt lateness) rising)
    rw [log, skipRecords_eq]
    exact log_appendAll t _ rfl

end

end Sys2Proof.Machine

/-! # What a cue does by the state of its region (O27) -/

namespace Sys2Proof.Machine

/-! ## The lead-in of a split (R25) -/

/-- A break whose lead-in has begun, its first kept entry started or not. -/
structure OpenBreak.LedIn (t : Now) (b c : OpenBreak) : Prop where
  form : ∃ aired prep tested run, c = { b.leadIn t with run := run, itemsAired := aired, prep := prep, fillerTested := tested } ∧
    (run = b.run ∨ ∃ e, nextPending b.run = some e ∧ run = ((b.leadIn t).entryStarted t e.index).run)

section
variable {p : Play} {r : Region} {b : OpenBreak}

/-- A lead-in with nothing primed and no kept entry goes to RETURNED. -/
theorem leadInStart_empty (t : Now) (isOpen : (p.region r).brk = some b) (next : nextPending b.run = none)
    (still : (p.voice (homeVoice r)).active = false) :
    p.leadInStart t r = p.setRegion r { p.region r with state := .returned, brk := some (b.leadIn t) } := by
  unfold Play.leadInStart
  rw [withBreak_of _ isOpen, next]
  dsimp only
  rw [if_neg (by rw [still]; nofun), modBreak_of _ isOpen, Play.setState, Play.modRegion_eq, Play.setRegion_setRegion, Play.region_setRegion,
    if_pos rfl]
  rfl

/-- The states that a lead-in leaves a region in. -/
abbrev RegionState.ledIn (st : RegionState) : Prop := st ∈ [RegionState.leadin, .localPlay, .gated, .fill, .returned]

theorem leadInStart_led (t : Now) (isOpen : (p.region r).brk = some b) (state : (p.region r).state = .leadin) : let q := p.leadInStart t r
    (∃ c, (q.region r).brk = some c ∧ b.LedIn t c) ∧ (q.region r).armDeadline = (p.region r).armDeadline ∧ (q.region r).state.ledIn ∧
      q.log = p.log := by
  intro q
  have written (u : Play) (x : RegionRec) (is : q = u.setRegion r x) (log : u.log = p.log) (arm : x.armDeadline = (p.region r).armDeadline)
      (brk : ∃ c, x.brk = some c ∧ b.LedIn t c) (st : x.state.ledIn) : (∃ c, (q.region r).brk = some c ∧ b.LedIn t c) ∧
        (q.region r).armDeadline = (p.region r).armDeadline ∧ (q.region r).state.ledIn ∧ q.log = p.log := by
    have own : q.region r = x := by
      rw [is]
      exact (Play.region_setRegion u r r x).trans (if_pos rfl)
    rw [own]
    exact ⟨brk, arm, st, by rw [is]; exact log⟩
  cases next : nextPending b.run with
  | none =>
    cases active : (p.voice (homeVoice r)).active with
    | true => exact written _ _ (leadInStart_filler t isOpen next active) rfl rfl ⟨_, rfl, _, _, _, _, rfl, .inl rfl⟩ (by simp)
    | false => exact written _ _ (leadInStart_empty t isOpen next active) rfl rfl ⟨_, rfl, _, _, _, _, rfl, .inl rfl⟩ (by simp)
  | some e =>
    cases linked : p.linkedTo r e with
    | some g => exact written _ _ (leadInStart_held t isOpen next linked) rfl rfl ⟨_, rfl, _, _, _, _, rfl, .inl rfl⟩ (by simp)
    | none =>
      obtain ⟨⟨prep, tested, region⟩, -, within⟩ := leadInStart_spec t isOpen state next linked
      rw [region]
      refine ⟨⟨_, rfl, _, _, _, _, rfl, .inr ⟨e, next, rfl⟩⟩, rfl, ?_, within.log⟩
      dsimp only
      split <;> simp

end

/-! ## A warm split (R21) -/

theorem sameFit_refl (e : RunEntry) : SameFit e e := ⟨rfl, rfl, rfl, rfl, rfl, rfl, .inl rfl⟩

theorem LedIn.sameFit {t : Now} {b c : OpenBreak} (led : b.LedIn t c) (rising : (b.run.map RunEntry.index).Pairwise (· < ·)) :
    List.Forall₂ SameFit b.run c.run := by
  obtain ⟨aired, prep, tested, run, rfl, same | ⟨e, next, started⟩⟩ := led.form
  · rw [same]
    exact List.forall₂_same.2 fun e _ => sameFit_refl e
  · rw [started]
    refine List.forall₂_map_right_iff.2 (List.forall₂_same.2 fun x inside => ?_)
    by_cases index : x.index = e.index
    · have pending : x.status = .pending := by
        rw [entry_unique rising inside (List.mem_of_find?_eq_some next) index]
        exact beq_iff_eq.1 (List.find?_some (p := fun e : RunEntry => e.status == .pending) next)
      rw [if_pos index]
      exact ⟨rfl, rfl, rfl, rfl, rfl, rfl, .inr ⟨pending, rfl⟩⟩
    · rw [if_neg index]
      exact sameFit_refl x

/-- The split air time by the lateness (log 17). -/
theorem airAt_lateness (s : State) (c : PendingCue) : s.now.airAt (c.lateness s.periodSeq) = s.airOf (c.lateness s.periodSeq) := by
  have small : c.lateness s.periodSeq ≤ 144 := by
    unfold PendingCue.lateness lateBand cueDistance
    split
    · rename_i late
      have late := of_decide_eq_true late
      omega
    · omega
  generalize c.lateness s.periodSeq = n at small ⊢
  unfold Now.airAt State.airOf
  split
  · rfl
  · split
    · rw [show (n + 47) / 48 - 1 = 0 by omega]
      rfl
    · split
      · rw [show (n + 47) / 48 - 1 = 1 by omega]
        rfl
      · rw [show (n + 47) / 48 - 1 = 2 by omega]
        rfl

/-- A break that has been split by a cue, whatever has been started since. -/
theorem splitBy_of {s : State} {r : Region} {c : PendingCue} {b d : OpenBreak} (same : b.breakId = c.breakId)
    (form : d.breakId = b.breakId ∧ d.timerRuns = true ∧
      d.split = (b.splitAt s.now (s.play.region r).config c (c.lateness s.periodSeq)).split ∧
      d.deadline = (b.splitAt s.now (s.play.region r).config c (c.lateness s.periodSeq)).deadline) :
    SplitBy s r c d ∧ d.splitAir = s.now.airAt (c.lateness s.periodSeq) := by
  obtain ⟨breakId, runs, split, deadline⟩ := form
  refine ⟨⟨breakId.trans same, runs, ⟨_, split, rfl, rfl, airAt_lateness s c⟩, deadline⟩, ?_⟩
  unfold OpenBreak.splitAir
  rw [split]
  rfl

theorem onCue_split {p : Play} {r : Region} {c : PendingCue} (t : Now) (lateness : Nat) (kind : c.kind = .split) :
    p.onCue t r c lateness = p.onSplit t r c lateness := by
  unfold Play.onCue
  rw [kind]

theorem openId_of {p : Play} {r : Region} {b : OpenBreak} (isOpen : (p.region r).brk = some b) : p.openId r = b.breakId := by
  unfold Play.openId
  rw [isOpen]

section
variable {s : State} {r : Region} {c : PendingCue} {b : OpenBreak}

/-- The break of a warm split as it enters LEADIN. -/
def OpenBreak.warm (b : OpenBreak) (s : State) (r : Region) (c : PendingCue) (logged : Option AppendNote) : OpenBreak :=
  { b.splitAt s.now (s.play.region r).config c (c.lateness s.periodSeq) with logged := logged }

/-- What O27 states of the break that a warm split leaves, whether its lead-in has begun or not. -/
theorem warm_common {logged : Option AppendNote} {d : OpenBreak} (same : b.breakId = c.breakId)
    (stage : d = b.warm s r c logged ∨ (b.warm s r c logged).LedIn s.now d) :
    d.slot = b.slot ∧ d.closing = b.closing ∧ d.endCause = b.endCause ∧ (SplitBy s r c d ∧ d.splitAir = s.now.airAt (c.lateness s.periodSeq)) ∧
      ((b.run.map RunEntry.index).Pairwise (· < ·) → List.Forall₂ SameFit b.run d.run) := by
  rcases stage with rfl | led
  · exact ⟨rfl, rfl, rfl, splitBy_of same ⟨rfl, rfl, rfl, rfl⟩, fun _ => List.forall₂_same.2 fun e _ => sameFit_refl e⟩
  · refine ⟨?_, ?_, ?_, splitBy_of same ?_, fun rising => LedIn.sameFit (b := b.warm s r c logged) led rising⟩
    all_goals
      obtain ⟨aired, prep, tested, run, rfl, -⟩ := led.form
    · rfl
    · rfl
    · rfl
    · exact ⟨rfl, rfl, rfl, rfl⟩

theorem ledIn_start {t : Now} {b d : OpenBreak} (led : b.LedIn t d) : d.leadInStart = some t.pos ∧
    d.lateStart = match b.split with | some x => t.count - x.count | none => 0 := by
  obtain ⟨aired, prep, tested, run, rfl, -⟩ := led.form
  exact ⟨rfl, rfl⟩

theorem ready_active {x : Voice} (ready : x.state = .ready) : x.active = true := by
  rw [Voice.active, ready]
  rfl

/-- A warm split: the region in LEADIN, and its lead-in begun where the home voice is READY or has nothing to prime. -/
theorem warmSplit_eq (p : Play) (t : Now) (r : Region) (c : PendingCue) (lateness : Nat) : p.warmSplit t r c lateness =
    if (p.voice (homeVoice r)).state = .ready ∨ (p.voice (homeVoice r)).active = false ∧ (p.voice (homeVoice r)).waiting = none then
      (p.enterLeadIn t r c lateness).leadInStart t r
    else p.enterLeadIn t r c lateness := by
  unfold Play.warmSplit
  refine if_congr ?_ rfl rfl
  rw [Bool.or_eq_true_iff, beq_iff_eq]
  unfold Voice.unprimed
  rw [Bool.and_eq_true_iff, Bool.not_eq_true', Option.isNone_iff_eq_none]

/-- The warm split, as O27 states it. -/
theorem warmSplit_spec (c : PendingCue) (isOpen : (s.play.region r).brk = some b) :
    let p := s.play.warmSplit s.now r c (c.lateness s.periodSeq)
    let home := s.play.voice (homeVoice r)
    let ms := (s.play.heldPlan r b).leadInMs
    (p.region r).armDeadline = none ∧ (p.region r).state.ledIn ∧
      ∃ logged b', (p.region r).brk = some b' ∧ (b' = b.warm s r c logged ∨ (b.warm s r c logged).LedIn s.now b') ∧
        ((b.run.map RunEntry.index).Pairwise (· < ·) → b.logged = none →
          p.log = (s.play.appendAll s.now (skipRecords r b.breakId b.run (s.now.airAt (c.lateness s.periodSeq)))).log) ∧
        (home.state = .ready ∨ home.active = false ∧ home.waiting = none →
          b'.leadInStart = some s.now.pos ∧ b'.lateStart = s.link.count - (s.link.count - c.lateness s.periodSeq)) ∧
        (home.state = .ready → (p.region r).lead = some (homeVoice r) ∧
          match nextPending b.run with
          | none => (p.region r).state = .fill ∧ (p.voice (homeVoice r)).state = .playing
          | some e => match s.play.linkedTo r e with
            | some g => (p.region r).state = .gated ∧ (p.region r).arriving = some g ∧ p.voice (homeVoice r) = home
            | none => (p.region r).state = (if ms = 0 ∨ (s.play.region r).bed.level = 0 then .localPlay else .leadin) ∧
                (p.voice (homeVoice r)).state = .playing ∧ b'.itemsAired = b.itemsAired + 1 ∧ (p.region r).bed =
                (s.play.region r).bed.begin 0 ms) ∧
        (home.active = false → home.waiting = none → nextPending b.run = none → (p.region r).state = .returned) ∧
        (home.state = .priming ∨ home.active = false ∧ home.waiting ≠ none →
          (p.region r).state = .leadin ∧ b'.leadInStart = b.leadInStart ∧ p.voice (homeVoice r) = home ∧
            (p.region r).bed = (s.play.region r).bed) := by
  intro p home ms
  obtain ⟨⟨logged, own⟩, -, voices, plans, gates, -, log⟩ := enterLeadIn_spec s.now c (c.lateness s.periodSeq) isOpen
  have is : p = if home.state = .ready ∨ home.active = false ∧ home.waiting = none then
      (s.play.enterLeadIn s.now r c (c.lateness s.periodSeq)).leadInStart s.now r
    else s.play.enterLeadIn s.now r c (c.lateness s.periodSeq) := warmSplit_eq _ _ _ _ _
  clear_value p
  generalize s.play.enterLeadIn s.now r c (c.lateness s.periodSeq) = q at own voices plans gates log is
  have isOpen' : (q.region r).brk = some (b.warm s r c logged) := by rw [own]; rfl
  have state : (q.region r).state = .leadin := by rw [own]
  have bed : (q.region r).bed = (s.play.region r).bed := by rw [own]
  have voice : q.voice (homeVoice r) = home := by
    show _ = s.play.voice (homeVoice r)
    unfold Play.voice
    rw [voices]
  have linked (e : RunEntry) : q.linkedTo r e = s.play.linkedTo r e := by
    unfold Play.linkedTo Play.gate
    rw [gates]
  have held : (q.heldPlan r (b.warm s r c logged)).leadInMs = ms := by
    show _ = (s.play.heldPlan r b).leadInMs
    unfold Play.heldPlan Play.slot
    rw [plans]
    rfl
  by_cases begins : home.state = .ready ∨ home.active = false ∧ home.waiting = none
  · rw [if_pos begins] at is
    obtain ⟨⟨d, brk, led⟩, arm, ledIn, log'⟩ := leadInStart_led s.now isOpen' state
    rw [← is] at brk arm ledIn log'
    refine ⟨arm.trans (by rw [own]), ledIn, logged, d, brk, .inr led, fun rising fresh => log'.trans (log rising fresh), fun _ => ledIn_start led,
      fun ready => ?_, fun still _ none' => ?_, fun waits => ?_⟩
    · cases next : nextPending b.run with
      | none =>
        have form := leadInStart_filler s.now isOpen' next (by rw [voice]; exact ready_active ready)
        rw [← is] at form
        rw [form, Play.region_setRegion, if_pos rfl]
        refine ⟨rfl, rfl, ?_⟩
        show ((q.modVoice (homeVoice r) fun x => x.start s.now.count 0).voice (homeVoice r)).state = _
        rw [Play.voice_modVoice, if_pos rfl]
        exact (start_fields _ _ _).1
      | some e =>
        cases linked' : s.play.linkedTo r e with
        | some g =>
          have form := leadInStart_held s.now isOpen' next ((linked e).trans linked')
          rw [← is] at form
          refine ⟨by rw [form, Play.region_setRegion, if_pos rfl], ?_⟩
          simp only [linked']
          exact ⟨by rw [form, Play.region_setRegion, if_pos rfl], by rw [form, Play.region_setRegion, if_pos rfl], by rw [form]; exact voice⟩
        | none =>
          obtain ⟨⟨prep, tested, region⟩, ⟨u, pend, played⟩, -⟩ := leadInStart_spec s.now isOpen' state next ((linked e).trans linked')
          rw [← is] at region played
          rw [held, bed] at region
          have aired : d = _ := Option.some.inj (brk.symm.trans (congrArg RegionRec.brk region))
          refine ⟨by rw [region], ?_⟩
          simp only [linked']
          refine ⟨?_, by rw [played]; exact (start_fields _ _ _).1, by rw [aired]; rfl, by rw [region]⟩
          rw [region]
          exact if_congr (Option.isNone_iff_eq_none.trans (begin_done _ 0 ms)) rfl rfl
    · have form := leadInStart_empty s.now isOpen' none' (by rw [voice]; exact still)
      rw [is, form, Play.region_setRegion, if_pos rfl]
    · rcases begins with ready | ⟨still, free⟩
      · rcases waits with priming | ⟨still, -⟩
        · exact absurd (ready.symm.trans priming) nofun
        · rw [ready_active ready] at still
          cases still
      · rcases waits with priming | ⟨-, not⟩
        · rw [Voice.active, priming] at still
          cases still
        · exact absurd free not
  · rw [if_neg begins] at is
    rw [is]
    exact ⟨by rw [own], by rw [state]; simp, logged, _, isOpen', .inl rfl, log, fun begins' => absurd begins' begins, fun ready => absurd (.inl ready) begins,
      fun still free => absurd (.inr ⟨still, free⟩) begins, fun _ => ⟨state, rfl, voice, bed⟩⟩

/-! ## A cold split (R23) -/

theorem coldSplit_none {p : Play} {t : Now} {lateness : Nat} (none' : p.findPlan r c.breakId = none) : p.coldSplit t r c lateness = p := by
  unfold Play.coldSplit
  rw [none']

theorem primeFirst_filler {p : Play} (t : Now) (isOpen : (p.region r).brk = some b) (next : nextPending b.run = none)
    (usable : p.fillerUsable t r b = true) : p.primeFirst t r = p.primeVoice (homeVoice r) (p.fillerOf r) := by
  unfold Play.primeFirst
  rw [withBreak_of _ isOpen, next]
  exact if_pos usable

theorem primeFirst_none {p : Play} (t : Now) (isOpen : (p.region r).brk = some b) (next : nextPending b.run = none)
    (unusable : p.fillerUsable t r b = false) : p.primeFirst t r = p := by
  unfold Play.primeFirst
  rw [withBreak_of _ isOpen, next]
  exact if_neg (by rw [unusable]; nofun)

/-- The lead-in of a cold split begins at once where nothing has been primed. -/
theorem coldSplit_eq {p : Play} {n : Fin 16} (t : Now) (lateness : Nat) (found : p.findPlan r c.breakId = some n) :
    p.coldSplit t r c lateness =
      let q := ((p.openBreak t r c.breakId n c.nominal).enterLeadIn t r c lateness).primeFirst t r
      if (q.voice (homeVoice r)).active = false ∧ (q.voice (homeVoice r)).waiting = none then q.leadInStart t r else q := by
  unfold Play.coldSplit
  rw [found]
  refine if_congr ?_ rfl rfl
  unfold Voice.unprimed
  rw [Bool.and_eq_true_iff, Bool.not_eq_true', Option.isNone_iff_eq_none]

/-- The run list of a break opened on a slot. -/
def Play.fitted (p : Play) (t : Now) (r : Region) (n : Fin 16) (nominal : Nat) : List RunEntry := match (p.slot r n).plan with
  | some pl => fit pl p.dir t.air nominal
  | none => []

/-- A region that a cold split has brought to LEADIN, nothing primed yet. -/
structure ColdEntered (t : Now) (c : PendingCue) (lateness : Nat) (r : Region) (n : Fin 16) (p q : Play) : Prop where
  own : ∃ logged, q.region r = { p.region r with
    armDeadline := none, state := .leadin
    brk := some { (newBreak c.breakId n (p.fitted t r n c.nominal)).splitAt t (p.region r).config c lateness with logged := logged } }
  others : ∀ y, y ≠ r → q.region y = p.region y
  voices : q.voices = p.voices
  plans : q.plans = (p.setSlot r n { p.slot r n with state := .inUse }).plans
  gates : q.gates = p.gates
  dir : q.dir = p.dir
  log : ((p.fitted t r n c.nominal).map RunEntry.index).Pairwise (· < ·) →
    q.log = (p.appendAll t (skipRecords r c.breakId (p.fitted t r n c.nominal) (t.airAt lateness))).log

theorem coldEntered (p : Play) (t : Now) (c : PendingCue) (lateness : Nat) (r : Region) (n : Fin 16) :
    ColdEntered t c lateness r n p ((p.openBreak t r c.breakId n c.nominal).enterLeadIn t r c lateness) := by
  have opened : p.openBreak t r c.breakId n c.nominal = (p.setSlot r n { p.slot r n with state := .inUse }).setRegion r
      { p.region r with brk := some (newBreak c.breakId n (p.fitted t r n c.nominal)) } := rfl
  have region : (p.openBreak t r c.breakId n c.nominal).region r =
      { p.region r with brk := some (newBreak c.breakId n (p.fitted t r n c.nominal)) } := by
    rw [opened]
    exact (Play.region_setRegion _ r r _).trans (if_pos rfl)
  obtain ⟨⟨logged, own⟩, others, voices, plans, gates, dir, log⟩ := enterLeadIn_spec t c lateness (congrArg RegionRec.brk region)
  rw [region] at own
  refine ⟨⟨logged, own⟩, fun y other => (others y other).trans ?_, voices, plans, gates, dir, fun rising => (log rising rfl).trans ?_⟩
  · rw [opened]
    exact (Play.region_setRegion _ r y _).trans (if_neg (Ne.symm other))
  · exact log_appendAll t _ ((congrArg Play.log opened).trans rfl)

/-- A voice that has been primed, or that a priming waits on. -/
theorem prime_primed (x : Voice) (u : Prime) : ¬ ((x.prime u).active = false ∧ (x.prime u).waiting = none) := by
  rintro ⟨still, free⟩
  by_cases releasing : x.state = .releasing
  · have form : x.prime u = { x with waiting := some u } := if_pos releasing
    rw [form] at free
    cases free
  · rw [prime_eq_take _ releasing, Voice.active, (primedAs_take x u).1.state] at still
    cases still

section
variable {p : Play} {t : Now} {lateness : Nat} {n : Fin 16}

/-- What a cold split primes: the first kept entry, or the filler where there is none. -/
theorem coldSplit_primes {q : Play} {u : Prime} (found : p.findPlan r c.breakId = some n)
    (is : (p.openBreak t r c.breakId n c.nominal).enterLeadIn t r c lateness = q) (primes : q.primeFirst t r = q.primeVoice (homeVoice r) u) :
    p.coldSplit t r c lateness = q.primeVoice (homeVoice r) u := by
  rw [coldSplit_eq t lateness found, is, primes]
  refine if_neg ?_
  have voice : (q.primeVoice (homeVoice r) u).voice (homeVoice r) = (q.voice (homeVoice r)).prime u :=
    (Play.voice_modVoice q _ _ _).trans (if_pos rfl)
  rw [voice]
  exact prime_primed _ u

/-- A cold split that finds nothing to prime. -/
theorem coldSplit_bare {q : Play} {b : OpenBreak} (found : p.findPlan r c.breakId = some n)
    (is : (p.openBreak t r c.breakId n c.nominal).enterLeadIn t r c lateness = q) (bare : q.primeFirst t r = q)
    (isOpen : (q.region r).brk = some b) (next : nextPending b.run = none) : p.coldSplit t r c lateness =
      if (q.voice (homeVoice r)).active = false ∧ (q.voice (homeVoice r)).waiting = none then
        q.setRegion r { q.region r with state := .returned, brk := some (b.leadIn t) }
      else q := by
  rw [coldSplit_eq t lateness found, is, bare]
  dsimp only
  split
  · rename_i unprimed
    exact leadInStart_empty t isOpen next unprimed.1
  · rfl

/-- A cold split leaves the region in LEADIN or RETURNED, with the break of its plan open. -/
theorem coldSplit_opens (found : p.findPlan r c.breakId = some n) : let q := p.coldSplit t r c lateness
    (∃ b, (q.region r).brk = some b ∧ b.breakId = c.breakId ∧ b.slot = n) ∧ ((q.region r).state = .leadin ∨ (q.region r).state = .returned) := by
  have entered := coldEntered p t c lateness r n
  generalize is : (p.openBreak t r c.breakId n c.nominal).enterLeadIn t r c lateness = q at entered
  obtain ⟨logged, own⟩ := entered.own
  have isOpen := congrArg RegionRec.brk own
  have primes {u : Prime} (primes : q.primeFirst t r = q.primeVoice (homeVoice r) u) := coldSplit_primes found is primes
  dsimp only
  have staysIn {u : Prime} (form : p.coldSplit t r c lateness = q.primeVoice (homeVoice r) u) :
      (p.coldSplit t r c lateness).region r = q.region r := by rw [form]; rfl
  cases next : nextPending (p.fitted t r n c.nominal) with
  | some e =>
    rw [staysIn (primes (primeFirst_pending t isOpen next)), own]
    exact ⟨⟨_, rfl, rfl, rfl⟩, .inl rfl⟩
  | none =>
    cases usable : q.fillerUsable t r { (newBreak c.breakId n (p.fitted t r n c.nominal)).splitAt t (p.region r).config c lateness with
        logged := logged } with
    | true =>
      rw [staysIn (primes (primeFirst_filler t isOpen next usable)), own]
      exact ⟨⟨_, rfl, rfl, rfl⟩, .inl rfl⟩
    | false =>
      rw [coldSplit_bare found is (primeFirst_none t isOpen next usable) isOpen next]
      split
      · rw [Play.region_setRegion, if_pos rfl]
        exact ⟨⟨_, rfl, rfl, rfl⟩, .inr rfl⟩
      · rw [own]
        exact ⟨⟨_, rfl, rfl, rfl⟩, .inl rfl⟩

end

end

/-! ## A cue out of its place (R18, R24), and a re-arm -/

section
variable {p : Play} {r : Region} {c : PendingCue} {b : OpenBreak} {t : Now}

theorem onPrepare_same (primed : (p.region r).state = .primed) (isOpen : (p.region r).brk = some b) (same : b.breakId = c.breakId) :
    p.onPrepare t r c = p.setRegion r ((p.region r).armFrom t) := by
  unfold Play.onPrepare
  simp only [primed]
  exact if_pos ((openId_of isOpen).trans same)

theorem onPrepare_other (primed : (p.region r).state = .primed) (isOpen : (p.region r).brk = some b) (other : b.breakId ≠ c.breakId) :
    p.onPrepare t r c = (p.disarm r .network).arm t r c := by
  unfold Play.onPrepare
  simp only [primed]
  exact if_neg fun same => other ((openId_of isOpen).symm.trans same)

theorem onSplit_same (lateness : Nat) (primed : (p.region r).state = .primed) (isOpen : (p.region r).brk = some b)
    (same : b.breakId = c.breakId) : p.onSplit t r c lateness = p.warmSplit t r c lateness := by
  unfold Play.onSplit
  simp only [primed]
  exact if_pos ((openId_of isOpen).trans same)

theorem onSplit_other (lateness : Nat) (primed : (p.region r).state = .primed) (isOpen : (p.region r).brk = some b)
    (other : b.breakId ≠ c.breakId) : p.onSplit t r c lateness = (p.disarm r .network).coldSplit t r c lateness := by
  unfold Play.onSplit
  simp only [primed]
  exact if_neg fun same => other ((openId_of isOpen).symm.trans same)

/-- The states of an open break that has been split. -/
abbrev RegionState.running (st : RegionState) : Prop := st ∈ [RegionState.leadin, .localPlay, .gated, .fill, .leadout, .returned]

theorem onPrepare_running (running : (p.region r).state.running) : p.onPrepare t r c = p.cueSequence t r c := by
  unfold Play.onPrepare
  simp only [RegionState.running, List.mem_cons, List.not_mem_nil, or_false] at running
  rcases running with is | is | is | is | is | is
  all_goals simp only [is]

theorem onSplit_running (lateness : Nat) (running : (p.region r).state.running) : p.onSplit t r c lateness = p.splitRunning t r c := by
  unfold Play.onSplit
  simp only [RegionState.running, List.mem_cons, List.not_mem_nil, or_false] at running
  rcases running with is | is | is | is | is | is
  all_goals simp only [is]

theorem cueSequence_open (isOpen : (p.region r).brk = some b) :
    p.cueSequence t r c = p.raise t 0 (.cueSequence r c.kind c.breakId c.target (p.region r).state b.breakId t.pos) := by
  unfold Play.cueSequence
  rw [isOpen]

/-- A PREPARE that finds a plan leaves the region PRIMED with its break open. -/
theorem arm_opens {n : Fin 16} (found : p.findPlan r c.breakId = some n) : let q := p.arm t r c
    (∃ b, (q.region r).brk = some b ∧ b.breakId = c.breakId ∧ b.slot = n) ∧ (q.region r).state = .primed := by
  have shape : p.arm t r c =
      ((p.openBreak t r c.breakId n c.nominal).modRegion r fun x => { x.armFrom t with state := .primed }).primeFirst t r := by
    unfold Play.arm
    rw [found]
  have opened : ((p.openBreak t r c.breakId n c.nominal).region r).brk = some (newBreak c.breakId n (p.fitted t r n c.nominal)) :=
    congrArg RegionRec.brk ((Play.region_setRegion (p.setSlot r n { p.slot r n with state := .inUse }) r r
      { p.region r with brk := some (newBreak c.breakId n (p.fitted t r n c.nominal)) }).trans (if_pos rfl))
  intro q
  have own : q.region r = { ((p.openBreak t r c.breakId n c.nominal).region r).armFrom t with state := .primed } := by
    show (p.arm t r c).region r = _
    rw [shape, region_primeFirst, Play.region_modRegion, if_pos rfl]
  rw [own]
  exact ⟨⟨_, opened, rfl, rfl⟩, rfl⟩

theorem arm_none (none' : p.findPlan r c.breakId = none) : p.arm t r c = p := by
  unfold Play.arm
  rw [none']

end

/-- A PREPARE or SPLIT where a break is open, as O27 states it. -/
theorem onOpenBreak_spec (s : State) (r : Region) (c : PendingCue) (b : OpenBreak) (kind : c.kind = .prepare ∨ c.kind = .split)
    (isOpen : (s.play.region r).brk = some b) : let p := s.play.onCue s.now r c (c.lateness s.periodSeq)
    ((s.play.region r).state = .primed → c.kind = .prepare → b.breakId = c.breakId →
      p = s.play.setRegion r { s.play.region r with
        armDeadline := some (s.link.count + (s.play.region r).config.armTimeoutS * 48000) }) ∧
    ((s.play.region r).state = .primed → b.breakId ≠ c.breakId →
      ((p.region r).brk = none ∧ (p.region r).state = .network ∧ (s.play.disarm r .network).findPlan r c.breakId = none ∨
        ∃ b' n, (p.region r).brk = some b' ∧ b'.breakId = c.breakId ∧ b'.slot = n ∧
          (s.play.disarm r .network).findPlan r c.breakId = some n ∧
          (c.kind = .prepare → (p.region r).state = .primed) ∧
          (c.kind = .split → (p.region r).state = .leadin ∨ (p.region r).state = .returned))) ∧
    ((s.play.region r).state.running →
      (c.kind = .split → b.breakId = c.breakId → p = s.play) ∧
      (c.kind = .prepare ∨ b.breakId ≠ c.breakId →
        p = s.play.raise s.now 0
          (.cueSequence r c.kind c.breakId c.target (s.play.region r).state b.breakId ⟨s.periodSeq, s.sample⟩))) := by
  have prepare (kind : c.kind = .prepare) : s.play.onCue s.now r c (c.lateness s.periodSeq) = s.play.onPrepare s.now r c := by
    unfold Play.onCue
    rw [kind]
  have split (kind : c.kind = .split) := onCue_split (p := s.play) (r := r) s.now (c.lateness s.periodSeq) kind
  have disarmed := disarm_spec .network isOpen
  obtain ⟨pool, lead, own⟩ := disarmed.own
  dsimp only
  refine ⟨fun primed kind same => ?_, fun primed other => ?_, fun running => ⟨fun kind same => ?_, fun out => ?_⟩⟩
  · rw [prepare kind, onPrepare_same primed isOpen same]
    rfl
  · rcases kind with kind | kind
    · rw [prepare kind, onPrepare_other primed isOpen other]
      cases found : (s.play.disarm r .network).findPlan r c.breakId with
      | none =>
        rw [arm_none found, own]
        exact .inl ⟨rfl, rfl, rfl⟩
      | some n =>
        obtain ⟨⟨d, brk, breakId, slot⟩, state⟩ := arm_opens (t := s.now) found
        exact .inr ⟨d, n, brk, breakId, slot, rfl, fun _ => state, fun is => absurd (kind.symm.trans is) nofun⟩
    · rw [split kind, onSplit_other _ primed isOpen other]
      cases found : (s.play.disarm r .network).findPlan r c.breakId with
      | none =>
        rw [coldSplit_none found, own]
        exact .inl ⟨rfl, rfl, rfl⟩
      | some n =>
        obtain ⟨⟨d, brk, breakId, slot⟩, state⟩ := coldSplit_opens (t := s.now) (lateness := c.lateness s.periodSeq) found
        exact .inr ⟨d, n, brk, breakId, slot, rfl, fun is => absurd (kind.symm.trans is) nofun, fun _ => state⟩
  · rw [split kind, onSplit_running _ running]
    exact if_pos ((openId_of isOpen).trans same)
  · have answered : s.play.onCue s.now r c (c.lateness s.periodSeq) = s.play.cueSequence s.now r c := by
      rcases kind with kind | kind
      · rw [prepare kind, onPrepare_running running]
      · rw [split kind, onSplit_running _ running]
        refine if_neg fun same => ?_
        rcases out with is | other
        · exact absurd (kind.symm.trans is) nofun
        · exact other ((openId_of isOpen).symm.trans same)
    exact answered.trans (cueSequence_open isOpen)

end Sys2Proof.Machine

/-! # A REJOIN or CANCEL, and a cold split, as O27 states them -/

namespace Sys2Proof.Machine

/-! ## The end of a break by cue (R19, R30, R31, R34) -/

section
variable {p : Play} {r : Region} {c : PendingCue} {b : OpenBreak} {t : Now}

theorem onEnd_ignored (cause : EndCause) (ignored : ∀ b, (p.region r).brk = some b → b.breakId ≠ c.breakId) : p.onEnd t r c cause = p := by
  unfold Play.onEnd Play.withBreak
  split
  · rfl
  · rename_i b isOpen
    exact if_neg (ignored b isOpen)

theorem onEnd_primed (cause : EndCause) (isOpen : (p.region r).brk = some b) (same : b.breakId = c.breakId)
    (primed : (p.region r).state = .primed) :
    p.onEnd t r c cause = if c.kind = .rejoin then (p.cueSequence t r c).disarm r .network else p.disarm r .network := by
  unfold Play.onEnd
  rw [withBreak_of _ isOpen, if_pos same]
  simp only [primed]
  exact if_congr beq_iff_eq rfl rfl

theorem onEnd_break (cause : EndCause) (isOpen : (p.region r).brk = some b) (same : b.breakId = c.breakId)
    (split : (p.region r).state ≠ .primed) : p.onEnd t r c cause = p.breakEnd t r cause false := by
  unfold Play.onEnd
  rw [withBreak_of _ isOpen, if_pos same]
  cases state : (p.region r).state with
  | primed => exact absurd state split
  | _ => rfl

/-- The cause of a break end by cue. -/
def PendingCue.cause (c : PendingCue) : EndCause := if c.kind = .rejoin then .rejoinCue else .cancel

theorem onCue_end (lateness : Nat) (kind : c.kind = .rejoin ∨ c.kind = .cancel) : p.onCue t r c lateness = p.onEnd t r c c.cause := by
  unfold Play.onCue PendingCue.cause
  rcases kind with is | is
  · simp only [is, if_true]
  · rw [is]
    rfl

theorem cause_rejoin : c.cause = .rejoinCue ↔ c.kind = .rejoin := by
  unfold PendingCue.cause
  split
  · rename_i is
    exact ⟨fun _ => is, fun _ => rfl⟩
  · rename_i not
    exact ⟨nofun, fun is => absurd is not⟩

/-- A break end of a primed region disarms it, a REJOIN with its notice before (log 47). -/
theorem onEnd_disarms (cause : EndCause) (isOpen : (p.region r).brk = some b) (same : b.breakId = c.breakId)
    (primed : (p.region r).state = .primed) : let q := p.onEnd t r c cause
    (q.region r).state = .network ∧ (q.region r).brk = none ∧ (q.region r).armDeadline = none ∧ (q.region r).bed = (p.region r).bed ∧
      (q.voice (homeVoice r)).active = false ∧ (∀ w ∈ q.waiters, w.region ≠ r) ∧ q.log = p.log ∧
      q.agent = if c.kind = .rejoin then (p.raise t 0 (.cueSequence r .rejoin c.breakId c.target .primed c.breakId t.pos)).agent else p.agent := by
  obtain ⟨a, raised⟩ := p.raise_form t 0 (.cueSequence r .rejoin c.breakId c.target .primed c.breakId t.pos)
  have noticed : ∃ a, p.onEnd t r c cause = ({ p with agent := a } : Play).disarm r .network ∧
      a = if c.kind = .rejoin then (p.raise t 0 (.cueSequence r .rejoin c.breakId c.target .primed c.breakId t.pos)).agent else p.agent := by
    rw [onEnd_primed cause isOpen same primed]
    by_cases rejoin : c.kind = .rejoin
    · refine ⟨a, ?_, ?_⟩
      · rw [if_pos rejoin, cueSequence_open isOpen, rejoin, primed, same, raised]
      · rw [if_pos rejoin, raised]
    · exact ⟨p.agent, if_neg rejoin, (if_neg rejoin).symm⟩
  obtain ⟨a', shape, agent⟩ := noticed
  have disarmed := disarm_spec (p := { p with agent := a' }) (r := r) .network isOpen
  obtain ⟨pool, lead, own⟩ := disarmed.own
  dsimp only
  rw [shape]
  refine ⟨by rw [own]; rfl, by rw [own]; rfl, by rw [own]; rfl, by rw [own]; rfl, disarmed.home, fun w inside => ?_, disarmed.log,
    disarmed.agent.trans agent⟩
  rw [disarmed.waiters] at inside
  exact bne_iff_ne.1 (List.mem_filter.1 inside).2

end

/-- A REJOIN or CANCEL with the open break ID, as O27 states it. -/
theorem onEnd_spec (s : State) (r : Region) (c : PendingCue) (b : OpenBreak) (isOpen : (s.play.region r).brk = some b)
    (same : b.breakId = c.breakId) :
    let p := s.play.onEnd s.now r c c.cause
    let cause := c.cause
    let x := s.play.region r
    let ms := (s.play.heldPlan r b).leadOutMs
    let bed := b.bedBefore s.link.count x.bed
    (x.state = .primed → (p.region r).state = .network ∧ (p.region r).brk = none ∧ (p.region r).armDeadline = none ∧
      (p.region r).bed = x.bed ∧ (p.voice (homeVoice r)).active = false ∧ (∀ w ∈ p.waiters, w.region ≠ r) ∧ p.log = s.play.log ∧
      p.agent = (if c.kind = .rejoin then (s.play.raise s.now 0
        (.cueSequence r .rejoin c.breakId c.target .primed c.breakId ⟨s.periodSeq, s.sample⟩)).agent else s.play.agent)) ∧
    (x.state ∈ [RegionState.leadin, .localPlay, .gated, .fill] → 0 < ms → bed.level ≠ 231 →
      (p.region r).state = .leadout ∧ (p.region r).bed = bed.begin 231 ms ∧
        ∃ b', (p.region r).brk = some b' ∧ b'.endCause = some cause ∧ b'.closing = true ∧ b'.timerRuns = false ∧
          ∀ e ∈ b'.run, e.status ≠ .pending) ∧
    (x.state ∈ [RegionState.leadin, .localPlay, .gated, .fill] → 0 < ms → bed.level = 231 →
      ((∀ v ∈ s.play.voicesOf r, (s.play.voice v).state ≠ .playing) → BreakClosed s p r b cause) ∧
      ∀ v ∈ s.play.voicesOf r, RampsOut s b v → LeadOutOpen p r cause) ∧
    (x.state ∈ [RegionState.leadin, .localPlay, .gated, .fill] → ms = 0 →
      (p.region r).state = .network ∧ (p.region r).brk = none ∧ (p.region r).bed = ⟨231, none⟩ ∧
        ∃ l n y, p.log.records = l ++ [⟨n, .brk y⟩] ∧ y.region = r ∧ y.breakId = b.breakId ∧ y.cause = cause ∧
          y.close = s.link.air) ∧
    (x.state = .leadout → b.closing = false → p = s.play.setRegion r { x with
      brk := some { b with endCause := some cause, closing := true, timerRuns := false, endedAt := some s.link.count } }) ∧
    (x.state = .leadout → b.closing = true →
      let amends := c.kind = .rejoin ∧ b.endCause = some .timeout ∧ b.endedAt = some s.link.count
      let still := x.bed.ramp = none ∧ ∀ v ∈ s.play.voicesOf r, (s.play.voice v).active = false
      (¬ amends → p = s.play) ∧
      (amends → ¬ still → p = s.play.setRegion r { x with brk := some { b with endCause := some .rejoinCue } }) ∧
      (amends → still → (p.region r).state = .network ∧ (p.region r).brk = none ∧
        ∃ l n y, p.log.records = l ++ [⟨n, .brk y⟩] ∧ y.region = r ∧ y.breakId = b.breakId ∧ y.cause = .rejoinCue)) ∧
    (x.state = .returned → (p.region r).state = .network ∧ (p.region r).brk = none ∧ (p.region r).bed = x.bed ∧
      ∃ l n y, p.log.records = l ++ [⟨n, .brk y⟩] ∧ y.region = r ∧ y.breakId = b.breakId ∧ y.cause = cause ∧
        y.close = s.link.air ∧ y.lateStart = b.lateStart ∧ y.fillSamples = b.fillSamples ∧ y.itemsAired = b.itemsAired) := by
  intro p cause x ms bed
  have ended (not : x.state ≠ .primed) : p = s.play.breakEnd s.now r c.cause false := onEnd_break c.cause isOpen same not
  have running (among : x.state ∈ [RegionState.leadin, .localPlay, .gated, .fill]) : x.state ≠ .primed := by
    intro primed
    rw [primed] at among
    simp at among
  refine ⟨fun primed => onEnd_disarms c.cause isOpen same primed, fun among takes far => ?_, fun among takes there => ?_, fun among instant => ?_,
    fun leadout early => ?_, fun leadout closing => ?_, fun returned => ?_⟩
  · rw [ended (running among)]
    exact (breakEnd_running_spec false isOpen among).1 takes (.inl far)
  · rw [ended (running among)]
    exact (breakEnd_running_spec false isOpen among).2.1 takes there rfl
  · rw [ended (running among)]
    exact (breakEnd_running_spec false isOpen among).2.2 instant
  · rw [ended (by rw [leadout]; nofun)]
    exact breakEnd_early isOpen leadout early
  · intro amends still
    let q := s.play.setRegion r { s.play.region r with brk := some { b with endCause := some .rejoinCue } }
    have form : p = if amends then q.completeLeadOut s.now r else s.play := by
      rw [ended (by rw [leadout]; nofun), breakEnd_closing isOpen leadout closing]
      exact if_congr (and_congr cause_rejoin Iff.rfl) rfl rfl
    have own : q.region r = { s.play.region r with brk := some { b with endCause := some .rejoinCue } } :=
      (Play.region_setRegion _ r r _).trans (if_pos rfl)
    have voicesOf : q.voicesOf r = s.play.voicesOf r := by
      unfold Play.voicesOf
      rw [own]
    have complete : q.leadOutDone r = true ↔ still := by
      rw [leadOutDone_iff, own, voicesOf]
      exact ⟨fun all => all.2, fun all => ⟨leadout, all⟩⟩
    refine ⟨fun not => form.trans (if_neg not), fun is not => ?_, fun is done => ?_⟩
    · rw [form, if_pos is]
      exact completeLeadOut_runsOn s.now fun done => not (complete.1 done)
    · rw [form, if_pos is, completeLeadOut_closes s.now (complete.2 done) (congrArg RegionRec.brk own) closing]
      obtain ⟨state, brk, -, -, l, records⟩ := closeBreak_tail (t := s.now) .network (congrArg RegionRec.brk own)
      exact ⟨state, brk, l, _, _, records, rfl, rfl, rfl⟩
  · rw [ended (by rw [returned]; nofun)]
    obtain ⟨state, brk, bed, l, y, records, rest⟩ := breakEnd_returned_tail (t := s.now) (cause := c.cause) (rejoins := false) isOpen returned
    exact ⟨state, brk, bed, l, _, y, records, rest⟩

/-! ## A cold split in NETWORK (R23) -/

/-- The break of a cold split as it enters LEADIN. -/
def coldBreak (s : State) (r : Region) (c : PendingCue) (n : Fin 16) (run : List RunEntry) (logged : Option AppendNote) : OpenBreak :=
  { (newBreak c.breakId n run).splitAt s.now (s.play.region r).config c (c.lateness s.periodSeq) with logged := logged }

/-- The priming of a region's filler. -/
theorem fillerOf_fields (p : Play) (r : Region) : let cfg := (p.region r).config
    ∃ format trim page last, p.fillerOf r = ⟨cfg.fillerClip, format, trim, page, 0, last, cfg.fillerLevel, 0, true, none⟩ ∧
      ∀ x, p.dir.find cfg.fillerClip = some x → last = x.header.length := by
  unfold Play.fillerOf
  dsimp only
  cases found : p.dir.find (p.region r).config.fillerClip with
  | none =>
    obtain ⟨format, trim, page, fields⟩ := prime_fields p.dir (p.region r).config.fillerClip 0 0 (p.region r).config.fillerLevel 0 true none
    exact ⟨format, trim, page, 0, fields, nofun⟩
  | some e =>
    obtain ⟨format, trim, page, fields⟩ := prime_fields p.dir (p.region r).config.fillerClip 0 e.header.length
      (p.region r).config.fillerLevel 0 true none
    refine ⟨format, trim, page, e.header.length, fields, fun x is => ?_⟩
    cases is
    rfl

/-- The cold split of a region in NETWORK whose home voice is free, as O27 states it. -/
theorem coldSplit_spec (s : State) (r : Region) (c : PendingCue) (n : Fin 16) (pl : Plan) (found : s.play.findPlan r c.breakId = some n)
    (planned : (s.play.slot r n).plan = some pl) (idle : (s.play.voice (homeVoice r)).state = .idle)
    (free : (s.play.voice (homeVoice r)).waiting = none) :
    let p := s.play.coldSplit s.now r c (c.lateness s.periodSeq)
    let run := fit pl s.play.dir s.link.air c.nominal
    p.slot r n = ⟨.inUse, some pl⟩ ∧ (∀ q m, q ≠ r ∨ m ≠ n → p.slot q m = s.play.slot q m) ∧ (p.region r).armDeadline = none ∧
    (∃ b', (p.region r).brk = some b' ∧ b'.slot = n ∧ b'.run = run ∧ b'.endCause = none ∧ SplitBy s r c b' ∧
      p.log = (s.play.appendAll s.now (skipRecords r c.breakId run b'.splitAir)).log ∧
      (∀ e, (run.find? fun e => e.status == .pending) = some e →
        (p.region r).state = .leadin ∧ b'.leadInStart = none ∧ PrimedWith p r e) ∧
      ((∀ e ∈ run, e.status ≠ .pending) → pl.fill = .filler →
        s.play.dir.usable (s.play.region r).config.fillerClip s.link.air = true →
        (p.region r).state = .leadin ∧ b'.leadInStart = none ∧ FillerPrimed s p r) ∧
      ((∀ e ∈ run, e.status ≠ .pending) →
        pl.fill = .earlyNetwork ∨ s.play.dir.usable (s.play.region r).config.fillerClip s.link.air = false →
        (p.region r).state = .returned ∧ b'.leadInStart = some ⟨s.periodSeq, s.sample⟩ ∧
          (p.voice (homeVoice r)).active = false)) ∧
    (p.region r).bed = (s.play.region r).bed ∧ (∀ q, q ≠ r → p.region q = s.play.region q) := by
  intro p run
  have isRun : s.play.fitted s.now r n c.nominal = run := by
    unfold Play.fitted
    rw [planned]
    rfl
  have entered := coldEntered s.play s.now c (c.lateness s.periodSeq) r n
  rw [← isRun]
  generalize is : (s.play.openBreak s.now r c.breakId n c.nominal).enterLeadIn s.now r c (c.lateness s.periodSeq) = q at entered
  obtain ⟨logged, own⟩ := entered.own
  let d := coldBreak s r c n (s.play.fitted s.now r n c.nominal) logged
  have isOpen : (q.region r).brk = some d := congrArg RegionRec.brk own
  have log : q.log = (s.play.appendAll s.now (skipRecords r c.breakId (s.play.fitted s.now r n c.nominal) (s.now.airAt (c.lateness s.periodSeq)))).log :=
    entered.log (by rw [isRun]; exact fit_sorted _ _ _ _)
  have voice : q.voice (homeVoice r) = s.play.voice (homeVoice r) := by
    unfold Play.voice
    rw [entered.voices]
  have slot (y : Region) (m : Fin 16) : q.slot y m = if r = y ∧ n = m then { s.play.slot r n with state := .inUse } else s.play.slot y m :=
    slot_setSlot_of_plans entered.plans y m
  have taken : q.slot r n = ⟨.inUse, some pl⟩ := by rw [slot, if_pos ⟨rfl, rfl⟩, ← planned]
  have untouched (y : Region) (m : Fin 16) (other : y ≠ r ∨ m ≠ n) : q.slot y m = s.play.slot y m := by
    rw [slot]
    refine if_neg ?_
    rintro ⟨rfl, rfl⟩
    exact other.elim (· rfl) (· rfl)
  have config : (q.region r).config = (s.play.region r).config := by rw [own]
  have usable : q.fillerUsable s.now r d = (pl.fill == .filler && s.play.dir.usable (s.play.region r).config.fillerClip s.link.air) := by
    unfold Play.fillerUsable Play.heldPlan
    rw [show d.slot = n from rfl, taken, entered.dir, config]
    rfl
  have splits (b : OpenBreak) (form : b = d ∨ b = d.leadIn s.now) : SplitBy s r c b ∧ b.splitAir = s.now.airAt (c.lateness s.periodSeq) := by
    rcases form with rfl | rfl
    · exact splitBy_of (b := d) rfl ⟨rfl, rfl, rfl, rfl⟩
    · exact splitBy_of (b := d) rfl ⟨rfl, rfl, rfl, rfl⟩
  have none_iff : (∀ e ∈ s.play.fitted s.now r n c.nominal, e.status ≠ .pending) ↔ nextPending (s.play.fitted s.now r n c.nominal) = none := by
    unfold nextPending
    rw [List.find?_eq_none]
    exact forall₂_congr fun e _ => not_congr beq_iff_eq.symm
  have notReleasing : (q.voice (homeVoice r)).state ≠ .releasing := by
    rw [voice, idle]
    nofun
  have others (y : Region) (other : y ≠ r) : q.region y = s.play.region y := entered.others y other
  have logged' (b : OpenBreak) (form : b = d ∨ b = d.leadIn s.now) :
      q.log = (s.play.appendAll s.now (skipRecords r c.breakId (s.play.fitted s.now r n c.nominal) b.splitAir)).log := by
    rw [(splits b form).2]
    exact log
  have primes (u : Prime) (form : p = q.primeVoice (homeVoice r) u) : p.region r = q.region r ∧ p.slot r n = ⟨.inUse, some pl⟩ ∧
      (∀ y m, y ≠ r ∨ m ≠ n → p.slot y m = s.play.slot y m) ∧ p.log = q.log ∧ (∀ y, y ≠ r → p.region y = s.play.region y) ∧
      PrimedAs (p.voice (homeVoice r)) u := by
    have plans : p.plans = q.plans := by rw [form]; rfl
    refine ⟨by rw [form]; rfl, (slot_of_plans plans r n).trans taken, fun y m other => (slot_of_plans plans y m).trans (untouched y m other),
      by rw [form]; rfl, fun y other => ?_, ?_⟩
    · rw [form]
      exact others y other
    · rw [form]
      exact primedAs_primeVoice u notReleasing
  cases next : nextPending (s.play.fitted s.now r n c.nominal) with
  | some e =>
    obtain ⟨region, slot, slots, log', regions, primed⟩ :=
      primes _ (coldSplit_primes found is (primeFirst_pending s.now isOpen next))
    obtain ⟨format, trim, page, fields⟩ := primeOf_fields q e e.level
    rw [fields] at primed
    have notNone : ¬ ∀ e ∈ s.play.fitted s.now r n c.nominal, e.status ≠ .pending := fun none' => by
      rw [none_iff.1 none'] at next
      cases next
    refine ⟨slot, slots, by rw [region, own], ⟨d, by rw [region]; exact isOpen, rfl, rfl, rfl, (splits d (.inl rfl)).1,
      log'.trans (logged' d (.inl rfl)), fun x isNext => ?_, fun none' => absurd none' notNone, fun none' => absurd none' notNone⟩,
      by rw [region, own], regions⟩
    cases next.symm.trans isNext
    exact ⟨by rw [region, own], rfl, primed.state, primed.clip, primed.pos, primed.endPos, primed.fader, primed.group, primed.loop, primed.ring⟩
  | none =>
    have noNext {x : RunEntry} (isNext : ((s.play.fitted s.now r n c.nominal).find? fun e => e.status == .pending) = some x) : False := by
      cases next.symm.trans isNext
    cases usable' : q.fillerUsable s.now r d with
    | true =>
      obtain ⟨region, slot, slots, log', regions, primed⟩ :=
        primes _ (coldSplit_primes found is (primeFirst_filler s.now isOpen next usable'))
      obtain ⟨fills, clip⟩ := Bool.and_eq_true_iff.1 (usable.symm.trans usable')
      obtain ⟨format, trim, page, last, fields, length⟩ := fillerOf_fields q r
      rw [fields] at primed
      rw [entered.dir, config] at length
      refine ⟨slot, slots, by rw [region, own], ⟨d, by rw [region]; exact isOpen, rfl, rfl, rfl, (splits d (.inl rfl)).1,
        log'.trans (logged' d (.inl rfl)), fun x isNext => (noNext isNext).elim, fun _ _ _ => ⟨by rw [region, own], rfl, ?_⟩,
        fun _ unusable => ?_⟩, by rw [region, own], regions⟩
      · rw [config] at primed
        exact ⟨primed.state, primed.clip, primed.pos, primed.fader, primed.group, primed.loop, primed.ring,
          fun x isClip => primed.endPos.trans (length x isClip)⟩
      · rcases unusable with early | unusable
        · rw [early] at fills
          cases fills
        · rw [unusable] at clip
          cases clip
    | false =>
      have unprimed : (q.voice (homeVoice r)).active = false ∧ (q.voice (homeVoice r)).waiting = none := by
        rw [voice, Voice.active, idle]
        exact ⟨rfl, free⟩
      let x : RegionRec := { q.region r with state := .returned, brk := some (d.leadIn s.now) }
      have form : p = q.setRegion r x :=
        (coldSplit_bare found is (primeFirst_none s.now isOpen next usable') isOpen next).trans (if_pos unprimed)
      have region : p.region r = x := by
        rw [form]
        exact (Play.region_setRegion q r r x).trans (if_pos rfl)
      have plans : p.plans = q.plans := by rw [form]; rfl
      have bed : x.bed = (s.play.region r).bed := by
        show (q.region r).bed = _
        rw [own]
      have arm : x.armDeadline = none := by
        show (q.region r).armDeadline = _
        rw [own]
      refine ⟨(slot_of_plans plans r n).trans taken, fun y m other => (slot_of_plans plans y m).trans (untouched y m other),
        by rw [region]; exact arm, ⟨d.leadIn s.now, by rw [region], rfl, rfl, rfl, (splits _ (.inr rfl)).1, ?_,
          fun x isNext => (noNext isNext).elim, fun _ fills clip => ?_, fun _ _ => ⟨by rw [region], rfl, ?_⟩⟩, by rw [region]; exact bed,
        fun y other => ?_⟩
      · refine Eq.trans ?_ (logged' _ (.inr rfl))
        rw [form]
        rfl
      · rw [usable, fills, clip] at usable'
        cases usable'
      · rw [form]
        exact unprimed.1
      · rw [form, Play.region_setRegion, if_neg (Ne.symm other)]
        exact others y other

/-- Settles O27: the warm and the cold split, and the cues of an open break by the state of its region. -/
theorem warmSplitSetsTimer : Obligations.WarmSplitSetsTimer := by
  refine ⟨fun s r c b assembling due kind primed isOpen same => ?_, fun s r c assembling due kind network => ?_,
    fun s r c b assembling due kind isOpen => ⟨_, exec_cueDispatch assembling due, onOpenBreak_spec s r c b kind isOpen⟩,
    fun s r c assembling due kind => ?_⟩
  · refine ⟨_, exec_cueDispatch assembling due, ?_⟩
    rw [onCue_split _ _ kind, onSplit_same _ primed isOpen same]
    obtain ⟨arm, ledIn, logged, d, brk, stage, log, rest⟩ := warmSplit_spec c isOpen
    obtain ⟨slot, closing, cause, ⟨split, air⟩, fits⟩ := warm_common same stage
    refine ⟨arm, ledIn, d, brk, slot, closing, cause, split, fun rising => ⟨fits rising, fun fresh => ?_⟩, rest⟩
    rw [log rising fresh, air, same]
  · refine ⟨_, exec_cueDispatch assembling due, ?_⟩
    have cold : s.play.onCue s.now r c (c.lateness s.periodSeq) = s.play.coldSplit s.now r c (c.lateness s.periodSeq) := by
      rw [onCue_split _ _ kind]
      unfold Play.onSplit
      rw [network]
    rw [cold]
    exact ⟨fun none' => coldSplit_none none', fun n pl found planned idle free => coldSplit_spec s r c n pl found planned idle free⟩
  · intro cause x
    refine ⟨_, exec_cueDispatch assembling due, ?_⟩
    rw [onCue_end _ kind]
    exact ⟨fun ignored => onEnd_ignored _ ignored, fun b isOpen same => onEnd_spec s r c b isOpen same⟩

end Sys2Proof.Machine

/-! # A read delivered, by its requester (O34) -/

namespace Sys2Proof.Machine

theorem exec_readDelivery {s : State} {f : InFlight} (flying : s.inFlight = some f) (a b c : Attempt) :
    exec (.readDelivery a b c) s = .next ((s.deliver f a b c).afterDelivery f.who).settleArray := by
  show execReadDelivery a b c s = _
  unfold execReadDelivery
  rw [flying]

/-! ## To a voice (R60, R62, R71, R74) -/

section
variable {s : State} {f : InFlight} {v : VoiceNo} (a b c : Attempt)

theorem exec_deliverVoice (flying : s.inFlight = some f) (who : f.who = .voice v) : exec (.readDelivery a b c) s =
    .next (({ s with inFlight := none } : State).between
      (s.play.deliverVoice v (readFlash s.flash (f.block * 64 + f.page % 64)) (endRead false a b c))) := by
  have single : s.singleAttempt f = false := by
    unfold State.singleAttempt
    rw [who]
  have delivered : s.deliver f a b c = { s with
      inFlight := none
      play := s.play.deliverVoice v (readFlash s.flash (f.block * 64 + f.page % 64)) (endRead false a b c) } := by
    unfold State.deliver
    dsimp only
    rw [who, single]
    rfl
  rw [exec_readDelivery flying, delivered, who]
  rfl

end

section
variable {p : Play} {v : VoiceNo} {q : PendingRead} {image : PageImage} {e : ReadEnd}

theorem weak_iff (e : ReadEnd) : e.weak = true ↔ ∃ n, 6 ≤ n ∧ e.outcome = .corrected n := by
  unfold ReadEnd.weak
  cases e.outcome with
  | corrected n => simp
  | clean => simp
  | uncorrectable => simp

/-- A page that the voice still wants joins its ring; a weak read is reported. -/
theorem deliverVoice_joins (pending : (p.voice v).pending = some q) (held : (p.voice v).state ≠ .releasing)
    (wanted : ({ p.voice v with pending := none } : Voice).wanted = some q.ref) : ∃ dir,
    p.deliverVoice v image e = { p.setVoice v (({ p.voice v with pending := none } : Voice).join ⟨q.ref, image, e.failed⟩) with dir := dir } ∧
      (e.weak = false → dir = p.dir) ∧
      ∀ n, e.weak = true → (p.voice v).clipOf q.ref.owner = some n → dir = p.dir.reportWeak n := by
  unfold Play.deliverVoice
  simp only [pending]
  rw [if_neg fun is => held (beq_iff_eq.1 is), if_pos wanted]
  cases weak : e.weak with
  | false => exact ⟨p.dir, if_neg nofun, fun _ => rfl, nofun⟩
  | true =>
    rw [if_pos rfl]
    cases clip : (p.voice v).clipOf q.ref.owner with
    | none => exact ⟨p.dir, rfl, nofun, nofun⟩
    | some n =>
      refine ⟨p.dir.reportWeak n, rfl, nofun, fun m _ is => ?_⟩
      cases is
      rfl

theorem join_fields (x : Voice) (pg : RingPage) : (x.join pg).ring = x.ring ++ [pg] ∧
    (x.join pg).state = if x.state = .priming ∧ x.pagesNeeded ≤ x.ring.length + 1 then .ready else x.state := by
  have primed : (({ x with ring := x.ring ++ [pg] } : Voice).completePriming).ring = x.ring ++ [pg] ∧
      (({ x with ring := x.ring ++ [pg] } : Voice).completePriming).state =
        if x.state = .priming ∧ x.pagesNeeded ≤ x.ring.length + 1 then .ready else x.state := by
    have needed : ({ x with ring := x.ring ++ [pg] } : Voice).pagesNeeded = x.pagesNeeded := rfl
    unfold Voice.completePriming
    rw [needed, List.length_append, List.length_singleton]
    split
    · exact ⟨rfl, rfl⟩
    · exact ⟨rfl, rfl⟩
  obtain ⟨pend, form⟩ := (({ x with ring := x.ring ++ [pg] } : Voice).completePriming).refill_form
  have is : x.join pg = _ := form
  rw [is]
  exact primed

/-- A page that the voice no longer wants is discarded. -/
theorem deliverVoice_discards (pending : (p.voice v).pending = some q) (held : (p.voice v).state ≠ .releasing)
    (other : ({ p.voice v with pending := none } : Voice).wanted ≠ some q.ref) : p.deliverVoice v image e =
      p.setVoice v { p.voice v with
        pending := ({ p.voice v with pending := none } : Voice).wanted.map fun x => ⟨x, false⟩ } := by
  unfold Play.deliverVoice
  simp only [pending]
  rw [if_neg fun is => held (beq_iff_eq.1 is), if_neg other]
  rfl

theorem deliverVoice_releases (pending : (p.voice v).pending = some q) (releasing : (p.voice v).state = .releasing) :
    p.deliverVoice v image e = (p.setVoice v (p.voice v).afterRead).returnPool v := by
  unfold Play.deliverVoice
  simp only [pending]
  exact if_pos (beq_iff_eq.2 releasing)

theorem afterRead_idle {x : Voice} (free : x.waiting = none) : x.afterRead = { x with state := .idle, pending := none } := by
  unfold Voice.afterRead
  simp only [free]

theorem afterRead_primed {x : Voice} {u : Prime} (waiting : x.waiting = some u) :
    x.afterRead = ({ x with state := .idle, pending := none, waiting := none } : Voice).take u := by
  unfold Voice.afterRead
  simp only [waiting]

/-- A RELEASING voice with nothing waiting goes to IDLE, a pool voice back to the pool (log 45). -/
theorem returned_idle (free : (p.voice v).waiting = none) : let q := (p.setVoice v (p.voice v).afterRead).returnPool v
    q.dir = p.dir ∧ q.agent = p.agent ∧ q.log = p.log ∧ (∀ u, u ≠ v → q.voice u = p.voice u) ∧
      q.voice v = { p.voice v with state := .idle, pending := none, holder := if 24 ≤ v.val then none else (p.voice v).holder } ∧
      (v.val < 24 → q.regions = p.regions) ∧
      ∀ r, 24 ≤ v.val → (p.voice v).holder = some r → (q.region r).pool ≠ some v ∧ (q.region r).lead ≠ some v := by
  let x : Voice := { p.voice v with state := .idle, pending := none }
  have after : (p.voice v).afterRead = x := afterRead_idle free
  have own : (p.setVoice v x).voice v = x := (Play.voice_setVoice p v v x).trans (if_pos rfl)
  have others (u : VoiceNo) (other : u ≠ v) (y : Voice) : (p.setVoice v y).voice u = p.voice u :=
    (Play.voice_setVoice p v u y).trans (if_neg (Ne.symm other))
  rw [after]
  dsimp only
  by_cases pool : 24 ≤ v.val
  · cases holder : (p.voice v).holder with
    | none =>
      have stays : (p.setVoice v x).returnPool v = p.setVoice v x := by
        unfold Play.returnPool
        dsimp only
        rw [own]
        split
        · rw [show x.holder = none from holder]
        · rfl
      rw [stays]
      refine ⟨rfl, rfl, rfl, fun u other => others u other x, own.trans ?_, fun _ => rfl, nofun⟩
      have same : (if 24 ≤ v.val then none else none : Option Region) = (p.voice v).holder := by rw [if_pos pool, holder]
      rw [same]
    | some r =>
      have returns : (p.setVoice v x).returnPool v = ((p.setVoice v x).setVoice v { x with holder := none }).modRegion r fun y => y.dropPool v := by
        unfold Play.returnPool
        dsimp only
        rw [own, if_pos (by rw [show isPool v = true from decide_eq_true pool]; rfl), show x.holder = some r from holder]
      rw [returns]
      refine ⟨rfl, rfl, rfl, fun u other => ?_, ?_, fun home => absurd pool (Nat.not_le.2 home), fun y _ is => ?_⟩
      · rw [Play.voice_modRegion, Play.voice_setVoice, if_neg (Ne.symm other)]
        exact others u other x
      · rw [Play.voice_modRegion, Play.voice_setVoice, if_pos rfl, if_pos pool]
      · cases is
        rw [Play.region_modRegion, if_pos rfl]
        constructor
        · show (if _ = some v then _ else _) ≠ _
          split
          · nofun
          · assumption
        · show (if _ = some v then _ else _) ≠ _
          split
          · nofun
          · assumption
  · have stays : (p.setVoice v x).returnPool v = p.setVoice v x := by
      unfold Play.returnPool
      exact if_neg (by rw [show isPool v = false from decide_eq_false pool]; nofun)
    rw [stays]
    refine ⟨rfl, rfl, rfl, fun u other => others u other x, own.trans ?_, fun _ => rfl, fun r isPool => absurd isPool pool⟩
    rw [if_neg pool]

/-- A RELEASING voice takes the priming that waits on it (log 56). -/
theorem returned_primed {u : Prime} (waiting : (p.voice v).waiting = some u) : let q := (p.setVoice v (p.voice v).afterRead).returnPool v
    q.dir = p.dir ∧ q.agent = p.agent ∧ q.log = p.log ∧ (∀ w, w ≠ v → q.voice w = p.voice w) ∧ q.regions = p.regions ∧
      PrimedAs (q.voice v) u ∧ (q.voice v).waiting = none := by
  let x : Voice := { p.voice v with state := .idle, pending := none, waiting := none }
  have after : (p.voice v).afterRead = x.take u := afterRead_primed waiting
  have own : (p.setVoice v (x.take u)).voice v = x.take u := (Play.voice_setVoice p v v _).trans (if_pos rfl)
  have primed := (primedAs_take x u).1
  have stays : (p.setVoice v (x.take u)).returnPool v = p.setVoice v (x.take u) := by
    unfold Play.returnPool
    refine if_neg fun idle => ?_
    have idle := beq_iff_eq.1 (Bool.and_eq_true_iff.1 idle).2
    rw [own, primed.state] at idle
    cases idle
  rw [after, stays]
  refine ⟨rfl, rfl, rfl, fun w other => (Play.voice_setVoice p v w _).trans (if_neg (Ne.symm other)), rfl, ?_, ?_⟩
  · rw [own]
    exact primed
  · obtain ⟨pend, form⟩ := x.take_form u
    rw [own, form]

end

/-! ## What every delivery keeps -/

/-- Only the on-air blocks, the Verify Unit and the current operation have changed. -/
structure OnlyServed (s t : State) : Prop where
  inFlight : t.inFlight = s.inFlight
  flash : t.flash = s.flash
  settings : t.settings = s.settings
  link : t.link = s.link
  queue : t.store.queue = s.store.queue
  pending : t.pending = s.pending

theorem OnlyServed.refl (s : State) : OnlyServed s s := ⟨rfl, rfl, rfl, rfl, rfl, rfl⟩

theorem OnlyServed.trans {s t u : State} (first : OnlyServed s t) (second : OnlyServed t u) : OnlyServed s u :=
  ⟨second.inFlight.trans first.inFlight, second.flash.trans first.flash, second.settings.trans first.settings, second.link.trans first.link,
    second.queue.trans first.queue, second.pending.trans first.pending⟩

theorem onlyServed_play (s : State) (p : Play) : OnlyServed s { s with play := p } := ⟨rfl, rfl, rfl, rfl, rfl, rfl⟩

theorem onlyServed_goStage (s : State) (st : Stage) : OnlyServed s (s.goStage st) := ⟨rfl, rfl, rfl, rfl, rfl, rfl⟩

theorem onlyServed_scanOn (s : State) (block : Nat) : OnlyServed s (s.scanOn block) := by
  unfold State.scanOn
  dsimp only
  split
  · exact onlyServed_play s _
  · exact onlyServed_play s _

theorem onlyServed_deliverScan (s : State) (image : PageImage) (e : ReadEnd) : OnlyServed s (s.deliverScan image e) := by
  unfold State.deliverScan
  dsimp only
  split
  · exact (onlyServed_play s _).trans (onlyServed_scanOn _ _)
  · split
    · split
      · unfold State.scanHead
        split
        · exact (onlyServed_play s _).trans (onlyServed_scanOn _ _)
        · exact (onlyServed_play s _).trans (onlyServed_scanOn _ _)
      · exact onlyServed_scanOn s _
    · exact onlyServed_scanOn s _
    · exact onlyServed_scanOn s _

theorem onlyServed_deliverCopy (s : State) (image : PageImage) (e : ReadEnd) : OnlyServed s (s.deliverCopy image e) := by
  unfold State.deliverCopy
  split
  · split
    · rw [copyFrom_eq, copyFrom_eq]
      split
      · exact onlyServed_goStage s _
      · split
        · exact onlyServed_goStage s _
        · exact onlyServed_goStage s _
    · exact .refl s
  · exact .refl s

theorem onlyServed_deliverPage (s : State) (image : PageImage) (e : ReadEnd) (block : Nat) : OnlyServed s (s.deliverPage image e block) := by
  unfold State.deliverPage
  split
  · exact onlyServed_play s _
  · exact .refl s

theorem onlyServed_deliverVerify (s : State) (image : PageImage) (e : ReadEnd) : OnlyServed s (s.deliverVerify image e) := by
  have verify (u : State) (k : Option VerifyJob) : OnlyServed u { u with verify := k } := ⟨rfl, rfl, rfl, rfl, rfl, rfl⟩
  unfold State.deliverVerify
  split
  · rename_i j _
    split
    · have reported : OnlyServed s (if e.weak then s.modDir fun d => d.reportWeak j.clip else s) := by
        split
        · exact onlyServed_play s _
        · exact .refl s
      dsimp only
      split
      · exact reported.trans ((verify _ none).trans (onlyServed_play _ _))
      · exact reported.trans (verify _ _)
    · exact verify s none
  · exact .refl s

theorem onlyServed_deliver (s : State) (f : InFlight) (a b c : Attempt) : OnlyServed { s with inFlight := none } (s.deliver f a b c) := by
  unfold State.deliver
  dsimp only
  cases f.who with
  | voice v => exact onlyServed_play _ _
  | relocation => exact onlyServed_deliverCopy _ _ _
  | readPage => exact onlyServed_deliverPage _ _ _ _
  | verify => exact onlyServed_deliverVerify _ _ _
  | cancelledVerify => exact .refl _
  | scan => exact onlyServed_deliverScan _ _ _
  | discarded => exact .refl _

theorem onlyServed_settleArray (s : State) : OnlyServed s s.settleArray := by
  obtain ⟨cur, form, -⟩ := settleArray_form s
  rw [form]
  exact ⟨rfl, rfl, rfl, rfl, rfl, rfl⟩

theorem onlyServed_afterDelivery (s : State) (who : Requester) : OnlyServed s (s.afterDelivery who) := by
  cases who with
  | voice v =>
    have returned : OnlyServed s s.grantReturned := by
      rcases grantReturned_cases s with same | granted
      · rw [same]
        exact .refl s
      · rw [granted]
        exact onlyServed_play s _
    exact returned
  | _ => exact .refl s

end Sys2Proof.Machine

/-! # A read delivered to the scan, the Verify Unit, Read Page and a relocation (O34) -/

namespace Sys2Proof.Machine

/-! ## To the scan (R114 to R116) -/

/-- The blocks skipped are worn; the one found is not, unless as many have been skipped as may be. -/
theorem skipWorn_skips (worn : List Nat) (fuel n : Nat) : (∀ k, n ≤ k → k < skipWorn worn fuel n → k ∈ worn) ∧
    (skipWorn worn fuel n ∉ worn ∨ skipWorn worn fuel n = n + fuel) := by
  induction fuel generalizing n with
  | zero => exact ⟨fun k low high => absurd high (Nat.not_lt.2 low), .inr rfl⟩
  | succ fuel ih =>
    unfold skipWorn
    by_cases skips : worn.contains n = true
    · rw [if_pos skips]
      obtain ⟨all, found⟩ := ih (n + 1)
      refine ⟨fun k low high => ?_, found.imp_right fun is => by omega⟩
      rcases Nat.eq_or_lt_of_le low with same | above
      · rw [← same]
        exact List.contains_iff_mem.1 skips
      · exact all k above high
    · rw [if_neg skips]
      exact ⟨fun k low high => absurd high (Nat.not_lt.2 low), .inl fun inside => skips (List.contains_iff_mem.2 inside)⟩

/-- With the size of the worn set as its fuel the search ends at a block that is not worn. -/
theorem skipWorn_not_mem (worn : List Nat) (n : Nat) : skipWorn worn worn.length n ∉ worn := by
  obtain ⟨all, found⟩ := skipWorn_skips worn worn.length n
  refine found.elim id fun is inside => ?_
  rw [is] at all inside
  have within : List.range' n (worn.length + 1) ⊆ worn := fun k inside' => by
    obtain ⟨low, high⟩ := List.mem_range'_1.1 inside'
    rcases Nat.lt_or_ge k (n + worn.length) with below | above
    · exact all k low below
    · rw [show k = n + worn.length by omega]
      exact inside
  have fewer := (List.Nodup.subperm (List.nodup_range' (s := n) (n := worn.length + 1)) within).length_le
  rw [List.length_range'] at fewer
  omega

/-- The scan goes on, from a state that differs from the first by what has been counted. -/
theorem scanOn_spec {s u : State} (block : Nat) (settings : u.settings = s.settings) (link : u.link = s.link)
    (state : u.play.dir.state = s.play.dir.state)
    (room : s.play.agent.noticeRoom = true → s.play.agent.returns.length + 2 ≤ 24 → u.play.agent.noticeRoom = true) :
    let t := u.scanOn block
    t.play.dir.entries = u.play.dir.entries ∧ t.play.dir.queue = u.play.dir.queue ∧ ScanGoesOn s u.play.dir.scan block t ∧
      (∀ e ∈ u.play.agent.returns, u.play.agent.noticeRoom = true → e ∈ t.play.agent.returns) := by
  let n := skipWorn u.settings.worn u.settings.worn.length block
  have above : block ≤ n := le_skipWorn _ _ _
  obtain ⟨all, -⟩ := skipWorn_skips u.settings.worn u.settings.worn.length block
  have fresh : n ∉ s.settings.worn := by
    rw [← settings]
    exact skipWorn_not_mem _ _
  rw [settings] at all
  dsimp only
  by_cases low : n < Config.logicalBlocks
  · have shape : u.scanOn block = u.modDir fun d => { d with scan := { d.scan with next := n, reading := true } } := if_pos low
    rw [shape]
    refine ⟨rfl, rfl, ⟨above, fun k => by rw [← settings] at all ⊢; exact all k, fresh, ?_⟩, fun e inside _ => inside⟩
    exact (if_pos low).mpr ⟨state, rfl⟩
  · have shape : u.scanOn block =
        (u.modDir fun d => { d with state := .complete, scan := { d.scan with next := n, reading := false } }).raise 0
          (.scanDone u.play.dir.scan.registered u.play.dir.scan.duplicates u.play.dir.scan.unreadable) := if_neg low
    rw [shape]
    refine ⟨rfl, rfl, ⟨above, fun k => by rw [← settings] at all ⊢; exact all k, fresh, ?_⟩, fun e inside open' => mem_place_of_mem open' _ _ inside⟩
    refine (if_neg low).mpr ⟨rfl, rfl, fun open' short => ?_⟩
    have raised := Play.mem_raise (u.modDir fun d => { d with state := .complete, scan := { d.scan with next := n, reading := false } }).play
      u.now 0 (.scanDone u.play.dir.scan.registered u.play.dir.scan.duplicates u.play.dir.scan.unreadable) (room open' short)
    have address : u.now.address = s.link.address := congrArg Link.address link
    have count : u.now.count = s.link.count := congrArg Link.count link
    rw [address, count] at raised
    exact raised

theorem scanGoesOn_play {s t u : State} (play : t.play = u.play) (c : ScanState) (block : Nat) :
    ScanGoesOn s c block t = ScanGoesOn s c block u := by
  unfold ScanGoesOn State.notified
  rw [play]

/-- What a delivery to the scan leaves of the directory, by the page that it finds. -/
theorem deliverScan_spec {s u : State} (image : PageImage) (e : ReadEnd) (settings : u.settings = s.settings) (link : u.link = s.link)
    (play : u.play = s.play) : let d := s.play.dir
    let block := d.scan.next
    let lost := e.outcome = .uncorrectable
    let t := u.deliverScan image e
    (lost → t.play.dir.entries = d.entries ∧ t.play.dir.queue = d.queue ∧
      ScanGoesOn s { d.scan with unreadable := d.scan.unreadable + 1 } (block + 1) t) ∧
    (¬ lost → (∀ clip h, image.header = .header clip h → 32768 < block + h.extent) →
      t.play.dir.entries = d.entries ∧ t.play.dir.queue = d.queue ∧ ScanGoesOn s d.scan (block + 1) t) ∧
    ∀ clip h, ¬ lost → image.header = .header clip h → block + h.extent ≤ 32768 →
      (d.find clip = none →
        (∀ x, x ∈ t.play.dir.entries ↔ x = ⟨clip, .unverified, block, h.extent, h, 0, 0, none⟩ ∨ x ∈ d.entries) ∧
        t.play.dir.queue = (if (∃ q ∈ d.queue, q.1 = clip) then d.queue else d.queue ++ [(clip, none)]) ∧
        ScanGoesOn s { d.scan with registered := d.scan.registered + 1 } (block + h.extent) t) ∧
      (∀ x, d.find clip = some x → t.play.dir.entries = d.entries ∧ t.play.dir.queue = d.queue ∧
        ScanGoesOn s { d.scan with duplicates := d.scan.duplicates + 1 } (block + h.extent) t ∧
        (s.play.agent.noticeRoom = true → s.play.agent.returns.length + 2 ≤ 24 →
          s.notified t.play 0 (.duplicateClip clip x.firstBlock block))) := by
  have failed : e.failed = true ↔ e.outcome = .uncorrectable := beq_iff_eq
  have plain (not : ¬ e.outcome = .uncorrectable) (none' : ∀ clip h, image.header = .header clip h → 32768 < s.play.dir.scan.next + h.extent) :
      u.deliverScan image e = u.scanOn (s.play.dir.scan.next + 1) := by
    unfold State.deliverScan
    dsimp only
    rw [if_neg fun is => not (failed.1 is), play]
    cases header : image.header with
    | noMagic => rfl
    | malformed => rfl
    | header clip h => exact if_neg fun fits => absurd (none' clip h header) (Nat.not_lt.2 (of_decide_eq_true fits))
  have headed (clip : Nat) (h : ClipHeader) (not : ¬ e.outcome = .uncorrectable) (header : image.header = .header clip h)
      (fits : s.play.dir.scan.next + h.extent ≤ 32768) : u.deliverScan image e = u.scanHead s.play.dir.scan.next clip h := by
    unfold State.deliverScan
    dsimp only
    rw [if_neg fun is => not (failed.1 is), play, header]
    exact if_pos (decide_eq_true fits)
  have dir : u.play.dir = s.play.dir := congrArg Play.dir play
  have state : u.play.dir.state = s.play.dir.state := congrArg Directory.state dir
  have entriesOf : u.play.dir.entries = s.play.dir.entries := congrArg Directory.entries dir
  have queueOf : u.play.dir.queue = s.play.dir.queue := congrArg Directory.queue dir
  dsimp only
  refine ⟨fun lost => ?_, fun not none' => ?_, fun clip h not header fits => ⟨fun free => ?_, fun x found => ?_⟩⟩
  · let w := u.modDir fun d => { d with scan := { d.scan with unreadable := d.scan.unreadable + 1 } }
    have shape : u.deliverScan image e = w.scanOn (s.play.dir.scan.next + 1) := by
      unfold State.deliverScan
      dsimp only
      rw [if_pos (failed.2 lost), play]
    obtain ⟨entries, queue, on, -⟩ := scanOn_spec (s := s) (u := w) (s.play.dir.scan.next + 1) settings link state
      fun open' _ => by
        show u.play.agent.noticeRoom = true
        rw [play]
        exact open'
    have scan : w.play.dir.scan = { s.play.dir.scan with unreadable := s.play.dir.scan.unreadable + 1 } := by
      show ({ u.play.dir.scan with unreadable := u.play.dir.scan.unreadable + 1 } : ScanState) = _
      rw [play]
    rw [scan] at on
    rw [shape]
    exact ⟨entries.trans entriesOf, queue.trans queueOf, on⟩
  · obtain ⟨entries, queue, on, -⟩ := scanOn_spec (s := s) (u := u) (s.play.dir.scan.next + 1) settings link state
      fun open' _ => by rw [play]; exact open'
    rw [plain not none']
    rw [dir] at entries queue on
    exact ⟨entries, queue, on⟩
  · let w := u.modDir fun d =>
      { d.register clip s.play.dir.scan.next h with scan := { d.scan with registered := d.scan.registered + 1 } }
    have shape : u.deliverScan image e = w.scanOn (s.play.dir.scan.next + h.extent) := by
      rw [headed clip h not header fits]
      unfold State.scanHead
      rw [dir, free]
      rfl
    obtain ⟨entries, queue, on, -⟩ := scanOn_spec (s := s) (u := w) (s.play.dir.scan.next + h.extent) settings link state
      fun open' _ => by
        show u.play.agent.noticeRoom = true
        rw [play]
        exact open'
    have registered : w.play.dir = { s.play.dir.register clip s.play.dir.scan.next h with
        scan := { s.play.dir.scan with registered := s.play.dir.scan.registered + 1 } } := by
      show ({ u.play.dir.register clip s.play.dir.scan.next h with
        scan := { u.play.dir.scan with registered := u.play.dir.scan.registered + 1 } } : Directory) = _
      rw [dir]
    rw [registered] at entries queue on
    obtain ⟨members, queued⟩ := register_spec free s.play.dir.scan.next h
    rw [shape]
    exact ⟨fun y => by rw [entries]; exact members y, queue.trans queued, on⟩
  · let w := (u.modDir fun d => { d with scan := { d.scan with duplicates := d.scan.duplicates + 1 } }).raise 0
      (.duplicateClip clip x.firstBlock s.play.dir.scan.next)
    have shape : u.deliverScan image e = w.scanOn (s.play.dir.scan.next + h.extent) := by
      rw [headed clip h not header fits]
      unfold State.scanHead
      rw [dir, found]
    have agent : w.play.agent = s.play.agent.place
        ⟨s.link.address, 0, .notice (.duplicateClip clip x.firstBlock s.play.dir.scan.next), s.link.count⟩
        (.duplicateClip clip x.firstBlock s.play.dir.scan.next) := by
      show u.play.agent.place ⟨u.link.address, 0, _, u.link.count⟩ _ = _
      rw [play, link]
    have room (open' : s.play.agent.noticeRoom = true) (short : s.play.agent.returns.length + 2 ≤ 24) : w.play.agent.noticeRoom = true := by
      have length := (place_perm open' ⟨s.link.address, 0, .notice (.duplicateClip clip x.firstBlock s.play.dir.scan.next), s.link.count⟩
        (.duplicateClip clip x.firstBlock s.play.dir.scan.next)).length_eq
      rw [List.length_cons] at length
      rw [agent]
      exact noticeRoom_of_short (by omega)
    obtain ⟨entries, queue, on, stays⟩ := scanOn_spec (s := s) (u := w) (s.play.dir.scan.next + h.extent) settings link state room
    have scan : w.play.dir = { s.play.dir with scan := { s.play.dir.scan with duplicates := s.play.dir.scan.duplicates + 1 } } := by
      show ({ u.play.dir with scan := { u.play.dir.scan with duplicates := u.play.dir.scan.duplicates + 1 } } : Directory) = _
      rw [dir]
    rw [scan] at entries queue on
    rw [shape]
    refine ⟨entries, queue, on, fun open' short => stays _ ?_ (room open' short)⟩
    rw [agent]
    exact mem_place open' _ _

/-! ## To the Verify Unit (R136 to R138) -/

theorem headMatches_iff (e : DirEntry) (image : PageImage) : e.headMatches image = true ↔
    ∃ h, image.header = .header e.clip h ∧ h = e.header ∧ e.firstBlock + h.extent ≤ 32768 := by
  have fits (h : ClipHeader) : extentFits e.firstBlock h.extent = true ↔ e.firstBlock + h.extent ≤ 32768 := decide_eq_true_iff
  unfold DirEntry.headMatches
  cases header : image.header with
  | noMagic => exact ⟨nofun, nofun⟩
  | malformed => exact ⟨nofun, nofun⟩
  | header clip h =>
    dsimp only
    rw [Bool.and_eq_true_iff, Bool.and_eq_true_iff, beq_iff_eq, beq_iff_eq, fits]
    constructor
    · rintro ⟨⟨rfl, same⟩, within⟩
      exact ⟨h, rfl, same, within⟩
    · rintro ⟨h', is, same, within⟩
      cases is
      exact ⟨⟨rfl, same⟩, within⟩

/-- The weak-read count of an entry behind a read. -/
def ReadEnd.weakCount (r : ReadEnd) (n : Nat) : Nat := match r.outcome with
  | .corrected k => if 6 ≤ k then min 65535 (n + 1) else n
  | _ => n

theorem weakCount_eq (r : ReadEnd) (n : Nat) : r.weakCount n = if r.weak then min 65535 (n + 1) else n := by
  unfold ReadEnd.weakCount ReadEnd.weak
  cases r.outcome with
  | clean => rfl
  | uncorrectable => rfl
  | corrected k => exact if_congr decide_eq_true_iff.symm rfl rfl

/-- A weak read reported, or none. -/
theorem reported_spec (d : Directory) (r : ReadEnd) {clip : Nat} {e : DirEntry} (found : d.find clip = some e) :
    let x := if r.weak then d.reportWeak clip else d
    x.queue = d.queue ∧ x.find clip = some { e with weak := r.weakCount e.weak } ∧ ∀ n, n ≠ clip → x.find n = d.find n := by
  dsimp only
  rw [weakCount_eq]
  cases r.weak with
  | false => exact ⟨rfl, found, fun _ _ => rfl⟩
  | true =>
    let f : DirEntry → DirEntry := fun e => { e with weak := min 65535 (e.weak + 1) }
    exact ⟨rfl, find_modify_own (f := f) (fun _ => rfl) found, fun n other => find_modify_other (f := f) (fun _ => rfl) other⟩

/-- A page delivered to the Verify Unit: the job goes on, or ends with its verdict. -/
theorem deliverVerify_spec {s : State} {j : VerifyJob} {e : DirEntry} (image : PageImage) (r : ReadEnd) (verify : s.verify = some j)
    (found : s.play.dir.find j.clip = some e) : let t := s.deliverVerify image r
    let k := j.after e image r
    t.play.dir.queue = s.play.dir.queue ∧ (∀ clip, clip ≠ j.clip → t.play.dir.find clip = s.play.dir.find clip) ∧
      (j.next ≠ e.header.audioPages → t.verify = some k ∧ t.play.dir.find j.clip = some { e with weak := r.weakCount e.weak }) ∧
      (j.next = e.header.audioPages →
        let pass := k.notVerified = 0 ∧ k.sum = e.header.audioSum
        let result : VerifyResult := ⟨k.verified, k.notVerified, k.lastGood, k.sum⟩
        t.verify = none ∧
          t.play.dir.find j.clip = some { e with
            weak := r.weakCount e.weak, state := if pass then .ready else .bad, faults := if pass then 0 else e.faults
            lastVerify := some result } ∧
          (s.play.agent.noticeRoom = true →
            s.notified t.play (j.tag.getD 0) (.verifyDone j.clip (decide pass) result e.header.audioSum))) := by
  obtain ⟨queue, own, others⟩ := reported_spec s.play.dir r found
  have reported : (if r.weak then s.modDir fun d => d.reportWeak j.clip else s) =
      s.modDir fun d => if r.weak then d.reportWeak j.clip else d := by
    cases r.weak <;> rfl
  have shape : s.deliverVerify image r =
      if j.next = e.header.audioPages then
        (s.modDir fun d => if r.weak then d.reportWeak j.clip else d).endVerify (j.after e image r) e
      else { (s.modDir fun d => if r.weak then d.reportWeak j.clip else d) with verify := some (j.after e image r) } := by
    unfold State.deliverVerify
    simp only [verify, found, reported]
  generalize isDir : (if r.weak then s.play.dir.reportWeak j.clip else s.play.dir) = d at queue own others
  have moved : s.modDir (fun d => if r.weak then d.reportWeak j.clip else d) = { s with play := { s.play with dir := d } } := by
    rw [← isDir]
    rfl
  rw [moved] at shape
  dsimp only
  by_cases last : j.next = e.header.audioPages
  · rw [if_pos last] at shape
    let k := j.after e image r
    let good := k.notVerified == 0 && k.sum == e.header.audioSum
    have pass : good = true ↔ k.notVerified = 0 ∧ k.sum = e.header.audioSum := by
      rw [Bool.and_eq_true_iff, beq_iff_eq, beq_iff_eq]
    have decided : good = decide (k.notVerified = 0 ∧ k.sum = e.header.audioSum) := Bool.eq_iff_iff.2 (pass.trans decide_eq_true_iff.symm)
    let f : DirEntry → DirEntry := fun e =>
      { e with
        state := if good then .ready else .bad, faults := if good then 0 else e.faults
        lastVerify := some ⟨k.verified, k.notVerified, k.lastGood, k.sum⟩ }
    have own' : (d.verdict j.clip good ⟨k.verified, k.notVerified, k.lastGood, k.sum⟩).find j.clip = some { e with
        weak := r.weakCount e.weak, state := if k.notVerified = 0 ∧ k.sum = e.header.audioSum then .ready else .bad
        faults := if k.notVerified = 0 ∧ k.sum = e.header.audioSum then 0 else e.faults
        lastVerify := some ⟨k.verified, k.notVerified, k.lastGood, k.sum⟩ } := by
      refine (find_modify_own (f := f) (fun _ => rfl) own).trans ?_
      have state : (if good then ClipState.ready else .bad) = if k.notVerified = 0 ∧ k.sum = e.header.audioSum then .ready else .bad :=
        if_congr pass rfl rfl
      have faults : (if good then 0 else e.faults) = if k.notVerified = 0 ∧ k.sum = e.header.audioSum then 0 else e.faults :=
        if_congr pass rfl rfl
      rw [← state, ← faults]
    have others' (n : Nat) (other : n ≠ j.clip) :
        (d.verdict j.clip good ⟨k.verified, k.notVerified, k.lastGood, k.sum⟩).find n = s.play.dir.find n :=
      (find_modify_other (f := f) (fun _ => rfl) other).trans (others n other)
    rw [shape]
    refine ⟨queue, others', fun not => absurd last not, fun _ => ⟨rfl, own', fun room => ?_⟩⟩
    rw [← decided]
    exact mem_place room _ _
  · rw [if_neg last] at shape
    rw [shape]
    exact ⟨queue, others, fun _ => ⟨rfl, own⟩, fun is => absurd is last⟩

/-- The job behind a page, by whether the page is good. -/
theorem after_good {j : VerifyJob} {e : DirEntry} {image : PageImage} {r : ReadEnd} {good : Bool}
    (isGood : good = true ↔ r.outcome ≠ .uncorrectable ∧
      (j.next ≠ 0 ∨ ∃ h, image.header = .header e.clip h ∧ h = e.header ∧ e.firstBlock + h.extent ≤ 32768)) :
    j.after e image r = { j with
      next := j.next + 1
      verified := if good then j.verified + 1 else j.verified
      notVerified := if good then j.notVerified else j.notVerified + 1
      lastGood := if good then some j.next else j.lastGood
      sum := if good ∧ j.next ≠ 0 then
        (j.sum + wordSum (image.bytes 0 (min 4096 (e.header.length * e.header.format.sampleBytes - (j.next - 1) * 4096)))) % 2 ^ 32
      else j.sum } := by
  have failed : r.failed = true ↔ r.outcome = .uncorrectable := beq_iff_eq
  have same : (!r.failed && (j.next != 0 || e.headMatches image)) = good := by
    refine Bool.eq_iff_iff.2 (Iff.trans ?_ isGood.symm)
    rw [Bool.and_eq_true_iff, Bool.not_eq_true', Bool.or_eq_true_iff, bne_iff_ne, headMatches_iff, ← Bool.not_eq_true, failed]
  have counts : (good && j.next != 0) = true ↔ good = true ∧ j.next ≠ 0 := by rw [Bool.and_eq_true_iff, bne_iff_ne]
  unfold VerifyJob.after
  rw [same]
  dsimp only
  congr 1
  exact if_congr counts rfl rfl

/-! ## To Read Page (R141) and to a relocation (R143, R144) -/

theorem readBytes_get {e : ReadEnd} (image : PageImage) (off n : Nat) : (e.bytes image off n).length = n ∧
    (e.outcome ≠ .uncorrectable → ∀ i, i < n → (e.bytes image off n)[i]? = some (image.byte (off + i))) := by
  have failed : e.failed = true ↔ e.outcome = .uncorrectable := beq_iff_eq
  unfold ReadEnd.bytes
  refine ⟨by rw [List.length_map, List.length_range], fun not i inside => ?_⟩
  rw [List.getElem?_map, List.getElem?_range inside, Option.map_some, if_neg fun is => not (failed.1 is)]

theorem deliverPage_play {s : State} {j : ReadJob} (image : PageImage) (e : ReadEnd) (block : Nat) (hand : s.play.agent.inHand = some j) :
    (s.deliverPage image e block).play = { s.play with agent := { s.play.agent with
      inHand := none
      returns := s.play.agent.returns ++ (if j.broadcast = true then [] else
        [⟨s.link.address, j.tag, .reply 0x59 .ok
          (.page (e.bytes image j.fields.offset j.fields.count) e.outcome e.attempts image.tag block), s.link.count⟩]) } } := by
  unfold State.deliverPage
  simp only [hand]
  cases j.broadcast with
  | true =>
    rw [if_pos rfl, if_pos rfl, List.append_nil]
  | false =>
    rw [if_neg nofun, if_neg nofun]
    rfl

/-- A copy read delivered: the relocation goes on, its step settled. -/
theorem deliverCopy_settled {s : State} {k : Current} {m : Spares} {i : Nat} (image : PageImage) (e : ReadEnd)
    (current : s.store.current = some k) (stage : k.stage = .relocRead m i) :
    let onward := fun m : Spares => if i + 1 < k.op.index then Stage.relocRead m (i + 1) else .relocStaged m
    let t := (s.deliverCopy image e).settleArray
    t.play = s.play ∧ ∃ x, t.store.current = some x ∧ x.op = k.op ∧ x.stage = (if e.outcome = .uncorrectable then
      onward { m with lost := m.lost + 1 } else if image.tag = true then .relocProgram m i image else onward m) := by
  have failed : e.failed = true ↔ e.outcome = .uncorrectable := beq_iff_eq
  intro onward
  have shape : s.deliverCopy image e = s.goStage (if e.outcome = .uncorrectable then onward { m with lost := m.lost + 1 }
      else if image.tag = true then .relocProgram m i image else onward m) := by
    unfold State.deliverCopy
    simp only [current, stage, copyFrom_eq]
    by_cases lost : e.outcome = .uncorrectable
    · rw [if_pos (failed.2 lost), if_pos lost]
    · rw [if_neg fun is => lost (failed.1 is), if_neg lost]
      split
      · rfl
      · rfl
  obtain ⟨x, form, op, isStage⟩ := goStage_settled current (if e.outcome = .uncorrectable then onward { m with lost := m.lost + 1 }
    else if image.tag = true then .relocProgram m i image else onward m)
  dsimp only
  rw [shape, form]
  exact ⟨rfl, x, rfl, op, isStage⟩

/-! ## The command, by the requester -/

section
variable {s : State} {f : InFlight} (a b c : Attempt)

theorem singleAttempt_eq_false (not : f.who ≠ .readPage) : s.singleAttempt f = false := by
  unfold State.singleAttempt
  cases who : f.who with
  | readPage => exact absurd who not
  | _ => rfl

theorem exec_deliverDropped (flying : s.inFlight = some f) (who : f.who = .cancelledVerify ∨ f.who = .discarded) :
    exec (.readDelivery a b c) s = .next ({ s with inFlight := none } : State).settleArray := by
  have delivered : s.deliver f a b c = { s with inFlight := none } := by
    unfold State.deliver
    rcases who with who | who
    · simp only [who]
    · simp only [who]
  rw [exec_readDelivery flying, delivered]
  rcases who with who | who
  · rw [who]
    rfl
  · rw [who]
    rfl

theorem exec_deliverScan (flying : s.inFlight = some f) (who : f.who = .scan) : exec (.readDelivery a b c) s =
    .next (({ s with inFlight := none } : State).deliverScan (readFlash s.flash (f.block * 64 + f.page % 64))
      (endRead false a b c)).settleArray := by
  have single : s.singleAttempt f = false := singleAttempt_eq_false (by rw [who]; nofun)
  have delivered : s.deliver f a b c = ({ s with inFlight := none } : State).deliverScan (readFlash s.flash (f.block * 64 + f.page % 64))
      (endRead false a b c) := by
    unfold State.deliver
    simp only [who, single]
    rfl
  rw [exec_readDelivery flying, delivered, who]
  rfl

theorem exec_deliverVerify (flying : s.inFlight = some f) (who : f.who = .verify) : exec (.readDelivery a b c) s =
    .next (({ s with inFlight := none } : State).deliverVerify (readFlash s.flash (f.block * 64 + f.page % 64))
      (endRead false a b c)).settleArray := by
  have single : s.singleAttempt f = false := singleAttempt_eq_false (by rw [who]; nofun)
  have delivered : s.deliver f a b c = ({ s with inFlight := none } : State).deliverVerify (readFlash s.flash (f.block * 64 + f.page % 64))
      (endRead false a b c) := by
    unfold State.deliver
    simp only [who, single]
    rfl
  rw [exec_readDelivery flying, delivered, who]
  rfl

theorem exec_deliverPage {j : ReadJob} (flying : s.inFlight = some f) (who : f.who = .readPage) (hand : s.play.agent.inHand = some j) :
    exec (.readDelivery a b c) s = .next (({ s with inFlight := none } : State).deliverPage
      (readFlash s.flash (f.block * 64 + f.page % 64)) (endRead j.fields.single a b c) f.block).settleArray := by
  have single : s.singleAttempt f = j.fields.single := by
    unfold State.singleAttempt
    simp only [who, hand]
  have delivered : s.deliver f a b c = ({ s with inFlight := none } : State).deliverPage (readFlash s.flash (f.block * 64 + f.page % 64))
      (endRead j.fields.single a b c) f.block := by
    unfold State.deliver
    simp only [who, single]
    rfl
  rw [exec_readDelivery flying, delivered, who]
  rfl

theorem exec_deliverCopy (flying : s.inFlight = some f) (who : f.who = .relocation) : exec (.readDelivery a b c) s =
    .next (({ s with inFlight := none } : State).deliverCopy (readFlash s.flash (f.block * 64 + f.page % 64))
      (endRead false a b c)).settleArray := by
  have single : s.singleAttempt f = false := singleAttempt_eq_false (by rw [who]; nofun)
  have delivered : s.deliver f a b c = ({ s with inFlight := none } : State).deliverCopy (readFlash s.flash (f.block * 64 + f.page % 64))
      (endRead false a b c) := by
    unfold State.deliver
    simp only [who, single]
    rfl
  rw [exec_readDelivery flying, delivered, who]
  rfl

end

/-- Settles O34, by the requester of the read. -/
theorem readDeliveryJoinsRing : Obligations.ReadDeliveryJoinsRing := by
  refine ⟨fun s f v q a b c flying who pending held wanted => ?_, fun s f v q a b c flying who pending releasing => ?_,
    fun s f v q a b c flying who pending held => ?_, fun s f a b c flying who => ?_, fun s f a b c flying => ?_,
    fun s f a b c flying who => ?_, fun s f a b c j e good flying who verify found => ?_, fun s f a b c j flying who hand => ?_,
    fun s f a b c k m i flying who current stage => ?_⟩
  · refine ⟨_, exec_deliverVoice a b c flying who, ?_⟩
    generalize readFlash s.flash (f.block * 64 + f.page % 64) = image
    generalize endRead false a b c = e
    obtain ⟨dir, form, same, reported⟩ := deliverVoice_joins (image := image) (e := e) pending held wanted
    obtain ⟨ring, state⟩ := join_fields ({ s.play.voice v with pending := none } : Voice) ⟨q.ref, image, e.failed⟩
    have own : (s.play.deliverVoice v image e).voice v = ({ s.play.voice v with pending := none } : Voice).join ⟨q.ref, image, e.failed⟩ := by
      rw [form]
      exact (Play.voice_setVoice s.play v v _).trans (if_pos rfl)
    refine ⟨by rw [own]; exact ring, by rw [own]; exact state, fun u other => ?_, by rw [form]; rfl, by rw [form]; rfl, fun not => ?_,
      fun n weak clip => ?_⟩
    · rw [form]
      exact (Play.voice_setVoice s.play v u _).trans (if_neg (Ne.symm other))
    · rw [form]
      exact same (Bool.eq_false_iff.2 fun weak => not ((weak_iff e).1 weak))
    · have clipOf : (s.play.voice v).clipOf q.ref.owner = some n := by
        unfold Voice.clipOf
        cases owner : q.ref.owner with
        | current => rw [owner] at clip; exact clip
        | successor => rw [owner] at clip; exact clip
      let g : DirEntry → DirEntry := fun e => { e with weak := min 65535 (e.weak + 1) }
      have isDir : (s.play.deliverVoice v image e).dir = s.play.dir.modify n g := by
        rw [form]
        exact reported n ((weak_iff e).2 weak) clipOf
      rw [isDir]
      refine ⟨fun k other => find_modify_other (f := g) (fun _ => rfl) other, ?_⟩
      cases found : s.play.dir.find n with
      | none => rw [find_modify_fields (f := g) fun _ => rfl, found]; rfl
      | some x => exact find_modify_own (f := g) (fun _ => rfl) found
  · refine ⟨_, exec_deliverVoice a b c flying who, ?_⟩
    rw [deliverVoice_releases pending releasing]
    let p := (s.play.setVoice v (s.play.voice v).afterRead).returnPool v
    have stands : p.dir = s.play.dir ∧ p.agent = s.play.agent ∧ p.log = s.play.log ∧ ∀ u, u ≠ v → p.voice u = s.play.voice u := by
      cases waiting : (s.play.voice v).waiting with
      | none =>
        obtain ⟨dir, agent, log, others, -⟩ := returned_idle waiting
        exact ⟨dir, agent, log, others⟩
      | some u =>
        obtain ⟨dir, agent, log, others, -⟩ := returned_primed waiting
        exact ⟨dir, agent, log, others⟩
    obtain ⟨dir, agent, log, others⟩ := stands
    refine ⟨dir, agent, log, others, fun free => ?_, fun u waiting => ?_⟩
    · obtain ⟨-, -, -, -, idle⟩ := returned_idle free
      exact idle
    · obtain ⟨-, -, -, -, regions, primed, free⟩ := returned_primed waiting
      exact ⟨regions, primed.state, free, primed.clip, primed.pos, primed.endPos, primed.fader, primed.group, primed.run, primed.ring⟩
  · intro wanted other
    rw [exec_deliverVoice a b c flying who, deliverVoice_discards pending held other]
  · exact exec_deliverDropped a b c flying who
  · have served := ((onlyServed_deliver s f a b c).trans (onlyServed_afterDelivery _ f.who)).trans (onlyServed_settleArray _)
    exact ⟨_, exec_readDelivery flying a b c, served.inFlight, served.flash, served.settings, served.link, served.queue, served.pending⟩
  · refine ⟨_, exec_deliverScan a b c flying who, ?_⟩
    generalize readFlash s.flash (f.block * 64 + f.page % 64) = image
    generalize endRead false a b c = e
    have found := deliverScan_spec (s := s) (u := { s with inFlight := none }) image e rfl rfl rfl
    generalize ({ s with inFlight := none } : State).deliverScan image e = u at found
    simp only [scanGoesOn_play (settleArray_keeps u).1, (settleArray_keeps u).1]
    exact found
  · refine fun isGood => ⟨_, exec_deliverVerify a b c flying who, ?_⟩
    generalize readFlash s.flash (f.block * 64 + f.page % 64) = image at isGood ⊢
    generalize endRead false a b c = r at isGood ⊢
    obtain ⟨queue, others, onward, last⟩ := deliverVerify_spec (s := { s with inFlight := none }) image r verify found
    obtain ⟨play, -, -, -, -, job, -⟩ := settleArray_keeps (({ s with inFlight := none } : State).deliverVerify image r)
    rw [after_good isGood] at onward last
    rw [play, job]
    exact ⟨queue, others, onward, last⟩
  · let e := endRead j.fields.single a b c
    let image := readFlash s.flash (f.block * 64 + f.page % 64)
    obtain ⟨length, bytes⟩ := readBytes_get (e := e) image j.fields.offset j.fields.count
    exact ⟨_, e.bytes image j.fields.offset j.fields.count, exec_deliverPage a b c flying who hand, length,
      (settleArray_keeps _).1.trans (deliverPage_play (s := { s with inFlight := none }) image e f.block hand), bytes⟩
  · obtain ⟨play, x, current', op, isStage⟩ := deliverCopy_settled (s := { s with inFlight := none })
      (readFlash s.flash (f.block * 64 + f.page % 64)) (endRead false a b c) current stage
    exact ⟨_, x, exec_deliverCopy a b c flying who, play, current', op, isStage⟩

end Sys2Proof.Machine
